-- ==== Sys2Proof/Word.lean ====
section
/-! DEFINITION. The byte of the trackside line and its plainest arithmetic. -/

namespace Sys2Proof

/-- One byte of a frame (R182). -/
abbrev Byte := BitVec 8

/-- The check code of a frame (R182). -/
abbrev Code16 := BitVec 16

/-- A number as one byte, taken modulo 256. -/
def byteOf (n : Nat) : Byte := BitVec.ofNat 8 n

end Sys2Proof
end

