-- ==== Sys2Proof/Syntax.lean ====
section
/-! DEFINITION. The commands the part takes: one constructor for each row of the table of operations and events.
The table gives a row no fields; a command's operands are those the row's rule gives the event or record.
Every command carries `t`, the moment (ms) at which the part takes it (log 1), and every management record carries
`last`, set when the record's continuation flag is clear (R182, log 5). -/

namespace Sys2Proof

/-- The two line ports (chapter 10). -/
inductive Port where
  | up
  | down
  deriving DecidableEq, Repr

/-- The commands of the part. `src` is the source address of the frame that carried a record. -/
inductive Instr where
  /-- POWER_ON (R148, R161): values of the ADDR and RATE straps, and whether ESTOP is asserted. -/
  | powerOn (t addr rate : Nat) (estop : Bool)
  /-- ESTOP_ASSERTED (R141). -/
  | estopAsserted (t : Nat)
  /-- ESTOP_RELEASED (R141). -/
  | estopReleased (t : Nat)
  /-- FRAME_RECEIVED (R162): the bytes between two idles, and whether one of them had a framing fault. -/
  | frameReceived (t : Nat) (port : Port) (bytes : List Byte) (byteFault : Bool)
  /-- FRAME_SENT (R170). -/
  | frameSent (t : Nat) (port : Port)
  /-- ACTUATOR_FRAME_PLACE (R129). -/
  | actuatorFramePlace (t : Nat)
  /-- RESPONSE_PLACE (R173). -/
  | responsePlace (t : Nat)
  /-- NOTICE_FRAME_BUILD (R171). -/
  | noticeFrameBuild (t : Nat)
  /-- SUPERVISOR_COMMAND_RESEND (R167). -/
  | supervisorCommandResend (t : Nat)
  /-- MARKER (R25, R184): sensor number and edge code (BLOCKED 0, CLEARED 1). -/
  | marker (t src sensor edge : Nat)
  /-- TRAP (R97, R184): trap pair and interval in units of 10 µs. -/
  | trap (t src pair interval : Nat)
  /-- BERTH (R64, R184). -/
  | berth (t src : Nat) (presence latch button : Bool)
  /-- WEIGHT (R77, R184): scale number, signed weight in kg, settled flag. -/
  | weight (t src scale : Nat) (kg : Int) (settled : Bool)
  /-- TAG (R38, R184): reader number and tag number. -/
  | tag (t src reader number : Nat)
  /-- BOOSTER_READY (R86): a BOOSTER record with report READY and its actuator number. -/
  | boosterReady (t src num : Nat)
  /-- BOOSTER_DONE (R88): a BOOSTER record with report DONE and its actuator number. -/
  | boosterDone (t src num : Nat)
  /-- HEARTBEAT (R150, R184): the levels of inputs 0 to 3, bit by bit. -/
  | heartbeat (t src : Nat) (inputs : BitVec 4)
  /-- HELLO (R119, R184): the code of the node kind the node reports for itself. -/
  | hello (t src kind : Nat)
  /-- LIMIT_ACK (R120). -/
  | limitAck (t src : Nat)
  /-- ACK_ACCEPTED (R130): an ACK record with result ACCEPTED. -/
  | ackAccepted (t src num tag : Nat)
  /-- ACK_REFUSED (R131): an ACK record with result REFUSED. -/
  | ackRefused (t src num tag : Nat)
  /-- ACK_TIMER_EXPIRY (R131) of the list entry of authority index `a`. -/
  | ackTimerExpiry (t a : Nat)
  /-- JOIN_TIMER_EXPIRY (R120) of node index `n`. -/
  | joinTimerExpiry (t n : Nat)
  /-- NODE_SILENT (R121): 60 ms since node `n` was last heard. -/
  | nodeSilent (t n : Nat)
  /-- NODE_LOST_SILENCE (R121): 200 ms since node `n` was last heard. -/
  | nodeLostSilence (t n : Nat)
  /-- WATCH_EXPIRY (R36) of zone `z`. -/
  | watchExpiry (t z : Nat)
  /-- CHARGE_TIMER_EXPIRY (R87) of launch section `sec`. -/
  | chargeTimerExpiry (t sec : Nat)
  /-- DONE_TIMER_EXPIRY (R88) of launch section `sec`. -/
  | doneTimerExpiry (t sec : Nat)
  /-- COOLDOWN_EXPIRY (R91) of launch section `sec`. -/
  | cooldownExpiry (t sec : Nat)
  /-- AUX_PULSE_EXPIRY (R154) of auxiliary line `u`. -/
  | auxPulseExpiry (t u : Nat)
  /-- CHECK_ITEM (R146): the table check examines its next item. -/
  | checkItem (t : Nat)
  /-- SELECT_TABLE (R175): a table number. -/
  | selectTable (t : Nat) (last : Bool) (table : Nat)
  /-- SELECT_INDEX (R175): an index. -/
  | selectIndex (t : Nat) (last : Bool) (index : Nat)
  /-- WRITE (R176): an entry image of 26 bytes. -/
  | write (t : Nat) (last : Bool) (image : List Byte)
  /-- READ (R177). -/
  | read (t : Nat) (last : Bool)
  /-- MODE CONFIG (R138). -/
  | modeConfig (t : Nat) (last : Bool)
  /-- MODE RUN (R138). -/
  | modeRun (t : Nat) (last : Bool)
  /-- MODE HOLD (R138). -/
  | modeHold (t : Nat) (last : Bool)
  /-- MODE RESUME (R144). -/
  | modeResume (t : Nat) (last : Bool)
  /-- MODE STOP (R138). -/
  | modeStop (t : Nat) (last : Bool)
  /-- PLACE_BOAT (R21): boat, class, zone and route code (MAIN 0, BAY 1). -/
  | placeBoat (t : Nat) (last : Bool) (boat cls zone route : Nat)
  /-- RETIRE_BOAT (R22). -/
  | retireBoat (t : Nat) (last : Bool) (boat : Nat)
  /-- SET_ROUTE (R23): boat and route code. -/
  | setRoute (t : Nat) (last : Bool) (boat route : Nat)
  /-- CLEAR_ZONE (R15). -/
  | clearZone (t : Nat) (last : Bool) (zone : Nat)
  /-- INJECT_TRIGGER (R158). -/
  | injectTrigger (t : Nat) (last : Bool) (channel : Nat)
  /-- CLEAR_COUNTERS (R179). -/
  | clearCounters (t : Nat) (last : Bool)
  /-- NOTICE_MASK (R180, R186): bit n enables notice kind n. -/
  | noticeMask (t : Nat) (last : Bool) (mask : BitVec 24)
  /-- STATUS (R178). -/
  | status (t : Nat) (last : Bool)
  /-- RESET RUNTIME (R181). -/
  | resetRuntime (t : Nat) (last : Bool)
  /-- RESET FULL (R181). -/
  | resetFull (t : Nat) (last : Bool)
  deriving DecidableEq, Repr

end Sys2Proof
end

