-- ==== Sys2Proof/Config.lean ====
section
/-! DEFINITION. The durations the part fixes, and the free values: choices the manual leaves open, opaque constants
that no proof can see into. -/

namespace Sys2Proof.Config

/-- Marker repeat window, ms (R26, R29). -/
def repeatWindow : Nat := 500
/-- Acknowledgement timer, ms (R129). -/
def ackTime : Nat := 50
/-- Join timer, ms (R120). -/
def joinTime : Nat := 50
/-- Silence that makes an ACTIVE node SILENT, ms (R121). -/
def silentTime : Nat := 60
/-- Silence that makes a SILENT node LOST, ms (R121). -/
def lostTime : Nat := 200
/-- DONE timer, ms (R86). -/
def doneTime : Nat := 500
/-- Forward queue length (R168). -/
def fwdCap : Nat := 8
/-- Origin queue length (R169). -/
def originCap : Nat := 16
/-- Notice queue length (R180). -/
def noticeCap : Nat := 16
/-- Most notices in one NOTICE frame (R171). -/
def noticePack : Nat := 12
/-- Most records a request frame may carry (R173). -/
def requestCap : Nat := 8

/-- Free value (log 9): the n-th time two reports may be taken in either order inside one command, whether the one
the rule names first is taken first (R87, R142). -/
opaque freeOrder : Nat → Bool

/-- Free value (log 18): how a settled flag coded by a byte above 1 is read (R184 codes it 0 or 1 only). -/
opaque oddFlag : Nat → Bool

end Sys2Proof.Config
end

