-- ==== Sys2Proof/Machine/State.lean ====
section
/-! DEFINITION. The state of the part: its tables, status records, queues, counters, timers and pins, as plain data.
Times are in ms on the clock `now`; a running timer is held as the moment it started (or ends, where the manual says so). -/

namespace Sys2Proof.Machine

/-! ### Names of the manual -/

/-- Zone kinds (R1, R2). -/
inductive ZKind where
  | berth | launch | queue | channel | drop | brakeRun | transfer
  deriving DecidableEq, Repr, Inhabited

/-- Zone faults (R10, R14). -/
inductive ZFault where
  | overdue | unexpected | missed | double
  deriving DecidableEq, Repr

/-- Routes (R3). -/
inductive Route where
  | main | bay
  deriving DecidableEq, Repr, Inhabited

/-- Boat states (R20). -/
inductive BoatState where
  | waiting | requested | granted | moving
  deriving DecidableEq, Repr, Inhabited

/-- Berth roles (R60). -/
inductive Role where
  | unload | load | pad
  deriving DecidableEq, Repr, Inhabited

/-- Berth states (R62). -/
inductive BerthState where
  | empty | occupied | secured | requested | released | fault
  deriving DecidableEq, Repr, Inhabited

/-- Lamp values (R62). -/
inductive Lamp where
  | off | on | blink
  deriving DecidableEq, Repr, Inhabited

/-- Lock values (R62). -/
inductive LockV where
  | lock | unlock
  deriving DecidableEq, Repr, Inhabited

/-- Berth fault reasons (R62). -/
inductive BerthFault where
  | none | presenceLost | tag
  deriving DecidableEq, Repr, Inhabited

/-- Sequencer states (R82). -/
inductive SeqState where
  | idle | charging | firing | measuring | cooldown
  deriving DecidableEq, Repr, Inhabited

/-- Trap uses (R96). -/
inductive TrapUse where
  | check | launch | brake
  deriving DecidableEq, Repr, Inhabited

/-- Brake run states (R109). -/
inductive RunState where
  | ready | set | restoring
  deriving DecidableEq, Repr, Inhabited

/-- Node kinds (R117). -/
inductive NodeKind where
  | marker | berth | brake | gate | booster | aux
  deriving DecidableEq, Repr, Inhabited

/-- Roster states (R118). -/
inductive Roster where
  | absent | joining | active | silent | lost
  deriving DecidableEq, Repr, Inhabited

/-- Actuator kinds (R124). -/
inductive ActKind where
  | gate | fin | lamp | lock | switch | booster | generic
  deriving DecidableEq, Repr, Inhabited

/-- Actuator owners (R124). -/
inductive Owner where
  | controller | supervisor | shared
  deriving DecidableEq, Repr, Inhabited

/-- Actuator values, each of one kind (R125). -/
inductive ActValue where
  | gateOpen | gateClose
  | finEngage | finRetract
  | lampOff | lampOn | lampBlink
  | lockLock | lockUnlock
  | switchMain | switchAlt
  | boosterRequest (target : Nat) | boosterFire | boosterSafe
  | genericOn | genericOff
  deriving DecidableEq, Repr

/-- Ride modes (R137). -/
inductive Mode where
  | config | checking | run | hold | stop
  deriving DecidableEq, Repr, Inhabited

/-- Blocks named by a MODE_CHANGED notice (R137). -/
inductive Block where
  | passage | watch | tag | berth | node | actuator | launch | trap
  deriving DecidableEq, Repr

/-- Causes of a mode change (R137). -/
inductive Cause where
  | record | estop | block (b : Block) | checkPassed | checkFailed | checkHeld
  deriving DecidableEq, Repr

/-- Outcomes of a table check (R147). -/
inductive CheckOutcome where
  | none | inProgress | passed | failed | aborted
  deriving DecidableEq, Repr, Inhabited

/-- Reasons of the table check, in the order of R146. -/
inductive CheckReason where
  | undefinedSuccessor | selfSuccessor | switchPair | gate | pathLength | pathLoop | backReference | zoneKind | trapUse
  | runTrapCount | noBand | bandOrder | pathEnd | authorityUndefined | authorityKind | authorityOwner | authorityShared
  | nodeNotActive | boatZone
  deriving DecidableEq, Repr

/-- The tables, in the order of their codes (R175, R186). -/
inductive Table where
  | zone | cls | node | authority | trap | launch | band | run | stage | berth | channel | user | zoneStatus | boat
  | nodeStatus | actuatorStatus | berthStatus | counters | checkResult
  deriving DecidableEq, Repr, Inhabited

/-- Modes of a trigger user (R152). -/
inductive UserMode where
  | follow | rising | falling
  deriving DecidableEq, Repr, Inhabited

/-- Generators of the trigger matrix with their parameters (R149). -/
inductive Gen where
  | modeIs (m : Mode) | zoneOccupied (z : Nat) | nodeActive (n : Nat) | nodeInput (n input : Nat) | estopLine
  | passage (z : Nat) | trapDone (trap : Nat) | launchFired (sec : Nat) | brakeSet (run : Nat) | berthButton (berth : Nat)
  | holdEntered
  deriving DecidableEq, Repr

/-- What arrives at a user (R153). -/
inductive Arrival where
  | rise | fall | pulse
  deriving DecidableEq, Repr

/-- Where a pulse comes from (R156). -/
inductive Source where
  | generated | injected
  deriving DecidableEq, Repr

/-- Reasons of a refused path (R41). -/
inductive PathReason where
  | undefined | loop | length
  deriving DecidableEq, Repr

/-- Reasons of BERTH_ALARM (R73, R74). -/
inductive AlarmReason where
  | latchOpen | presenceLost
  deriving DecidableEq, Repr

/-- Reasons of LAUNCH_REFUSED (R83). -/
inductive RefuseReason where
  | noWeight | implausible | overweight | brakeCapacity | inhibited
  deriving DecidableEq, Repr

/-- Reasons of LAUNCH_ABORTED (R87). -/
inductive AbortReason where
  | chargeTimeout | latchOpen | mode | nodeLost | inhibited | reservation | brakeCapacity | departed
  deriving DecidableEq, Repr

/-- Results of LAUNCH_RESULT (R89, R90). -/
inductive LaunchResult where
  | weak | strong | normal | none
  deriving DecidableEq, Repr

/-- Reasons of BOOSTER_FAULT (R88, R92). -/
inductive BoosterReason where
  | doneTimeout | uncommanded
  deriving DecidableEq, Repr

/-- Reasons of NODE_STATE (R120, R121, R131). -/
inductive NodeReason where
  | none | joinTimeout | silence | actuator
  deriving DecidableEq, Repr

/-- Reasons of ACTUATOR_FAULT (R131). -/
inductive FailReason where
  | refused | timeout
  deriving DecidableEq, Repr

/-- Result codes of management records, in the order of R186. -/
inductive Code where
  | ok | okClamped | mode | busy | table | index | value | readOnly | sequence | conflict | format
  deriving DecidableEq, Repr, Inhabited

/-- Notices: each constructor carries the fields its raising rule names, in that order (R180, R186). A boat that the
rule gives as "or none" is an Option. -/
inductive Notice where
  | missed (zone boat : Nat)
  | unexpectedPassage (zone : Nat)
  | unexpectedTrap (zone trap : Nat)
  | double (zone : Nat) (occupant : Option Nat)
  | overdue (zone : Nat) (occupant : Option Nat)
  | tagMismatch (berth zone tag : Nat) (occupant : Option Nat)
  | path (boat origin : Nat) (reason : PathReason)
  | throwFailed (origin boat : Nat)
  | berthAlarm (berth zone : Nat) (reason : AlarmReason)
  | launchRefused (sec boat : Nat) (reason : RefuseReason)
  | launchAborted (sec boat : Nat) (reason : AbortReason)
  | launchResult (sec boat band target : Nat) (speed : Option Nat) (result : LaunchResult)
  | boosterFault (sec boat : Nat) (reason : BoosterReason)
  | overspeedLimit (trap zone : Nat) (boat : Option Nat) (v limit : Nat)
  | overspeedEntry (run boat trap v max : Nat)
  | brakeShortfall (run boat force available : Nat)
  | brakeSet (run boat trap v force count : Nat)
  | trapInvalid (trap run boat : Nat)
  | nodeState (node : Nat) (state : Roster) (reason : NodeReason)
  | nodeKindMismatch (node address : Nat) (table reported : NodeKind)
  | actuatorFault (a node : Nat) (value : ActValue) (reason : FailReason)
  | filteredMalformed (dst : Nat)
  | filteredAuthority (dst num : Nat) (mode : Mode)
  | modeChanged (new old : Mode) (cause : Cause)
  | trigger (user channel : Nat) (gen : Option Gen) (arrival : Arrival) (source : Source)
  deriving DecidableEq, Repr

/-! ### Tables written by the supervisor -/

/-- A defined zone table entry (R1). -/
structure ZoneEntry where
  kind : ZKind
  main : Nat
  alt : Option Nat
  switch : Option Nat
  markerNode : Nat
  markerSensor : Nat
  gate : Option Nat
  transit : Nat
  speedLimit : Option Nat
  depends : List Nat
  berth : Option Nat
  sec : Option Nat
  run : Option Nat
  deriving DecidableEq, Repr, Inhabited

/-- A boat class (R9). -/
structure ClassEntry where
  empty : Nat
  max : Nat
  deriving DecidableEq, Repr, Inhabited

/-- A defined node table entry (R117). -/
structure NodeEntry where
  address : Nat
  kind : NodeKind
  limit1 : Nat
  limit2 : Nat
  deriving DecidableEq, Repr, Inhabited

/-- A defined authority table entry (R124). -/
structure AuthEntry where
  node : Nat
  num : Nat
  kind : ActKind
  owner : Owner
  deriving DecidableEq, Repr, Inhabited

/-- A defined trap (R96). -/
structure TrapEntry where
  node : Nat
  pair : Nat
  spacing : Nat
  zone : Nat
  use : TrapUse
  run : Option Nat
  deriving DecidableEq, Repr, Inhabited

/-- A defined launch section (R80). -/
structure LaunchEntry where
  zone : Nat
  booster : Nat
  trap : Nat
  run : Nat
  charge : Nat
  cooldown : Nat
  tolerance : Nat
  deriving DecidableEq, Repr, Inhabited

/-- A defined mass band (R81). -/
structure BandEntry where
  upper : Nat
  target : Nat
  drop : Nat
  deriving DecidableEq, Repr, Inhabited

/-- A defined brake run (R101). -/
structure RunEntry where
  zone : Nat
  length : Nat
  exit : Nat
  passive : Nat
  maxEntry : Nat
  water : Nat
  stages : Nat
  minStages : Nat
  deriving DecidableEq, Repr, Inhabited

/-- A brake stage (R102). -/
structure StageEntry where
  fin : Nat
  nominal : Nat
  trim : Int
  deriving DecidableEq, Repr, Inhabited

/-- A defined berth (R60). -/
structure BerthEntry where
  zone : Nat
  node : Nat
  role : Role
  lamp : Nat
  lock : Nat
  scale : Option Nat
  reader : Option Nat
  deriving DecidableEq, Repr, Inhabited

/-- A trigger user (R152): `param` is the pulse length of an AUX user, the zone of a HOLD user, the section of an
INHIBIT user, and nothing for a NOTICE user. -/
structure UserEntry where
  chan : Nat
  mode : UserMode
  param : Nat
  deriving DecidableEq, Repr, Inhabited

/-- The tables, each entry `none` where its defined field is false. -/
structure Tables where
  zone : Vector (Option ZoneEntry) 64
  cls : Vector ClassEntry 4
  node : Vector (Option NodeEntry) 48
  auth : Vector (Option AuthEntry) 64
  trap : Vector (Option TrapEntry) 8
  launch : Vector (Option LaunchEntry) 2
  band : Vector (Option BandEntry) 16
  run : Vector (Option RunEntry) 2
  stage : Vector StageEntry 16
  berth : Vector (Option BerthEntry) 6
  chan : Vector (Option Gen) 12
  user : Vector UserEntry 22
  deriving DecidableEq, Repr

/-! ### Status records -/

/-- A zone's status (R10). The FAULT hold is present exactly while `fault` is not none (R14). -/
structure ZoneStatus where
  occupant : Option Nat
  reserved : Option Nat
  nodeHold : Bool
  userHold : Bool
  latch : Bool
  fault : Option ZFault
  watch : Option Nat
  deriving DecidableEq, Repr

/-- A boat record (R19); its number is its place in the register. -/
structure Boat where
  cls : Nat
  route : Route
  zone : Nat
  state : BoatState
  overdue : Bool
  path : List Nat
  weight : Option Nat
  lastSpeed : Option (Nat × Nat)
  band : Option (Nat × Nat)
  stageCount : Option (Nat × Nat)
  entryTime : Nat
  deriving DecidableEq, Repr, Inhabited

/-- A reservation queue entry (R43); `order` stands for its request time (log 23). -/
structure QEntry where
  boat : Nat
  origin : Nat
  path : List Nat
  order : Nat
  deriving DecidableEq, Repr, Inhabited

/-- The stage a release has reached (R48 to R51). -/
inductive RelStage where
  | gate | launch | throw (switch : Nat)
  deriving DecidableEq, Repr

/-- A release in progress (3.4): the granted entry, to be restored by R52 and R53, and the stage. -/
structure Release where
  entry : QEntry
  stage : RelStage
  deriving DecidableEq, Repr

/-- A berth's status (R62). -/
structure BerthStatus where
  state : BerthState
  presence : Bool
  latch : Bool
  pending : Bool
  lamp : Lamp
  lock : LockV
  lampDone : Bool
  lockDone : Bool
  weight : Option Nat
  reason : BerthFault
  deriving DecidableEq, Repr

/-- A launch sequencer (R82). -/
structure Seq where
  state : SeqState
  boat : Option Nat
  band : Option Nat
  target : Option Nat
  held : Option Nat
  charge : Option Nat
  done : Option Nat
  cooldown : Option Nat
  deriving DecidableEq, Repr

/-- A brake run's status (R109). -/
structure RunStatus where
  state : RunState
  boat : Option Nat
  count : Option Nat
  awaiting : Vector Bool 8
  deriving DecidableEq, Repr

/-- A node's status (R118). -/
structure NodeStatus where
  state : Roster
  lastHeard : Option Nat
  join : Option Nat
  limitPending : Bool
  localFault : Bool
  deriving DecidableEq, Repr

/-- An actuator's status (R126). -/
structure ActStatus where
  commanded : Option ActValue
  confirmed : Bool
  deriving DecidableEq, Repr

/-- An entry of the actuator command list (R127); `sent` holds the sent time. -/
structure CmdEntry where
  act : Nat
  value : ActValue
  tag : Nat
  sent : Option Nat
  deriving DecidableEq, Repr

/-- The check result (R147). -/
structure CheckResult where
  outcome : CheckOutcome
  item : Option Nat
  table : Option Table
  index : Option Nat
  reason : Option CheckReason
  subject : Option Nat
  deriving DecidableEq, Repr

/-- A table check in progress (R137): its start time and the item being examined. -/
structure CheckProgress where
  start : Nat
  item : Nat
  deriving DecidableEq, Repr

/-- Mode control (R137). -/
structure ModeCtl where
  mode : Mode
  layoutChecked : Bool
  holdPending : Bool
  check : Option CheckProgress
  result : CheckResult
  estop : Bool
  stopOut : Bool
  deriving DecidableEq, Repr

/-- A frame in a queue: its bytes (R182), and the authority indexes the actuator unit is to hand again once the frame
has been sent (R167). -/
structure QFrame where
  bytes : List Byte
  resend : List Nat
  deriving DecidableEq, Repr

/-- A port's queues and its frame in transmission (R168 to R170). -/
structure PortState where
  fwd : List QFrame
  origin : List QFrame
  tx : Option QFrame
  deriving DecidableEq, Repr

/-- A result record (R174, R186); `resetMode` marks the result whose data reports the mode (R181). -/
structure MgmtResult where
  code : Code
  table : Nat
  index : Nat
  data : List Byte
  resetMode : Bool
  deriving DecidableEq, Repr

/-- The two resets (R181). -/
inductive ResetKind where
  | runtime | full
  deriving DecidableEq, Repr

/-- A request frame being carried out (R173): the results so far, a SELECT_TABLE whose SELECT_INDEX may follow (R175),
a RESET asked for (R181), whether it holds too many records, and whether it is consumed unanswered (R173). -/
structure Request where
  results : List MgmtResult
  select : Option Nat
  reset : Option ResetKind
  overfull : Bool
  skip : Bool
  deriving DecidableEq, Repr

/-- The read holder's content (R177). -/
structure Holding where
  table : Table
  index : Nat
  image : List Byte
  deriving DecidableEq, Repr

/-- Set aside while a command is carried out, empty between commands (log 7): a scan is due (R45), the channels
pulsed (R157), the berths that took an event (R63), and NOTICE frames waiting for a reset's response (R181). -/
structure Ev where
  scanDue : Bool
  pulsed : List Nat
  touched : List Nat
  holdNotices : Bool
  deriving DecidableEq, Repr

/-- The whole part. -/
structure State where
  now : Nat
  pending : List Instr
  addr : Nat
  rate : Nat
  up : PortState
  dn : PortState
  resendDue : List Nat
  tab : Tables
  zs : Vector ZoneStatus 64
  boats : Vector (Option Boat) 24
  rel : Vector (Option Release) 24
  queue : List QEntry
  reqSeq : Nat
  berths : Vector BerthStatus 6
  seqs : Vector Seq 2
  runs : Vector RunStatus 2
  nodes : Vector NodeStatus 48
  inputs : Vector (BitVec 4) 48
  acts : Vector ActStatus 64
  cmds : List CmdEntry
  tag : Nat
  mc : ModeCtl
  pulses : Vector (Option Nat) 8
  lines : Vector Bool 8
  ptr : Table × Nat
  holder : Option Holding
  held : Option QFrame
  req : Option Request
  notices : List Notice
  mask : BitVec 22
  counters : Vector Nat 21
  free : Nat
  ev : Ev
  deriving DecidableEq, Repr

/-- Reasons the part stops: none. Every fault the manual names (of a zone, a berth, an actuator, a frame) is an
ordinary effect on the state, after which the part goes on. -/
inductive Fault where
  deriving DecidableEq, Repr

/-- Commands without a meaning. -/
inductive Refusal where
  /-- Raised by `exec` for a command that has no meaning yet; safe, because nothing is claimed of it. -/
  | notModelled (mnemonic : String)
  deriving DecidableEq, Repr

/-! ### Values after power-on -/

/-- A zone's status when clear (R10, R17). -/
def ZoneStatus.clear : ZoneStatus := ⟨none, none, false, false, false, none, none⟩
/-- A berth's status at power-on (R79). -/
def BerthStatus.initial : BerthStatus := ⟨.empty, false, false, false, .off, .lock, false, false, none, .none⟩
/-- An IDLE sequencer (R82, R95). -/
def Seq.idle : Seq := ⟨.idle, none, none, none, none, none, none, none⟩
/-- A READY run with no stage awaiting (R116). -/
def RunStatus.ready : RunStatus := ⟨.ready, none, none, Vector.replicate 8 false⟩
/-- An ABSENT node (R118, R136). -/
def NodeStatus.absent : NodeStatus := ⟨.absent, none, none, false, false⟩
/-- The status of an undefined actuator (R126). -/
def ActStatus.none : ActStatus := ⟨Option.none, false⟩
/-- The check result with outcome NONE (R148). -/
def CheckResult.empty : CheckResult := ⟨.none, none, none, none, none, none⟩
/-- A port with nothing waiting (R172). -/
def PortState.empty : PortState := ⟨[], [], none⟩
/-- Nothing set aside. -/
def Ev.none : Ev := ⟨false, [], [], false⟩
/-- A user with no channel (R160); an AUX user has pulse length 1 ms, the others parameter 0. -/
def UserEntry.initial (i : Nat) : UserEntry := ⟨0, .follow, if i < 8 then 1 else 0⟩

/-- The tables at power-on (R17, R79, R95, R116, R136, R160). -/
def Tables.initial : Tables where
  zone := Vector.replicate 64 none
  cls := Vector.replicate 4 ⟨0, 0⟩
  node := Vector.replicate 48 none
  auth := Vector.replicate 64 none
  trap := Vector.replicate 8 none
  launch := Vector.replicate 2 none
  band := Vector.replicate 16 none
  run := Vector.replicate 2 none
  stage := Vector.replicate 16 ⟨0, 0, 0⟩
  berth := Vector.replicate 6 none
  chan := Vector.replicate 12 none
  user := (Vector.range 22).map UserEntry.initial

/-- The part right after power-on, CONFIG established (R148), with the straps at 0 and ESTOP released (DESIGN CHOICE,
unsafe, log 6): the manual gives every other value. -/
def State.reset : State where
  now := 0
  pending := []
  addr := 96
  rate := 0
  up := .empty
  dn := .empty
  resendDue := []
  tab := .initial
  zs := Vector.replicate 64 .clear
  boats := Vector.replicate 24 none
  rel := Vector.replicate 24 none
  queue := []
  reqSeq := 0
  berths := Vector.replicate 6 .initial
  seqs := Vector.replicate 2 .idle
  runs := Vector.replicate 2 .ready
  nodes := Vector.replicate 48 .absent
  inputs := Vector.replicate 48 0
  acts := Vector.replicate 64 .none
  cmds := []
  tag := 0
  mc := ⟨.config, false, false, none, .empty, false, false⟩
  pulses := Vector.replicate 8 none
  lines := Vector.replicate 8 false
  ptr := (.zone, 0)
  holder := none
  held := none
  req := none
  notices := []
  mask := BitVec.allOnes 22
  counters := Vector.replicate 21 0
  free := 0
  ev := .none

end Sys2Proof.Machine
end

