-- ==== Sys2Proof/Machine/Access.lean ====
section
/-! DEFINITION. Reading and writing the entries of the tables and status records by their manual numbers. An entry
that does not exist reads as undefined or clear, and a write to it changes nothing (log 32). -/

namespace Sys2Proof.Machine

/-! ### Tables -/

/-- Zone table entry `z`, if defined (R1). -/
def State.zoneE (s : State) (z : Nat) : Option ZoneEntry := s.tab.zone[z]?.join
/-- Boat class `c` (R9). -/
def State.clsE (s : State) (c : Nat) : ClassEntry := s.tab.cls[c]?.getD ⟨0, 0⟩
/-- Node table entry `n`, if defined (R117). -/
def State.nodeE (s : State) (n : Nat) : Option NodeEntry := s.tab.node[n]?.join
/-- Authority table entry `a`, if defined (R124). -/
def State.authE (s : State) (a : Nat) : Option AuthEntry := s.tab.auth[a]?.join
/-- Trap `i`, if defined (R96). -/
def State.trapE (s : State) (i : Nat) : Option TrapEntry := s.tab.trap[i]?.join
/-- Launch section `k`, if defined (R80). -/
def State.launchE (s : State) (k : Nat) : Option LaunchEntry := s.tab.launch[k]?.join
/-- Band table entry `i`, if defined (R81). -/
def State.bandE (s : State) (i : Nat) : Option BandEntry := s.tab.band[i]?.join
/-- Brake run `r`, if defined (R101). -/
def State.runE (s : State) (r : Nat) : Option RunEntry := s.tab.run[r]?.join
/-- Stage table entry `i` (R102). -/
def State.stageE (s : State) (i : Nat) : StageEntry := s.tab.stage[i]?.getD ⟨0, 0, 0⟩
/-- Berth `b`, if defined (R60). -/
def State.berthE (s : State) (b : Nat) : Option BerthEntry := s.tab.berth[b]?.join
/-- Channel `c`: its generator, or none for OFF (R149). -/
def State.chanE (s : State) (c : Nat) : Option Gen := s.tab.chan[c]?.join
/-- User `u` (R152). -/
def State.userE (s : State) (u : Nat) : UserEntry := s.tab.user[u]?.getD (UserEntry.initial u)

/-! ### Status records -/

/-- Status of zone `z` (R10). -/
def State.zst (s : State) (z : Nat) : ZoneStatus := s.zs[z]?.getD .clear
/-- Record of boat number `b`, if it is in the register (R18). -/
def State.boatR (s : State) (b : Nat) : Option Boat := if b = 0 then none else s.boats[b - 1]?.join
/-- Release in progress of boat `b` (3.4). -/
def State.release (s : State) (b : Nat) : Option Release := if b = 0 then none else s.rel[b - 1]?.join
/-- Status of berth `b` (R62). -/
def State.berthS (s : State) (b : Nat) : BerthStatus := s.berths[b]?.getD .initial
/-- Sequencer of section `k` (R82). -/
def State.seqS (s : State) (k : Nat) : Seq := s.seqs[k]?.getD .idle
/-- Status of run `r` (R109). -/
def State.runS (s : State) (r : Nat) : RunStatus := s.runs[r]?.getD .ready
/-- Status of node index `n` (R118). -/
def State.nodeS (s : State) (n : Nat) : NodeStatus := s.nodes[n]?.getD .absent
/-- Held input levels of node index `n` (R150). -/
def State.inputS (s : State) (n : Nat) : BitVec 4 := s.inputs[n]?.getD 0
/-- Status of authority index `a` (R126). -/
def State.actS (s : State) (a : Nat) : ActStatus := s.acts[a]?.getD .none

/-- Set a zone's status as it is, with no report to the arbiter. -/
def State.putZs (s : State) (z : Nat) (x : ZoneStatus) : State := { s with zs := s.zs.setIfInBounds z x }
/-- Set or remove the record of boat `b`. -/
def State.putBoat (s : State) (b : Nat) (x : Option Boat) : State :=
  if b = 0 then s else { s with boats := s.boats.setIfInBounds (b - 1) x }
/-- Set or clear the release record of boat `b`. -/
def State.putRel (s : State) (b : Nat) (x : Option Release) : State :=
  if b = 0 then s else { s with rel := s.rel.setIfInBounds (b - 1) x }
/-- Set a berth's status. -/
def State.putBerth (s : State) (b : Nat) (x : BerthStatus) : State := { s with berths := s.berths.setIfInBounds b x }
/-- Set a sequencer's record. -/
def State.putSeq (s : State) (k : Nat) (x : Seq) : State := { s with seqs := s.seqs.setIfInBounds k x }
/-- Set a brake run's status. -/
def State.putRun (s : State) (r : Nat) (x : RunStatus) : State := { s with runs := s.runs.setIfInBounds r x }
/-- Set a node's status. -/
def State.putNode (s : State) (n : Nat) (x : NodeStatus) : State := { s with nodes := s.nodes.setIfInBounds n x }
/-- Set a node's held input levels. -/
def State.putInputs (s : State) (n : Nat) (x : BitVec 4) : State := { s with inputs := s.inputs.setIfInBounds n x }
/-- Set an actuator's status. -/
def State.putAct (s : State) (a : Nat) (x : ActStatus) : State := { s with acts := s.acts.setIfInBounds a x }
/-- Set the pulse timer of an auxiliary line. -/
def State.putPulse (s : State) (u : Nat) (x : Option Nat) : State := { s with pulses := s.pulses.setIfInBounds u x }
/-- Change the record of boat `b`, if it is in the register. -/
def State.modBoat (s : State) (b : Nat) (f : Boat → Boat) : State :=
  match s.boatR b with
  | none => s
  | some x => s.putBoat b (some (f x))
/-- Change a berth's status. -/
def State.modBerth (s : State) (b : Nat) (f : BerthStatus → BerthStatus) : State := s.putBerth b (f (s.berthS b))
/-- Change a sequencer's record. -/
def State.modSeq (s : State) (k : Nat) (f : Seq → Seq) : State := s.putSeq k (f (s.seqS k))
/-- Change a brake run's status. -/
def State.modRun (s : State) (r : Nat) (f : RunStatus → RunStatus) : State := s.putRun r (f (s.runS r))
/-- Change a node's status. -/
def State.modNode (s : State) (n : Nat) (f : NodeStatus → NodeStatus) : State := s.putNode n (f (s.nodeS n))
/-- Change mode control's record. -/
def State.modMc (s : State) (f : ModeCtl → ModeCtl) : State := { s with mc := f s.mc }
/-- Change what is set aside for the end of the command. -/
def State.modEv (s : State) (f : Ev → Ev) : State := { s with ev := f s.ev }
/-- Change the tables. -/
def State.modTab (s : State) (f : Tables → Tables) : State := { s with tab := f s.tab }

/-- The ride mode (R137). -/
def State.mode (s : State) : Mode := s.mc.mode

/-- The node index of a line address, by the defined entry that holds it (R117). -/
def State.nodeOfAddress (s : State) (addr : Nat) : Option Nat :=
  (List.range 48).find? fun n => match s.nodeE n with
    | some e => e.address == addr
    | none => false

/-- The defined zones, in ascending number. -/
def State.definedZones (s : State) : List (Nat × ZoneEntry) :=
  (List.range 64).filterMap fun z => (s.zoneE z).map fun e => (z, e)

/-- The berth attached to zone `z`: the zone's berth field, when that berth is defined (R8). -/
def State.berthOfZone (s : State) (z : Nat) : Option (Nat × BerthEntry) :=
  match s.zoneE z with
  | none => none
  | some e => match e.berth with
    | none => none
    | some b => (s.berthE b).map fun x => (b, x)

/-- The launch section attached to zone `z` (R8). -/
def State.sectionOfZone (s : State) (z : Nat) : Option Nat := (s.zoneE z).bind fun e => e.sec

/-- The occupant of zone `z` (R10). -/
def State.occupant (s : State) (z : Nat) : Option Nat := (s.zst z).occupant

end Sys2Proof.Machine
end

