-- ==== Sys2Proof/Machine/Flags.lean ====
section
/-! DEFINITION. The conditions the manual derives from the state: zone conditions, lock confirmed, the levels of the
trigger matrix, inhibits, auxiliary lines, and the properties of kinds and values. -/

namespace Sys2Proof.Machine

/-- A zone of this kind is stoppable (R2). -/
def ZKind.stoppable : ZKind → Bool
  | .berth => true
  | .launch => true
  | .queue => true
  | .brakeRun => true
  | .transfer => true
  | .channel => false
  | .drop => false

/-- A zone of this kind has a gate actuator (R1, R2). -/
def ZKind.gated : ZKind → Bool
  | .berth => true
  | .queue => true
  | .transfer => true
  | .brakeRun => true
  | .launch => false
  | .channel => false
  | .drop => false

/-- A zone of this kind has automatic requests (R24). -/
def ZKind.automatic : ZKind → Bool
  | .queue => true
  | .brakeRun => true
  | .transfer => true
  | .berth => false
  | .launch => false
  | .channel => false
  | .drop => false

/-- FREE: no occupant, no reservation, hold set empty (R11). -/
def ZoneStatus.isFree (q : ZoneStatus) : Bool :=
  q.occupant.isNone && q.reserved.isNone && !q.nodeHold && !q.userHold && q.fault.isNone

/-- HELD: no occupant, no reservation, hold set not empty and without FAULT (R11). -/
def ZoneStatus.isHeld (q : ZoneStatus) : Bool :=
  q.occupant.isNone && q.reserved.isNone && (q.nodeHold || q.userHold) && q.fault.isNone

/-- FAULTED: the hold set contains FAULT (R11). -/
def ZoneStatus.isFaulted (q : ZoneStatus) : Bool := q.fault.isSome

/-- Severity of a zone fault, DOUBLE the most severe (R14). -/
def ZFault.severity : ZFault → Nat
  | .double => 3
  | .unexpected => 2
  | .missed => 1
  | .overdue => 0

/-- What a fault field holds after a fault is raised on it: the more severe of the two (R14). -/
def mergeFault (old : Option ZFault) (new : ZFault) : ZFault :=
  match old with
  | none => new
  | some f => if f.severity < new.severity then new else f

/-- The zone is defined and its kind is stoppable (R2). -/
def State.stoppable (s : State) (z : Nat) : Bool :=
  match s.zoneE z with
  | some e => e.kind.stoppable
  | none => false

/-- The zone is FREE (R11). -/
def State.zoneFree (s : State) (z : Nat) : Bool := (s.zst z).isFree

/-- Some defined zone has a fault (R138, R147). -/
def State.anyFault (s : State) : Bool := s.definedZones.any fun p => (s.zst p.1).fault.isSome

/-- The node is ACTIVE; every other roster state counts as not ACTIVE (R118). -/
def State.nodeActive (s : State) (n : Nat) : Bool := (s.nodeS n).state == .active

/-- Commands to the node's actuators are sent in this state, and withheld in the others (R118). -/
def Roster.present : Roster → Bool
  | .active => true
  | .silent => true
  | .absent => false
  | .joining => false
  | .lost => false

/-- The kind an actuator value belongs to (R125). -/
def ActValue.kind : ActValue → ActKind
  | .gateOpen => .gate
  | .gateClose => .gate
  | .finEngage => .fin
  | .finRetract => .fin
  | .lampOff => .lamp
  | .lampOn => .lamp
  | .lampBlink => .lamp
  | .lockLock => .lock
  | .lockUnlock => .lock
  | .switchMain => .switch
  | .switchAlt => .switch
  | .boosterRequest _ => .booster
  | .boosterFire => .booster
  | .boosterSafe => .booster
  | .genericOn => .generic
  | .genericOff => .generic

/-- A REQUEST carries a target of 0 to 15000 mm/s; every other value is in range (R125). -/
def ActValue.inRange : ActValue → Bool
  | .boosterRequest target => target ≤ 15000
  | _ => true

/-- The safe value of each kind (R125). -/
def ActKind.safe : ActKind → ActValue
  | .gate => .gateClose
  | .fin => .finEngage
  | .lamp => .lampOff
  | .lock => .lockLock
  | .switch => .switchMain
  | .booster => .boosterSafe
  | .generic => .genericOff

/-- The actuator value that sets a lamp. -/
def Lamp.value : Lamp → ActValue
  | .off => .lampOff
  | .on => .lampOn
  | .blink => .lampBlink

/-- The actuator value that sets a lock. -/
def LockV.value : LockV → ActValue
  | .lock => .lockLock
  | .unlock => .lockUnlock

/-- Lock confirmed: the lock actuator's commanded value is LOCK and it is confirmed (R62). -/
def State.lockConfirmed (s : State) (e : BerthEntry) : Bool :=
  (s.actS e.lock).commanded == some .lockLock && (s.actS e.lock).confirmed

/-- Some node of the depends list is not ACTIVE (R12). -/
def State.wantsNodeHold (s : State) (e : ZoneEntry) : Bool := e.depends.any fun n => !s.nodeActive n

/-! ### Trigger matrix -/

/-- The level of a generator; a pulse generator reads as low (R149, R150). A level whose parameter names an undefined
zone or node stays low, since such a zone has no occupant and such a node is ABSENT. -/
def State.genLevel (s : State) : Gen → Bool
  | .modeIs m => s.mode == m
  | .zoneOccupied z => (s.occupant z).isSome
  | .nodeActive n => s.nodeActive n
  | .nodeInput n i => (s.inputS n).getLsbD i
  | .estopLine => s.mc.estop
  | .passage _ => false
  | .trapDone _ => false
  | .launchFired _ => false
  | .brakeSet _ => false
  | .berthButton _ => false
  | .holdEntered => false

/-- The level of a channel; OFF is low (R149). -/
def State.chanLevel (s : State) (c : Nat) : Bool :=
  match s.chanE c with
  | none => false
  | some g => s.genLevel g

/-- The level a user sees: its channel's, or low with no channel (R152). -/
def State.userLevel (s : State) (u : Nat) : Bool :=
  match (s.userE u).chan with
  | 0 => false
  | c + 1 => s.chanLevel c

/-- A user's channel has been pulsed within the present command (R157). -/
def State.userPulsed (s : State) (u : Nat) : Bool :=
  match (s.userE u).chan with
  | 0 => false
  | c + 1 => s.ev.pulsed.contains c

/-- Section `k` is inhibited: an INHIBIT user naming it presents a high level, or a pulse within this command (R157). -/
def State.inhibited (s : State) (k : Nat) : Bool :=
  [20, 21].any fun u => (s.userE u).param == k && (s.userLevel u || s.userPulsed u)

/-- The zones to which a FOLLOW HOLD user with a high level contributes (R13, R155). -/
def State.followHolds (s : State) : List Nat :=
  (List.range 8).filterMap fun i =>
    let e := s.userE (8 + i)
    if e.mode = .follow ∧ s.userLevel (8 + i) = true then some e.param else none

/-- The level of auxiliary line `u`: high while its pulse timer runs, or in FOLLOW on a high level (R154). -/
def State.auxLine (s : State) (u : Nat) : Bool :=
  (s.pulses[u]?.join).isSome || ((s.userE u).mode == .follow && s.userLevel u)

/-! ### Modes -/

/-- Zone watches start in this mode (R34). -/
def Mode.watchesStart : Mode → Bool
  | .config => false
  | .checking => false
  | .run => true
  | .hold => true
  | .stop => true

/-- Requests join the queue in this mode (R42). -/
def Mode.requestsTaken : Mode → Bool
  | .config => false
  | .checking => false
  | .run => true
  | .hold => true
  | .stop => false

/-- A selection in this mode engages every stage (R108). -/
def Mode.fullBrake : Mode → Bool
  | .config => true
  | .checking => true
  | .run => false
  | .hold => false
  | .stop => true

/-- Some boat is GRANTED or MOVING (R138). -/
def State.anyCommitted (s : State) : Bool :=
  (List.range 24).any fun i => match s.boatR (i + 1) with
    | some b => b.state == .granted || b.state == .moving
    | none => false

end Sys2Proof.Machine
end

