-- ==== Sys2Proof/Machine/Operands.lean ====
section
/-! DEFINITION. The bytes of the line: field encodings (R183), frames and their check code (R182), record chains
(R163, R184, R186), entry images (R186, R187) and notice bodies. -/

namespace Sys2Proof.Machine

/-! ### Enumeration codes: the value's position in the list of the rule that owns it (R183) -/

/-- Code of a ZKind value (R1). -/
def ZKind.code : ZKind → Nat
  | .berth => 0
  | .launch => 1
  | .queue => 2
  | .channel => 3
  | .drop => 4
  | .brakeRun => 5
  | .transfer => 6
/-- The ZKind value a code names (R1). -/
def ZKind.ofCode : Nat → Option ZKind
  | 0 => some .berth
  | 1 => some .launch
  | 2 => some .queue
  | 3 => some .channel
  | 4 => some .drop
  | 5 => some .brakeRun
  | 6 => some .transfer
  | _ => none

/-- Code of a ZFault value (R10; none is 0). -/
def ZFault.code : ZFault → Nat
  | .overdue => 1
  | .unexpected => 2
  | .missed => 3
  | .double => 4

/-- Code of a Route value (R186). -/
def Route.code : Route → Nat
  | .main => 0
  | .bay => 1
/-- The Route value a code names (R186). -/
def Route.ofCode : Nat → Option Route
  | 0 => some .main
  | 1 => some .bay
  | _ => none

/-- Code of a BoatState value (R20). -/
def BoatState.code : BoatState → Nat
  | .waiting => 0
  | .requested => 1
  | .granted => 2
  | .moving => 3

/-- Code of a Role value (R60). -/
def Role.code : Role → Nat
  | .unload => 0
  | .load => 1
  | .pad => 2
/-- The Role value a code names (R60). -/
def Role.ofCode : Nat → Option Role
  | 0 => some .unload
  | 1 => some .load
  | 2 => some .pad
  | _ => none

/-- Code of a BerthState value (R62). -/
def BerthState.code : BerthState → Nat
  | .empty => 0
  | .occupied => 1
  | .secured => 2
  | .requested => 3
  | .released => 4
  | .fault => 5

/-- Code of a Lamp value (R62). -/
def Lamp.code : Lamp → Nat
  | .off => 0
  | .on => 1
  | .blink => 2

/-- Code of a LockV value (R62). -/
def LockV.code : LockV → Nat
  | .lock => 0
  | .unlock => 1

/-- Code of a BerthFault value (R62). -/
def BerthFault.code : BerthFault → Nat
  | .none => 0
  | .presenceLost => 1
  | .tag => 2

/-- Code of a SeqState value (R82). -/
def SeqState.code : SeqState → Nat
  | .idle => 0
  | .charging => 1
  | .firing => 2
  | .measuring => 3
  | .cooldown => 4

/-- Code of a TrapUse value (R96). -/
def TrapUse.code : TrapUse → Nat
  | .check => 0
  | .launch => 1
  | .brake => 2
/-- The TrapUse value a code names (R96). -/
def TrapUse.ofCode : Nat → Option TrapUse
  | 0 => some .check
  | 1 => some .launch
  | 2 => some .brake
  | _ => none

/-- Code of a RunState value (R109). -/
def RunState.code : RunState → Nat
  | .ready => 0
  | .set => 1
  | .restoring => 2

/-- Code of a NodeKind value (R117). -/
def NodeKind.code : NodeKind → Nat
  | .marker => 0
  | .berth => 1
  | .brake => 2
  | .gate => 3
  | .booster => 4
  | .aux => 5
/-- The NodeKind value a code names (R117). -/
def NodeKind.ofCode : Nat → Option NodeKind
  | 0 => some .marker
  | 1 => some .berth
  | 2 => some .brake
  | 3 => some .gate
  | 4 => some .booster
  | 5 => some .aux
  | _ => none

/-- Code of a Roster value (R118). -/
def Roster.code : Roster → Nat
  | .absent => 0
  | .joining => 1
  | .active => 2
  | .silent => 3
  | .lost => 4

/-- Code of a ActKind value (R124). -/
def ActKind.code : ActKind → Nat
  | .gate => 0
  | .fin => 1
  | .lamp => 2
  | .lock => 3
  | .switch => 4
  | .booster => 5
  | .generic => 6
/-- The ActKind value a code names (R124). -/
def ActKind.ofCode : Nat → Option ActKind
  | 0 => some .gate
  | 1 => some .fin
  | 2 => some .lamp
  | 3 => some .lock
  | 4 => some .switch
  | 5 => some .booster
  | 6 => some .generic
  | _ => none

/-- Code of a Owner value (R124). -/
def Owner.code : Owner → Nat
  | .controller => 0
  | .supervisor => 1
  | .shared => 2
/-- The Owner value a code names (R124). -/
def Owner.ofCode : Nat → Option Owner
  | 0 => some .controller
  | 1 => some .supervisor
  | 2 => some .shared
  | _ => none

/-- Code of a Mode value (R137). -/
def Mode.code : Mode → Nat
  | .config => 0
  | .checking => 1
  | .run => 2
  | .hold => 3
  | .stop => 4
/-- The Mode value a code names (R137). -/
def Mode.ofCode : Nat → Option Mode
  | 0 => some .config
  | 1 => some .checking
  | 2 => some .run
  | 3 => some .hold
  | 4 => some .stop
  | _ => none

/-- Code of a Block value (R186). -/
def Block.code : Block → Nat
  | .passage => 0
  | .watch => 1
  | .tag => 2
  | .berth => 3
  | .node => 4
  | .actuator => 5
  | .launch => 6
  | .trap => 7

/-- Code of a CheckOutcome value (R147). -/
def CheckOutcome.code : CheckOutcome → Nat
  | .none => 0
  | .inProgress => 1
  | .passed => 2
  | .failed => 3
  | .aborted => 4

/-- Code of a CheckReason value (R146). -/
def CheckReason.code : CheckReason → Nat
  | .undefinedSuccessor => 0
  | .selfSuccessor => 1
  | .switchPair => 2
  | .gate => 3
  | .pathLength => 4
  | .pathLoop => 5
  | .backReference => 6
  | .zoneKind => 7
  | .trapUse => 8
  | .runTrapCount => 9
  | .noBand => 10
  | .bandOrder => 11
  | .pathEnd => 12
  | .authorityUndefined => 13
  | .authorityKind => 14
  | .authorityOwner => 15
  | .authorityShared => 16
  | .nodeNotActive => 17
  | .boatZone => 18

/-- Code of a Table value (R186). -/
def Table.code : Table → Nat
  | .zone => 0
  | .cls => 1
  | .node => 2
  | .authority => 3
  | .trap => 4
  | .launch => 5
  | .band => 6
  | .run => 7
  | .stage => 8
  | .berth => 9
  | .channel => 10
  | .user => 11
  | .zoneStatus => 12
  | .boat => 13
  | .nodeStatus => 14
  | .actuatorStatus => 15
  | .berthStatus => 16
  | .counters => 17
  | .checkResult => 18
/-- The Table value a code names (R186). -/
def Table.ofCode : Nat → Option Table
  | 0 => some .zone
  | 1 => some .cls
  | 2 => some .node
  | 3 => some .authority
  | 4 => some .trap
  | 5 => some .launch
  | 6 => some .band
  | 7 => some .run
  | 8 => some .stage
  | 9 => some .berth
  | 10 => some .channel
  | 11 => some .user
  | 12 => some .zoneStatus
  | 13 => some .boat
  | 14 => some .nodeStatus
  | 15 => some .actuatorStatus
  | 16 => some .berthStatus
  | 17 => some .counters
  | 18 => some .checkResult
  | _ => none

/-- Code of a UserMode value (R152). -/
def UserMode.code : UserMode → Nat
  | .follow => 0
  | .rising => 1
  | .falling => 2
/-- The UserMode value a code names (R152). -/
def UserMode.ofCode : Nat → Option UserMode
  | 0 => some .follow
  | 1 => some .rising
  | 2 => some .falling
  | _ => none

/-- Code of a Arrival value (R186). -/
def Arrival.code : Arrival → Nat
  | .rise => 0
  | .fall => 1
  | .pulse => 2

/-- Code of a Source value (R186). -/
def Source.code : Source → Nat
  | .generated => 0
  | .injected => 1

/-- Code of a PathReason value (R186). -/
def PathReason.code : PathReason → Nat
  | .undefined => 0
  | .loop => 1
  | .length => 2

/-- Code of a AlarmReason value (R186). -/
def AlarmReason.code : AlarmReason → Nat
  | .latchOpen => 0
  | .presenceLost => 1

/-- Code of a RefuseReason value (R186). -/
def RefuseReason.code : RefuseReason → Nat
  | .noWeight => 0
  | .implausible => 1
  | .overweight => 2
  | .brakeCapacity => 3
  | .inhibited => 4

/-- Code of a AbortReason value (R186). -/
def AbortReason.code : AbortReason → Nat
  | .chargeTimeout => 0
  | .latchOpen => 1
  | .mode => 2
  | .nodeLost => 3
  | .inhibited => 4
  | .reservation => 5
  | .brakeCapacity => 6
  | .departed => 7

/-- Code of a LaunchResult value (R186). -/
def LaunchResult.code : LaunchResult → Nat
  | .weak => 0
  | .strong => 1
  | .normal => 2
  | .none => 3

/-- Code of a BoosterReason value (R186). -/
def BoosterReason.code : BoosterReason → Nat
  | .doneTimeout => 0
  | .uncommanded => 1

/-- Code of a NodeReason value (R186). -/
def NodeReason.code : NodeReason → Nat
  | .none => 0
  | .joinTimeout => 1
  | .silence => 2
  | .actuator => 3

/-- Code of a FailReason value (R186). -/
def FailReason.code : FailReason → Nat
  | .refused => 0
  | .timeout => 1

/-- Code of a Code value (R186). -/
def Code.code : Code → Nat
  | .ok => 0
  | .okClamped => 1
  | .mode => 2
  | .busy => 3
  | .table => 4
  | .index => 5
  | .value => 6
  | .readOnly => 7
  | .sequence => 8
  | .conflict => 9
  | .format => 10
/-- Code of an actuator value within its kind (R183). -/
def ActValue.code : ActValue → Nat
  | .gateOpen => 0
  | .gateClose => 1
  | .finEngage => 0
  | .finRetract => 1
  | .lampOff => 0
  | .lampOn => 1
  | .lampBlink => 2
  | .lockLock => 0
  | .lockUnlock => 1
  | .switchMain => 0
  | .switchAlt => 1
  | .boosterRequest _ => 0
  | .boosterFire => 1
  | .boosterSafe => 2
  | .genericOn => 0
  | .genericOff => 1

/-- The target of a value: 0 for values other than REQUEST (R184). -/
def ActValue.target : ActValue → Nat
  | .boosterRequest target => target
  | _ => 0

/-- The value of a kind that a code and target name (R125, R183). -/
def ActValue.ofCode (k : ActKind) (code target : Nat) : Option ActValue :=
  match k, code with
  | .gate, 0 => some .gateOpen
  | .gate, 1 => some .gateClose
  | .fin, 0 => some .finEngage
  | .fin, 1 => some .finRetract
  | .lamp, 0 => some .lampOff
  | .lamp, 1 => some .lampOn
  | .lamp, 2 => some .lampBlink
  | .lock, 0 => some .lockLock
  | .lock, 1 => some .lockUnlock
  | .switch, 0 => some .switchMain
  | .switch, 1 => some .switchAlt
  | .booster, 0 => some (.boosterRequest target)
  | .booster, 1 => some .boosterFire
  | .booster, 2 => some .boosterSafe
  | .generic, 0 => some .genericOn
  | .generic, 1 => some .genericOff
  | _, _ => none

/-- Code and two parameter bytes of a generator, or of OFF (R149, R186, log 17). -/
def genBytes : Option Gen → Nat × Nat × Nat
  | none => (255, 0, 0)
  | some (.modeIs m) => (0, m.code, 0)
  | some (.zoneOccupied z) => (1, z, 0)
  | some (.nodeActive n) => (2, n, 0)
  | some (.nodeInput n i) => (3, n, i)
  | some .estopLine => (4, 0, 0)
  | some (.passage z) => (5, z, 0)
  | some (.trapDone i) => (6, i, 0)
  | some (.launchFired k) => (7, k, 0)
  | some (.brakeSet r) => (8, r, 0)
  | some (.berthButton b) => (9, b, 0)
  | some .holdEntered => (10, 0, 0)

/-- The modes by code, with its cause codes (R186). -/
def Cause.code : Cause → Nat
  | .record => 0
  | .estop => 1
  | .block _ => 2
  | .checkPassed => 3
  | .checkFailed => 4
  | .checkHeld => 5

/-- Entry count of a table (R175). -/
def Table.entries : Table → Nat
  | .zone => 64
  | .cls => 4
  | .node => 48
  | .authority => 64
  | .trap => 8
  | .launch => 2
  | .band => 16
  | .run => 2
  | .stage => 16
  | .berth => 6
  | .channel => 12
  | .user => 22
  | .zoneStatus => 64
  | .boat => 24
  | .nodeStatus => 48
  | .actuatorStatus => 64
  | .berthStatus => 6
  | .counters => 2
  | .checkResult => 1

/-- A table that is never written (R175). -/
def Table.readOnly (t : Table) : Bool := 12 ≤ t.code

/-- A configuration table: any written table but CHANNEL and USER (R176). -/
def Table.configuration (t : Table) : Bool := t.code < 10

/-! ### Fields (R183) -/

/-- One byte. -/
def enc1 (n : Nat) : List Byte := [byteOf n]
/-- Two bytes, high byte first. -/
def enc2 (n : Nat) : List Byte := [byteOf (n / 256), byteOf n]
/-- Three bytes, high byte first. -/
def enc3 (n : Nat) : List Byte := [byteOf (n / 65536), byteOf (n / 256), byteOf n]
/-- A flag. -/
def encFlag (b : Bool) : List Byte := [if b then 1 else 0]
/-- An optional field of one byte; absent is all ones. -/
def encOpt1 : Option Nat → List Byte
  | none => [255]
  | some n => enc1 n
/-- An optional field of two bytes; absent is all ones. -/
def encOpt2 : Option Nat → List Byte
  | none => [255, 255]
  | some n => enc2 n
/-- Time elapsed since a moment, saturated at 65535; stopped or never has presence byte 0 (R183). That both time bytes stand behind
it as 0, so that later fields keep their places, is the model's choice (log 17). -/
def encElapsed (now : Nat) : Option Nat → List Byte
  | none => [0, 0, 0]
  | some start => 1 :: enc2 (min (now - start) 65535)
/-- A body zero-filled to a length. -/
def zeroFill (n : Nat) (l : List Byte) : List Byte := (l ++ List.replicate n 0).take n

/-- Byte `i` of an image; past its end it reads as 0. -/
def byteAt (l : List Byte) (i : Nat) : Nat := (l.getD i 0).toNat
/-- Two bytes at `i`, high byte first. -/
def wordAt (l : List Byte) (i : Nat) : Nat := byteAt l i * 256 + byteAt l (i + 1)
/-- A two's complement number of one byte. -/
def signed1 (n : Nat) : Int := if n < 128 then (n : Int) else (n : Int) - 256
/-- A two's complement number of two bytes. -/
def signed2 (n : Nat) : Int := if n < 32768 then (n : Int) else (n : Int) - 65536

/-- A supplied value outside its range is replaced by the nearer end (00_scope.md 7.6). -/
def clamp (lo hi n : Nat) : Nat := if n < lo then lo else if hi < n then hi else n
/-- The same for a signed value. -/
def clampInt (lo hi n : Int) : Int := if n < lo then lo else if hi < n then hi else n

/-! ### Frames (R182) -/

/-- One bit of the check register: polynomial x^16 + x^12 + x^5 + 1 (R182). -/
def crcBit (c : Code16) : Code16 := if c.msb then (c <<< 1) ^^^ 0x1021 else c <<< 1
/-- One byte enters the check register, most significant bit first (R182). -/
def crcByte (c : Code16) (b : Byte) : Code16 :=
  let c := c ^^^ (b.setWidth 16 <<< 8)
  crcBit (crcBit (crcBit (crcBit (crcBit (crcBit (crcBit (crcBit c)))))))
/-- The check code of a run of bytes: the register starts at 65535 and is not inverted (R182). -/
def checkCode (l : List Byte) : Code16 := l.foldl crcByte 0xFFFF

/-- A frame of the given addresses and kind around a record run, with its length and check code (R182). -/
def buildFrame (dst src kind : Nat) (records : List Byte) : List Byte :=
  let head := [byteOf dst, byteOf src, byteOf kind, byteOf records.length] ++ records
  let c := (checkCode head).toNat
  head ++ [byteOf (c / 256), byteOf c]

/-- Destination address of a frame. -/
def frameDst (l : List Byte) : Nat := byteAt l 0
/-- Source address of a frame. -/
def frameSrc (l : List Byte) : Nat := byteAt l 1
/-- Frame kind code. -/
def frameKind (l : List Byte) : Nat := byteAt l 2
/-- Record length. -/
def frameLen (l : List Byte) : Nat := byteAt l 3
/-- The record bytes of a frame. -/
def frameRecords (l : List Byte) : List Byte := (l.drop 4).take (frameLen l)

/-- Framing test: every byte sound, destination below 128, record length at most 240 and in agreement with the bytes
received (R162, R185). A source above 127, of which R182 and R185 say nothing here, does not fail it: the frame counts as
received and comes from an unknown address, by the model's choice (log 46). -/
def framingOk (byteFault : Bool) (l : List Byte) : Bool :=
  !byteFault && decide (6 ≤ l.length) && decide (frameDst l < 128) && decide (frameLen l ≤ 240) &&
    l.length == 6 + frameLen l
/-- Check test: the code computed over the bytes before it equals the code received (R162). -/
def checkOk (l : List Byte) : Bool :=
  (checkCode (l.take (4 + frameLen l))).toNat == wordAt l (4 + frameLen l)

/-- A record as it stands in a chain: its kind code and body. -/
structure RawRecord where
  kind : Nat
  body : List Byte
  deriving DecidableEq, Repr

/-- Body size of a record kind, when the part knows it and it belongs to the frame kind (R163, R182, R184, R186). -/
def recordSize (frame kind : Nat) : Option Nat :=
  match frame, kind with
  | 1, 1 => some 2
  | 1, 2 => some 3
  | 1, 3 => some 1
  | 1, 4 => some 4
  | 1, 5 => some 2
  | 1, 6 => some 2
  | 1, 7 => some 1
  | 2, 16 => some 5
  | 3, 10 => some 3
  | 4, 8 => some 1
  | 4, 9 => some 0
  | 5, 17 => some 4
  | 6, 32 => some 1
  | 6, 33 => some 1
  | 6, 34 => some 26
  | 6, 35 => some 0
  | 6, 36 => some 1
  | 6, 37 => some 4
  | 6, 38 => some 1
  | 6, 39 => some 2
  | 6, 40 => some 1
  | 6, 41 => some 1
  | 6, 42 => some 0
  | 6, 43 => some 3
  | 6, 44 => some 0
  | 6, 45 => some 1
  | 7, 48 => some 29
  | 8, 49 => some 19
  | _, _ => none

/-- The records of a nonempty chain, or none where it does not parse (R163); the first argument bounds the number of
records. -/
def parseChain (frame : Nat) : Nat → List Byte → Option (List RawRecord)
  | 0, _ => none
  | _ + 1, [] => none
  | fuel + 1, control :: rest =>
    let kind := control.toNat % 128
    match recordSize frame kind with
    | none => none
    | some size =>
      if rest.length < size then none
      else
        let rec1 : RawRecord := ⟨kind, rest.take size⟩
        let tail := rest.drop size
        if 128 ≤ control.toNat then
          if tail.isEmpty then none else (parseChain frame fuel tail).map (rec1 :: ·)
        else if tail.isEmpty then some [rec1] else none

/-- The records of a frame: an empty chain parses, and frame kind 0 or above 8 does not (R163, R185). For a frame that is both, the
kind goes first by the model's choice (log 49). -/
def parseFrame (l : List Byte) : Option (List RawRecord) :=
  if frameKind l = 0 ∨ 8 < frameKind l then none
  else
    let records := frameRecords l
    if records.isEmpty then some [] else parseChain (frameKind l) (records.length + 1) records

/-- A record chain as bytes: every control byte but the last has its continuation flag set (R182). -/
def chainBytes : List RawRecord → List Byte
  | [] => []
  | [r] => byteOf r.kind :: r.body
  | r :: rest => byteOf (128 + r.kind) :: (r.body ++ chainBytes rest)

/-! ### Records taken from the line (R184, R186) -/

/-- A record of a node, its fields as received (R184). -/
inductive NodeRecord where
  | marker (sensor edge : Nat)
  | trap (pair interval : Nat)
  | berth (presence latch button : Bool)
  | weight (scale : Nat) (kg : Int) (flag : Nat)
  | tag (reader number : Nat)
  | booster (num report : Nat)
  | heartbeat (inputs : BitVec 4)
  | hello (kind : Nat)
  | limitAck
  | ack (num tag result : Nat)
  deriving DecidableEq, Repr

/-- The node record a raw record holds; none for a kind that has no owner in the part (R165). -/
def nodeRecord (r : RawRecord) : Option NodeRecord :=
  match r.kind with
  | 1 => some (.marker (byteAt r.body 0) (byteAt r.body 1))
  | 2 => some (.trap (byteAt r.body 0) (wordAt r.body 1))
  | 3 =>
    let b := r.body.getD 0 0
    some (.berth (b.getLsbD 0) (b.getLsbD 1) (b.getLsbD 2))
  | 4 => some (.weight (byteAt r.body 0) (signed2 (wordAt r.body 1)) (byteAt r.body 3))
  | 5 => some (.tag (byteAt r.body 0) (byteAt r.body 1))
  | 6 => some (.booster (byteAt r.body 0) (byteAt r.body 1))
  | 7 => some (.heartbeat ((r.body.getD 0 0).setWidth 4))
  | 8 => some (.hello (byteAt r.body 0))
  | 9 => some .limitAck
  | 10 => some (.ack (byteAt r.body 0) (byteAt r.body 1) (byteAt r.body 2))
  | _ => none

/-- A flag byte: 0 and 1 are the coded values, any other is a free value (R183, log 18). -/
def flagOf (n : Nat) : Bool :=
  match n with
  | 0 => false
  | 1 => true
  | k + 2 => Config.oddFlag (k + 2)

/-- A management record, its fields as received (R186). -/
inductive MgmtRecord where
  | selectTable (table : Nat)
  | selectIndex (index : Nat)
  | write (image : List Byte)
  | read
  | mode (value : Nat)
  | placeBoat (boat cls zone route : Nat)
  | retireBoat (boat : Nat)
  | setRoute (boat route : Nat)
  | clearZone (zone : Nat)
  | injectTrigger (channel : Nat)
  | clearCounters
  | noticeMask (mask : BitVec 24)
  | status
  | reset (value : Nat)
  deriving DecidableEq, Repr

/-- The management record a raw record of a request frame holds. -/
def mgmtRecord (r : RawRecord) : MgmtRecord :=
  match r.kind with
  | 32 => .selectTable (byteAt r.body 0)
  | 33 => .selectIndex (byteAt r.body 0)
  | 34 => .write r.body
  | 35 => .read
  | 36 => .mode (byteAt r.body 0)
  | 37 => .placeBoat (byteAt r.body 0) (byteAt r.body 1) (byteAt r.body 2) (byteAt r.body 3)
  | 38 => .retireBoat (byteAt r.body 0)
  | 39 => .setRoute (byteAt r.body 0) (byteAt r.body 1)
  | 40 => .clearZone (byteAt r.body 0)
  | 41 => .injectTrigger (byteAt r.body 0)
  | 42 => .clearCounters
  | 43 => .noticeMask (BitVec.ofNat 24 (byteAt r.body 0 * 65536 + wordAt r.body 1))
  | 44 => .status
  | _ => .reset (byteAt r.body 0)

/-- A COMMAND record (R184). -/
def commandRecord (num tag : Nat) (v : ActValue) : RawRecord :=
  ⟨16, enc1 num ++ enc1 tag ++ enc1 v.code ++ enc2 v.target⟩
/-- A LIMIT record (R184). -/
def limitRecord (e : NodeEntry) : RawRecord := ⟨17, enc2 e.limit1 ++ enc2 e.limit2⟩
/-- A RESULT record (R186). -/
def resultRecord (r : MgmtResult) : RawRecord :=
  ⟨48, enc1 r.code.code ++ enc1 r.table ++ enc1 r.index ++ zeroFill 26 r.data⟩

/-! ### Notices (R186) -/

/-- Kind code of a notice (R186). -/
def Notice.kind : Notice → Nat
  | .missed _ _ => 0
  | .unexpectedPassage _ => 1
  | .unexpectedTrap _ _ => 1
  | .double _ _ => 2
  | .overdue _ _ => 3
  | .tagMismatch _ _ _ _ => 4
  | .path _ _ _ => 5
  | .throwFailed _ _ => 6
  | .berthAlarm _ _ _ => 7
  | .launchRefused _ _ _ => 8
  | .launchAborted _ _ _ => 9
  | .launchResult _ _ _ _ _ _ => 10
  | .boosterFault _ _ _ => 11
  | .overspeedLimit _ _ _ _ _ => 12
  | .overspeedEntry _ _ _ _ _ => 12
  | .brakeShortfall _ _ _ _ => 13
  | .brakeSet _ _ _ _ _ _ => 14
  | .trapInvalid _ _ _ => 15
  | .nodeState _ _ _ => 16
  | .nodeKindMismatch _ _ _ _ => 17
  | .actuatorFault _ _ _ _ => 18
  | .filteredMalformed _ => 19
  | .filteredAuthority _ _ _ => 19
  | .modeChanged _ _ _ => 20
  | .trigger _ _ _ _ _ => 21

/-- The block a MODE_CHANGED notice names: absent unless the cause is BLOCK (R186). -/
def Cause.blockCode : Cause → Option Nat
  | .block b => some b.code
  | _ => none

/-- The fields of a notice, those its raising rule names, in that order (R186). -/
def Notice.fields : Notice → List Byte
  | .missed zone boat => enc1 zone ++ enc1 boat
  | .unexpectedPassage zone => enc1 0 ++ enc1 zone
  | .unexpectedTrap zone trap => enc1 1 ++ enc1 zone ++ enc1 trap
  | .double zone occ => enc1 zone ++ encOpt1 occ
  | .overdue zone occ => enc1 zone ++ encOpt1 occ
  | .tagMismatch berth zone number occ => enc1 berth ++ enc1 zone ++ enc1 number ++ encOpt1 occ
  | .path boat origin reason => enc1 boat ++ enc1 origin ++ enc1 reason.code
  | .throwFailed origin boat => enc1 origin ++ enc1 boat
  | .berthAlarm berth zone reason => enc1 berth ++ enc1 zone ++ enc1 reason.code
  | .launchRefused k boat reason => enc1 k ++ enc1 boat ++ enc1 reason.code
  | .launchAborted k boat reason => enc1 k ++ enc1 boat ++ enc1 reason.code
  | .launchResult k boat band target speed result =>
    enc1 k ++ enc1 boat ++ enc1 band ++ enc2 target ++ encOpt2 speed ++ enc1 result.code
  | .boosterFault k boat reason => enc1 k ++ enc1 boat ++ enc1 reason.code
  | .overspeedLimit trap zone boat v limit => enc1 0 ++ enc1 trap ++ enc1 zone ++ encOpt1 boat ++ enc2 v ++ enc2 limit
  | .overspeedEntry run boat trap v max => enc1 1 ++ enc1 run ++ enc1 boat ++ enc1 trap ++ enc2 v ++ enc2 max
  | .brakeShortfall run boat force available => enc1 run ++ enc1 boat ++ enc3 force ++ enc3 available
  | .brakeSet run boat trap v force count =>
    enc1 run ++ enc1 boat ++ enc1 trap ++ enc2 v ++ enc3 force ++ enc1 count
  | .trapInvalid trap run boat => enc1 trap ++ enc1 run ++ enc1 boat
  | .nodeState node st reason => enc1 node ++ enc1 st.code ++ enc1 reason.code
  | .nodeKindMismatch node address tk rk => enc1 node ++ enc1 address ++ enc1 tk.code ++ enc1 rk.code
  | .actuatorFault a node v reason => enc1 a ++ enc1 node ++ enc1 v.code ++ enc1 reason.code
  | .filteredMalformed dst => enc1 dst ++ enc1 0
  | .filteredAuthority dst num mode => enc1 dst ++ enc1 num ++ enc1 mode.code ++ enc1 1
  | .modeChanged new old cause => enc1 new.code ++ enc1 old.code ++ enc1 cause.code ++ encOpt1 cause.blockCode
  | .trigger user channel gen arrival source =>
    let g := genBytes gen
    enc1 user ++ enc1 channel ++ enc1 g.1 ++ enc1 g.2.1 ++ enc1 g.2.2 ++ enc1 arrival.code ++ enc1 source.code

/-- A NOTICE record (R186). -/
def noticeRecord (n : Notice) : RawRecord := ⟨49, enc1 n.kind ++ zeroFill 18 n.fields⟩

/-! ### Entry images read by the supervisor (R177, R186) -/

/-- Image of a zone entry (R1). An undefined entry is its defined byte 0 and zeros (log 17). -/
def zoneImage : Option ZoneEntry → List Byte
  | none => [0]
  | some e =>
    [1] ++ enc1 e.kind.code ++ enc1 e.main ++ encOpt1 e.alt ++ encOpt1 e.switch ++ enc1 e.markerNode ++
      enc1 e.markerSensor ++ encOpt1 e.gate ++ enc2 e.transit ++ encOpt2 e.speedLimit ++ enc1 e.depends.length ++
      zeroFill 4 (e.depends.map byteOf) ++ encOpt1 e.berth ++ encOpt1 e.sec ++ encOpt1 e.run
/-- Image of a class entry (R9). -/
def classImage (e : ClassEntry) : List Byte := enc2 e.empty ++ enc2 e.max
/-- Image of a node entry (R117). -/
def nodeImage : Option NodeEntry → List Byte
  | none => [0]
  | some e => [1] ++ enc1 e.address ++ enc1 e.kind.code ++ enc2 e.limit1 ++ enc2 e.limit2
/-- Image of an authority entry (R124). -/
def authImage : Option AuthEntry → List Byte
  | none => [0]
  | some e => [1] ++ enc1 e.node ++ enc1 e.num ++ enc1 e.kind.code ++ enc1 e.owner.code
/-- Image of a trap entry (R96). -/
def trapImage : Option TrapEntry → List Byte
  | none => [0]
  | some e => [1] ++ enc1 e.node ++ enc1 e.pair ++ enc2 e.spacing ++ enc1 e.zone ++ enc1 e.use.code ++ encOpt1 e.run
/-- Image of a launch section entry (R80). -/
def launchImage : Option LaunchEntry → List Byte
  | none => [0]
  | some e =>
    [1] ++ enc1 e.zone ++ enc1 e.booster ++ enc1 e.trap ++ enc1 e.run ++ enc2 e.charge ++ enc2 e.cooldown ++
      enc1 e.tolerance
/-- Image of a band entry (R81). -/
def bandImage : Option BandEntry → List Byte
  | none => [0]
  | some e => [1] ++ enc2 e.upper ++ enc2 e.target ++ enc2 e.drop
/-- Image of a brake run entry (R101). -/
def runImage : Option RunEntry → List Byte
  | none => [0]
  | some e =>
    [1] ++ enc1 e.zone ++ enc2 e.length ++ enc2 e.exit ++ enc2 e.passive ++ enc2 e.maxEntry ++ enc1 e.water ++
      enc1 e.stages ++ enc1 e.minStages
/-- Image of a stage entry (R102); the trim is two's complement (R183). -/
def stageImage (e : StageEntry) : List Byte := enc1 e.fin ++ enc2 e.nominal ++ [BitVec.ofInt 8 e.trim]
/-- Image of a berth entry (R60). -/
def berthImage : Option BerthEntry → List Byte
  | none => [0]
  | some e =>
    [1] ++ enc1 e.zone ++ enc1 e.node ++ enc1 e.role.code ++ enc1 e.lamp ++ enc1 e.lock ++ encOpt1 e.scale ++
      encOpt1 e.reader

/-- Image of a channel: generator, parameter and present level (R149, R186). A high level is coded 1 (log 17). -/
def State.channelImage (s : State) (c : Nat) : List Byte :=
  let g := genBytes (s.chanE c)
  enc1 g.1 ++ enc1 g.2.1 ++ enc1 g.2.2 ++ encFlag (s.chanLevel c)

/-- Image of a user: channel field, mode and parameter, and for an AUX user the line's level and the time left of a
running pulse (R152). A high level is coded 1 (log 17). -/
def State.userImage (s : State) (u : Nat) : List Byte :=
  let e := s.userE u
  enc1 e.chan ++ enc1 e.mode.code ++
    (if u < 8 then
      enc2 e.param ++ encFlag (s.auxLine u) ++
        (match s.pulses[u]?.join with
        | none => [0, 0, 0]
        | some stop => 1 :: enc2 (stop - s.now))
    else if u < 16 then enc1 e.param
    else if u < 20 then []
    else enc1 e.param)

/-- Image of a zone's status; the hold set is one byte (R10, R186). -/
def State.zoneStatusImage (s : State) (z : Nat) : List Byte :=
  let q := s.zst z
  let holds := (if q.nodeHold then 1 else 0) + (if q.userHold then 2 else 0) + (if q.fault.isSome then 4 else 0)
  encOpt1 q.occupant ++ encOpt1 q.reserved ++ enc1 holds ++ encFlag q.latch ++
    enc1 (match q.fault with
      | none => 0
      | some f => f.code) ++
    encElapsed s.now q.watch

/-- A path of up to 16 zones as 96 bits, six a zone, the first zone on top (R186). -/
def pathBits (p : List Nat) : Nat := ((p ++ List.replicate 16 0).take 16).foldl (fun acc z => acc * 64 + z % 64) 0

/-- `n` bytes of a number, high byte first. -/
def encN : Nat → Nat → List Byte
  | 0, _ => []
  | n + 1, v => byteOf (v / 256 ^ n) :: encN n v

/-- Image of a boat, entry `i` showing boat `i + 1` (R18, R186). -/
def State.boatImage (s : State) (i : Nat) : List Byte :=
  match s.boatR (i + 1) with
  | none => [0]
  | some b =>
    [1] ++ enc1 (i + 1) ++
      enc1 (b.cls % 4 + 4 * b.route.code + 8 * b.state.code + (if b.overdue then 32 else 0)) ++ enc1 b.zone ++
      enc1 b.path.length ++ encN 12 (pathBits b.path) ++ encOpt2 b.weight ++ encOpt2 (b.lastSpeed.map (·.1)) ++
      encOpt1 (b.lastSpeed.map (·.2)) ++ encOpt1 (b.band.map fun p => p.1 * 8 + p.2) ++
      encOpt1 (b.stageCount.map fun p => p.1 * 16 + p.2) ++ enc2 (min (s.now - b.entryTime) 65535)

/-- Image of a node's status (R118). -/
def State.nodeStatusImage (s : State) (n : Nat) : List Byte :=
  let q := s.nodeS n
  enc1 q.state.code ++ encElapsed s.now q.lastHeard ++ encElapsed s.now q.join ++ encFlag q.limitPending ++
    encFlag q.localFault

/-- Image of an actuator's status and of its list entry, if one exists (R126). A yes is coded 1, and so the sent flag is 0
where no list entry exists, by the model's choice (log 17). -/
def State.actuatorStatusImage (s : State) (a : Nat) : List Byte :=
  let q := s.actS a
  let e := s.cmds.find? fun e => e.act == a
  encOpt1 (q.commanded.map ActValue.code) ++ encFlag q.confirmed ++ encOpt1 (e.map fun e => e.value.code) ++
    encOpt1 (e.map fun e => e.tag) ++ encFlag (e.any fun e => e.sent.isSome) ++ encElapsed s.now (e.bind fun e => e.sent)

/-- Image of a berth's status, every field of R62. -/
def State.berthStatusImage (s : State) (b : Nat) : List Byte :=
  let q := s.berthS b
  let confirmed := match s.berthE b with
    | none => false
    | some e => s.lockConfirmed e
  enc1 q.state.code ++ encFlag q.presence ++ encFlag q.latch ++ encFlag confirmed ++ encFlag q.pending ++
    enc1 q.lamp.code ++ enc1 q.lock.code ++ encFlag q.lampDone ++ encFlag q.lockDone ++ encOpt2 q.weight ++
    enc1 q.reason.code

/-- Image of a counters entry: index 0 the port counters, index 1 the others, in the order of R179. -/
def State.countersImage (s : State) (i : Nat) : List Byte :=
  if i = 0 then (s.counters.toList.take 8).flatMap enc2 else (s.counters.toList.drop 8).flatMap enc2

/-- Image of the check result (R147). -/
def CheckResult.image (r : CheckResult) : List Byte :=
  enc1 r.outcome.code ++ encOpt1 r.item ++ encOpt1 (r.table.map Table.code) ++ encOpt1 r.index ++
    encOpt1 (r.reason.map CheckReason.code) ++ encOpt1 r.subject

/-- The image of an entry of any table as it now stands, zero-filled to 26 bytes (R177, R186). -/
def State.entryImage (s : State) (t : Table) (i : Nat) : List Byte :=
  zeroFill 26 (match t with
    | .zone => zoneImage (s.zoneE i)
    | .cls => classImage (s.clsE i)
    | .node => nodeImage (s.nodeE i)
    | .authority => authImage (s.authE i)
    | .trap => trapImage (s.trapE i)
    | .launch => launchImage (s.launchE i)
    | .band => bandImage (s.bandE i)
    | .run => runImage (s.runE i)
    | .stage => stageImage (s.stageE i)
    | .berth => berthImage (s.berthE i)
    | .channel => s.channelImage i
    | .user => s.userImage i
    | .zoneStatus => s.zoneStatusImage i
    | .boat => s.boatImage i
    | .nodeStatus => s.nodeStatusImage i
    | .actuatorStatus => s.actuatorStatusImage i
    | .berthStatus => s.berthStatusImage i
    | .counters => s.countersImage i
    | .checkResult => s.mc.result.image)

/-- The data of a STATUS result: the items of R178 in order (R186). ESTOP asserted and STOP OUT high are coded 1 (log 17). -/
def State.statusData (s : State) : List Byte :=
  let seq k := enc1 (s.seqS k).state.code ++ encOpt1 (s.seqS k).boat
  let run r := enc1 (s.runS r).state.code ++ encOpt1 (s.runS r).boat ++ encOpt1 (s.runS r).count
  enc1 s.mode.code ++ encFlag s.mc.layoutChecked ++
    (match s.mc.check with
    | none => [0, 0, 0, 0]
    | some c => 1 :: (enc2 (min (s.now - c.start) 65535) ++ enc1 c.item)) ++
    encFlag s.mc.estop ++ encFlag s.mc.stopOut ++ enc1 s.addr ++ enc1 s.rate ++ seq 0 ++ seq 1 ++ run 0 ++ run 1 ++
    enc1 ((List.range 24).filter fun i => (s.boatR (i + 1)).isSome).length ++ enc1 s.queue.length ++
    enc1 s.notices.length ++ enc1 s.ptr.1.code ++ enc1 s.ptr.2

/-! ### Entry images written by the supervisor (R176, R187)

Each decoder answers the entry to be stored and whether a numeric field was clamped, or none where the result is VALUE.
A reference beyond its range is VALUE, and so is a required field coded absent, all ones by R183; every other numeric field
is clamped (R187). That a number all ones is coded absent and not out of range is the model's reading (log 37). -/

/-- A required number of one byte at `i` of an image; all ones is absent (R183, R187, log 37). -/
def byte? (img : List Byte) (i : Nat) : Option Nat := if byteAt img i = 255 then none else some (byteAt img i)
/-- A required number of two bytes at `i` of an image; all ones is absent (R183, R187, log 37). -/
def word? (img : List Byte) (i : Nat) : Option Nat := if wordAt img i = 65535 then none else some (wordAt img i)

/-- A reference that must lie in 0 to `max`. -/
def ref? (max n : Nat) : Option Nat := if n ≤ max then some n else none
/-- An optional reference: all ones is absent. -/
def optRef? (max n : Nat) : Option (Option Nat) := if n = 255 then some none else (ref? max n).map some

/-- The depends list of an image: at most 4 distinct node indexes (R7). -/
def dependsOf (img : List Byte) : Option (List Nat) :=
  if byteAt img 12 ≤ 4 then
    let l := ((img.drop 13).take (byteAt img 12)).map BitVec.toNat
    if (∀ n ∈ l, n ≤ 47) ∧ l.Nodup then some l else none
  else none

/-- Which of berth, launch section and brake run a zone kind takes (R1, R8). -/
def ZKind.attachments : ZKind → Bool × Bool × Bool
  | .berth => (true, false, false)
  | .launch => (true, true, false)
  | .brakeRun => (false, false, true)
  | .queue => (false, false, false)
  | .channel => (false, false, false)
  | .drop => (false, false, false)
  | .transfer => (false, false, false)

/-- A ZONE image (R1, R2, R3, R6, R7, R8). A gate actuator that the kind requires must be present (R2, R187). One that the kind
does not take, and the switch actuator, are left to items 2 and 3 of the table check (log 16). A transit limit coded 65535 is
absent, not clamped to 60000 (log 37). -/
def decodeZone (img : List Byte) : Option (Option ZoneEntry × Bool) :=
  if byteAt img 0 = 0 then some (none, false)
  else if byteAt img 0 ≠ 1 then none
  else do
    let kind ← ZKind.ofCode (byteAt img 1)
    let main ← ref? 63 (byteAt img 2)
    let alt ← optRef? 63 (byteAt img 3)
    let switch ← optRef? 63 (byteAt img 4)
    let node ← ref? 47 (byteAt img 5)
    let sensor ← ref? 7 (byteAt img 6)
    let gate ← optRef? 63 (byteAt img 7)
    let depends ← dependsOf img
    let berth ← optRef? 5 (byteAt img 17)
    let sec ← optRef? 1 (byteAt img 18)
    let run ← optRef? 1 (byteAt img 19)
    if kind ≠ .transfer ∧ (alt.isSome ∨ switch.isSome) then none
    if (berth.isSome, sec.isSome, run.isSome) ≠ kind.attachments then none
    if kind.gated ∧ gate.isNone then none
    let time ← word? img 8
    let transit := clamp 100 60000 time
    let limit := if wordAt img 10 = 65535 then none else some (clamp 500 20000 (wordAt img 10))
    let clamped := transit ≠ time ∨ limit.any (· ≠ wordAt img 10)
    some (some ⟨kind, main, alt, switch, node, sensor, gate, transit, limit, depends, berth, sec, run⟩, clamped)

/-- A CLASS image (R9): the empty mass is clamped first, the maximum mass then to the stored empty mass. -/
def decodeClass (img : List Byte) : Option (ClassEntry × Bool) := do
  let low ← word? img 0
  let high ← word? img 2
  let empty := clamp 100 800 low
  let max := clamp empty 1500 high
  some (⟨empty, max⟩, empty ≠ low ∨ max ≠ high)

/-- A NODE image (R117). -/
def decodeNode (img : List Byte) : Option (Option NodeEntry × Bool) :=
  if byteAt img 0 = 0 then some (none, false)
  else if byteAt img 0 ≠ 1 then none
  else do
    let kind ← NodeKind.ofCode (byteAt img 2)
    if byteAt img 1 < 8 ∨ 95 < byteAt img 1 then none
    some (some ⟨byteAt img 1, kind, wordAt img 3, wordAt img 5⟩, false)

/-- An AUTHORITY image (R124). -/
def decodeAuth (img : List Byte) : Option (Option AuthEntry × Bool) :=
  if byteAt img 0 = 0 then some (none, false)
  else if byteAt img 0 ≠ 1 then none
  else do
    let node ← ref? 47 (byteAt img 1)
    let num ← ref? 15 (byteAt img 2)
    let kind ← ActKind.ofCode (byteAt img 3)
    let owner ← Owner.ofCode (byteAt img 4)
    some (some ⟨node, num, kind, owner⟩, false)

/-- A TRAP image (R96). -/
def decodeTrap (img : List Byte) : Option (Option TrapEntry × Bool) :=
  if byteAt img 0 = 0 then some (none, false)
  else if byteAt img 0 ≠ 1 then none
  else do
    let node ← ref? 47 (byteAt img 1)
    let pair ← ref? 1 (byteAt img 2)
    let zone ← ref? 63 (byteAt img 5)
    let use ← TrapUse.ofCode (byteAt img 6)
    let run ← optRef? 1 (byteAt img 7)
    if run.isSome ≠ (use == .brake) then none
    let length ← word? img 3
    let spacing := clamp 50 2000 length
    some (some ⟨node, pair, spacing, zone, use, run⟩, spacing ≠ length)

/-- A LAUNCH image (R80). -/
def decodeLaunch (img : List Byte) : Option (Option LaunchEntry × Bool) :=
  if byteAt img 0 = 0 then some (none, false)
  else if byteAt img 0 ≠ 1 then none
  else do
    let zone ← ref? 63 (byteAt img 1)
    let booster ← ref? 63 (byteAt img 2)
    let trap ← ref? 7 (byteAt img 3)
    let run ← ref? 1 (byteAt img 4)
    let chargeIn ← word? img 5
    let cooldownIn ← word? img 7
    let toleranceIn ← byte? img 9
    let charge := clamp 100 5000 chargeIn
    let cooldown := clamp 0 30000 cooldownIn
    let tolerance := clamp 0 25 toleranceIn
    let clamped := charge ≠ chargeIn ∨ cooldown ≠ cooldownIn ∨ tolerance ≠ toleranceIn
    some (some ⟨zone, booster, trap, run, charge, cooldown, tolerance⟩, clamped)

/-- A BAND image (R81). -/
def decodeBand (img : List Byte) : Option (Option BandEntry × Bool) :=
  if byteAt img 0 = 0 then some (none, false)
  else if byteAt img 0 ≠ 1 then none
  else do
    let upperIn ← word? img 1
    let targetIn ← word? img 3
    let dropIn ← word? img 5
    let upper := clamp 0 4095 upperIn
    let target := clamp 500 15000 targetIn
    let drop := clamp 0 20000 dropIn
    some (some ⟨upper, target, drop⟩, upper ≠ upperIn ∨ target ≠ targetIn ∨ drop ≠ dropIn)

/-- A RUN image (R101): N is clamped first, the minimum stage count then to the stored N. -/
def decodeRun (img : List Byte) : Option (Option RunEntry × Bool) :=
  if byteAt img 0 = 0 then some (none, false)
  else if byteAt img 0 ≠ 1 then none
  else do
    let zone ← ref? 63 (byteAt img 1)
    let lengthIn ← word? img 2
    let exitIn ← word? img 4
    let passiveIn ← word? img 6
    let maxEntryIn ← word? img 8
    let waterIn ← byte? img 10
    let stagesIn ← byte? img 11
    let minIn ← byte? img 12
    let length := clamp 1000 60000 lengthIn
    let exit := clamp 0 5000 exitIn
    let passive := clamp 0 20000 passiveIn
    let maxEntry := clamp 0 20000 maxEntryIn
    let water := clamp 0 200 waterIn
    let stages := clamp 1 8 stagesIn
    let minStages := clamp 0 stages minIn
    let clamped := length ≠ lengthIn ∨ exit ≠ exitIn ∨ passive ≠ passiveIn ∨ maxEntry ≠ maxEntryIn ∨
      water ≠ waterIn ∨ stages ≠ stagesIn ∨ minStages ≠ minIn
    some (some ⟨zone, length, exit, passive, maxEntry, water, stages, minStages⟩, clamped)

/-- A STAGE image (R102). -/
def decodeStage (img : List Byte) : Option (StageEntry × Bool) := do
  let fin ← ref? 63 (byteAt img 0)
  let force ← word? img 1
  let nominal := clamp 0 20000 force
  let given := signed1 (byteAt img 3)
  let trim := clampInt (-16) 15 given
  some (⟨fin, nominal, trim⟩, nominal ≠ force ∨ trim ≠ given)

/-- A BERTH image (R60). -/
def decodeBerth (img : List Byte) : Option (Option BerthEntry × Bool) :=
  if byteAt img 0 = 0 then some (none, false)
  else if byteAt img 0 ≠ 1 then none
  else do
    let zone ← ref? 63 (byteAt img 1)
    let node ← ref? 47 (byteAt img 2)
    let role ← Role.ofCode (byteAt img 3)
    let lamp ← ref? 63 (byteAt img 4)
    let lock ← ref? 63 (byteAt img 5)
    let scale ← optRef? 3 (byteAt img 6)
    let reader ← optRef? 3 (byteAt img 7)
    if scale.isSome ≠ (role == .pad) then none
    if reader.isSome ≠ (role == .unload) then none
    some (some ⟨zone, node, role, lamp, lock, scale, reader⟩, false)

/-- The zone generators are allowed for zones 0 to 31 on even channels and 32 to 63 on odd ones (R149). -/
def zoneAllowed (c z : Nat) : Bool := if z ≤ 31 then c % 2 == 0 else z ≤ 63 && c % 2 == 1

/-- A CHANNEL image written to channel `c` (R149). Parameter bytes that the generator does not use are ignored, nonzero ones of
OFF, ESTOP_LINE and HOLD_ENTERED included, by the model's choice (R187, log 45). -/
def decodeChannel (c : Nat) (img : List Byte) : Option (Option Gen) :=
  let p := byteAt img 1
  let q := byteAt img 2
  match byteAt img 0 with
  | 255 => some none
  | 0 => (Mode.ofCode p).map fun m => some (.modeIs m)
  | 1 => if zoneAllowed c p then some (some (.zoneOccupied p)) else none
  | 2 => if p ≤ 47 ∧ 8 ≤ c then some (some (.nodeActive p)) else none
  | 3 => if p ≤ 47 ∧ q ≤ 3 ∧ 8 ≤ c then some (some (.nodeInput p q)) else none
  | 4 => some (some .estopLine)
  | 5 => if zoneAllowed c p then some (some (.passage p)) else none
  | 6 => if p ≤ 7 then some (some (.trapDone p)) else none
  | 7 => if p ≤ 1 then some (some (.launchFired p)) else none
  | 8 => if p ≤ 1 then some (some (.brakeSet p)) else none
  | 9 => if p ≤ 5 then some (some (.berthButton p)) else none
  | 10 => some (some .holdEntered)
  | _ => none

/-- A USER image written to user `u` (R152). A NOTICE user's parameter bytes are ignored (log 45). -/
def decodeUser (u : Nat) (img : List Byte) : Option (UserEntry × Bool) := do
  let chan ← ref? 12 (byteAt img 0)
  let mode ← UserMode.ofCode (byteAt img 1)
  if u < 8 then
    let length ← word? img 2
    let pulse := clamp 1 2000 length
    some (⟨chan, mode, pulse⟩, pulse ≠ length)
  else if u < 16 then
    let zone ← ref? 63 (byteAt img 2)
    some (⟨chan, mode, zone⟩, false)
  else if u < 20 then some (⟨chan, mode, 0⟩, false)
  else if mode ≠ .follow then none
  else
    let k ← ref? 1 (byteAt img 2)
    some (⟨chan, mode, k⟩, false)

end Sys2Proof.Machine
end

