-- ==== Sys2Proof/Machine/Ops.lean ====
section
/-! DEFINITION. Operations shared by every command: the clock, the counters, the ports, notices, the actuator unit's
command list, and changes of zone status. -/

namespace Sys2Proof.Machine

/-! ### Clock and counters -/

/-- A command is taken at moment `t`; the clock never runs back (log 1). -/
def State.at_ (s : State) (t : Nat) : State := { s with now := max s.now t }

/-- The counters in the order of COUNTERS (R179). -/
inductive Counter where
  | upReceived | upCheck | upFraming | upOverrun | dnReceived | dnCheck | dnFraming | dnOverrun
  | malformed | foreign | filtered | unknownNode | unknownMarker | markerRepeat | staleAck | unmatchedBerth
  | unmatchedTrap | unmatchedBooster | staleBooster | noticesDropped | mgmtOverrun
  deriving DecidableEq, Repr

/-- Place of a counter in the counters table (R179). -/
def Counter.place : Counter → Nat
  | .upReceived => 0
  | .upCheck => 1
  | .upFraming => 2
  | .upOverrun => 3
  | .dnReceived => 4
  | .dnCheck => 5
  | .dnFraming => 6
  | .dnOverrun => 7
  | .malformed => 8
  | .foreign => 9
  | .filtered => 10
  | .unknownNode => 11
  | .unknownMarker => 12
  | .markerRepeat => 13
  | .staleAck => 14
  | .unmatchedBerth => 15
  | .unmatchedTrap => 16
  | .unmatchedBooster => 17
  | .staleBooster => 18
  | .noticesDropped => 19
  | .mgmtOverrun => 20

/-- The value of a counter. -/
def State.counter (s : State) (c : Counter) : Nat := s.counters[c.place]?.getD 0

/-- A counter advances by one and stays at 65535 (R162, R179). -/
def State.bump (s : State) (c : Counter) : State :=
  { s with counters := s.counters.setIfInBounds c.place (min (s.counter c + 1) 65535) }

/-- The next free choice of an order the manual leaves open (log 9). -/
def State.freeBool (s : State) : Bool := Config.freeOrder s.free
/-- The free choice has been used. -/
def State.useFree (s : State) : State := { s with free := s.free + 1 }

/-! ### Ports (R168 to R171) -/

/-- A frame of class 1: it carries actuator commands or a LIMIT record (R170). -/
def QFrame.urgent (f : QFrame) : Bool := frameKind f.bytes == 2 || frameKind f.bytes == 5

/-- The transmit arbiter: when the transmitter is free, the oldest frame of the first class that has one is begun (R170). -/
def PortState.start (p : PortState) : PortState :=
  match p.tx with
  | some _ => p
  | none =>
    match p.origin.find? QFrame.urgent with
    | some f => { p with tx := some f, origin := p.origin.erase f }
    | none =>
      match p.fwd with
      | f :: rest => { p with tx := some f, fwd := rest }
      | [] =>
        match p.origin with
        | f :: rest => { p with tx := some f, origin := rest }
        | [] => p

/-- The origin queue has room (R169). -/
def PortState.room (p : PortState) : Bool := p.origin.length < Config.originCap

/-- A frame joins the tail of the origin queue. -/
def PortState.originate (p : PortState) (bytes : List Byte) : PortState :=
  { p with origin := p.origin ++ [⟨bytes, []⟩] }

/-- A frame the part builds for the supervisor: destination 1, source its own line address (R161, R169). -/
def State.supervisorFrame (s : State) (kind : Nat) (records : List RawRecord) : List Byte :=
  buildFrame 1 s.addr kind (chainBytes records)

/-- One NOTICE frame is built of up to 12 of the oldest notices (R171). -/
def State.buildNotice (s : State) : State :=
  if s.notices.isEmpty || !s.up.room || s.held.isSome || s.ev.holdNotices then s
  else
    { s with
      up := s.up.originate (s.supervisorFrame 8 ((s.notices.take Config.noticePack).map noticeRecord))
      notices := s.notices.drop Config.noticePack }

/-- A held response is placed when the upline origin queue has room (R169, R173). -/
def State.placeHeld (s : State) : State :=
  match s.held with
  | none => s
  | some f => if s.up.room then { s with up := { s.up with origin := s.up.origin ++ [f] }, held := none } else s

/-- The upline originators place what they hold while there is room: the response first, then notices (R169). A full
notice queue makes two frames. -/
def State.fillUp (s : State) : State := s.placeHeld.buildNotice.buildNotice

/-- The upline arbiter chooses, when its transmitter is free. -/
def State.startUp (s : State) : State := { s with up := s.up.start }

/-- Upline arbiter and originators until nothing more can be placed or begun (R169, R170, R171). -/
def State.pumpUp (s : State) : State := s.startUp.fillUp.startUp.fillUp

/-- A notice is raised: discarded if masked, queued if there is room, dropped and counted otherwise (R180). A notice
queued while the origin queue has room leaves at once (R171). -/
def State.notice (s : State) (n : Notice) : State :=
  if !s.mask.getLsbD n.kind then s
  else if s.notices.length < Config.noticeCap then ({ s with notices := s.notices ++ [n] } : State).pumpUp
  else s.bump .noticesDropped

/-! ### Actuator unit (R127 to R129) -/

/-- The next node whose LIMIT record waits for room, in ascending index (R129). -/
def State.nextLimit (s : State) : Option (Nat × NodeEntry) :=
  ((List.range 48).find? fun n => (s.nodeS n).limitPending && (s.nodeE n).isSome).bind fun n =>
    (s.nodeE n).map fun e => (n, e)

/-- A LIMIT record is placed: the flag is cleared, and the join timer starts if the node is JOINING (R120, R129). -/
def State.placeLimit (s : State) (n : Nat) (e : NodeEntry) : State :=
  let s1 : State := { s with dn := s.dn.originate (buildFrame e.address s.addr 5 (chainBytes [limitRecord e])) }
  s1.modNode n fun q => { q with limitPending := false, join := if q.state = .joining then some s.now else q.join }

/-- The node an authority index's actuator is on. -/
def State.actNode (s : State) (a : Nat) : Option Nat := (s.authE a).map fun e => e.node

/-- The unsent list entries of one node, in list order. -/
def State.unsentOf (s : State) (n : Nat) : List CmdEntry :=
  s.cmds.filter fun e => e.sent.isNone && s.actNode e.act == some n

/-- Every unsent entry for a node goes in one ACTUATOR_COMMAND frame, and becomes sent at the present moment (R129). -/
def State.placeCommands (s : State) (n : Nat) : State :=
  let records := (s.unsentOf n).map fun e => commandRecord (((s.authE e.act).map AuthEntry.num).getD 0) e.tag e.value
  let address := ((s.nodeE n).map NodeEntry.address).getD 0
  { s with
    dn := s.dn.originate (buildFrame address s.addr 2 (chainBytes records))
    cmds := s.cmds.map fun e => if e.sent.isNone && s.actNode e.act == some n then { e with sent := some s.now } else e }

/-- One frame of the actuator unit is placed, when there is room and something to place: pending LIMIT records first,
then the unsent entries of the oldest unsent entry's node (R129). -/
def State.placeOne (s : State) : Option State :=
  if !s.dn.room then none
  else
    match s.nextLimit with
    | some (n, e) => some (s.placeLimit n e)
    | none =>
      match (s.cmds.find? fun e => e.sent.isNone).bind fun e => s.actNode e.act with
      | some n => some (s.placeCommands n)
      | none => none

/-- Frames are placed while room remains (R129); each takes one place of the queue, so its length bounds them. -/
def State.placeFrames : Nat → State → State
  | 0, s => s
  | fuel + 1, s =>
    match s.placeOne with
    | none => s
    | some s' => placeFrames fuel s'

/-- The downline arbiter chooses, when its transmitter is free (R170). -/
def State.startDn (s : State) : State := { s with dn := s.dn.start }

/-- As many frames as the origin queue can hold. -/
def State.fillDn (s : State) : State := State.placeFrames Config.originCap s

/-- Downline arbiter and actuator unit until nothing more can be placed or begun. -/
def State.pumpDn (s : State) : State := s.startDn.fillDn.startDn.fillDn

/-- A frame joins a port's forward queue, or is dropped and counted when it holds 8 (R168). -/
def State.forward (s : State) (out : Port) (f : QFrame) : State :=
  match out with
  | .up =>
    if s.up.fwd.length < Config.fwdCap then ({ s with up := { s.up with fwd := s.up.fwd ++ [f] } } : State).pumpUp
    else s.bump .upOverrun
  | .down =>
    if s.dn.fwd.length < Config.fwdCap then ({ s with dn := { s.dn with fwd := s.dn.fwd ++ [f] } } : State).pumpDn
    else s.bump .dnOverrun

/-- The actuator unit takes a command for a defined actuator with a value of its kind (R128): a command that is not one
is discarded, and one for a node that is not present is withheld. The actuator's owner is not tested (the model's choice,
log 41). -/
def State.handTaken (s : State) (a : Nat) (v : ActValue) : Bool :=
  match s.authE a with
  | none => false
  | some e => v.kind == e.kind && v.inRange

/-- A handed command makes a list entry: it is taken and its node is present (R128). -/
def State.handListed (s : State) (a : Nat) (v : ActValue) : Bool :=
  s.handTaken a v && (match s.authE a with
    | none => false
    | some e => (s.nodeS e.node).state.present)

/-- A command is handed (R128) but no frame is placed yet. -/
def State.handRaw (s : State) (a : Nat) (v : ActValue) : State :=
  if !s.handTaken a v then s
  else
    let s1 := s.putAct a ⟨some v, false⟩
    if s.handListed a v then
      { s1 with cmds := (s1.cmds.filter fun e => e.act != a) ++ [⟨a, v, s1.tag, none⟩], tag := (s1.tag + 1) % 16 }
    else { s1 with cmds := s1.cmds.filter fun e => e.act != a }

/-- A command is handed, and sent at once when the downline origin queue has room (R128, R129). -/
def State.hand (s : State) (a : Nat) (v : ActValue) : State := (s.handRaw a v).pumpDn

/-- Several commands the actuator unit hands itself stand in the list before a frame is built (R134, log 11). -/
def State.handAll (s : State) (l : List (Nat × ActValue)) : State :=
  (l.foldl (fun s p => s.handRaw p.1 p.2) s).pumpDn

/-- A LIMIT record is handed for a node (R120): placed at once, or left pending. -/
def State.handLimit (s : State) (n : Nat) : State := (s.modNode n fun q => { q with limitPending := true }).pumpDn

/-! ### Zone status (R10 to R16) -/

/-- A zone's status changes; a zone becoming FREE or losing a hold is reported to the arbiter, whose scan comes at the
end of the command (R11, R45, log 7). -/
def State.setZs (s : State) (z : Nat) (x : ZoneStatus) : State :=
  let old := s.zst z
  let due := (!old.isFree && x.isFree) || (old.nodeHold && !x.nodeHold) || (old.userHold && !x.userHold) ||
    (old.fault.isSome && x.fault.isNone)
  (s.putZs z x).modEv fun e => { e with scanDue := e.scanDue || due }

/-- Change a zone's status with the report of `setZs`. -/
def State.modZs (s : State) (z : Nat) (f : ZoneStatus → ZoneStatus) : State := s.setZs z (f (s.zst z))

/-- A scan is to follow (R45). -/
def State.scanWanted (s : State) : State := s.modEv fun e => { e with scanDue := true }

/-- A fault is raised on a zone (R14); at an undefined zone it is discarded (R10). -/
def State.raiseFault (s : State) (z : Nat) (f : ZFault) : State :=
  if (s.zoneE z).isNone then s else s.modZs z fun q => { q with fault := some (mergeFault q.fault f) }

/-- A zone's watch starts from the present moment, except in CONFIG and CHECKING (R34). -/
def State.startWatch (s : State) (z : Nat) : State :=
  if s.mode.watchesStart then s.modZs z fun q => { q with watch := some s.now } else s

/-- A zone's watch stops (R35). -/
def State.stopWatch (s : State) (z : Nat) : State := s.modZs z fun q => { q with watch := none }

/-- The NODE hold of a defined zone is placed or removed (R12). -/
def State.evalNodeHold (s : State) (z : Nat) : State :=
  match s.zoneE z with
  | none => s
  | some e => if (s.zst z).nodeHold = s.wantsNodeHold e then s else s.modZs z fun q => { q with nodeHold := s.wantsNodeHold e }

/-- The NODE holds of the zones whose depends list names a node are evaluated again (R12). -/
def State.evalNodeHolds (s : State) (n : Nat) : State :=
  (s.definedZones.filter fun p => p.2.depends.contains n).foldl (fun s p => s.evalNodeHold p.1) s

/-- The USER hold of each zone follows its latch and its FOLLOW users; an undefined zone has none (R10, R13). -/
def State.evalUserHolds (s : State) : State :=
  let hot := s.followHolds
  s.definedZones.foldl (fun s p =>
    let q := s.zst p.1
    let want := q.latch || hot.contains p.1
    if q.userHold = want then s else s.setZs p.1 { q with userHold := want }) s

end Sys2Proof.Machine
end

