-- ==== Sys2Proof/Machine/Trigger.lean ====
section
/-! DEFINITION. The trigger matrix: what reaches a user, and the edges of the level generators (chapter 9). Pulses of
generators stand in Launch.lean, beside the aborts that INHIBIT users ask for. -/

namespace Sys2Proof.Machine

/-- A user of this mode acts on this arrival (R153). -/
def UserMode.acts : UserMode → Arrival → Bool
  | .follow, _ => true
  | .rising, .rise => true
  | .rising, .fall => false
  | .rising, .pulse => true
  | .falling, .rise => false
  | .falling, .fall => true
  | .falling, .pulse => true

/-- The user latch of a zone is set; an undefined zone discards it (R10, R13, R155). -/
def State.setLatch (s : State) (z : Nat) : State :=
  if (s.zoneE z).isNone then s else s.modZs z fun q => { q with latch := true }

/-- An AUX user's pulse timer starts, or starts again, with its pulse length (R154). -/
def State.startPulse (s : State) (u : Nat) : State := s.putPulse u (some (s.now + (s.userE u).param))

/-- A TRIGGER notice of user `u` (R156). -/
def State.triggerNotice (s : State) (u c : Nat) (a : Arrival) (src : Source) : State :=
  s.notice (.trigger u c (s.chanE c) a src)

/-- User `u` takes an arrival from channel `c` (R153 to R157). The levels of FOLLOW users are read, not stored. -/
def State.arrive (s : State) (u c : Nat) (a : Arrival) (src : Source) : State :=
  let e := s.userE u
  if !e.mode.acts a then s
  else if u < 8 then
    if e.mode = .follow ∧ a ≠ .pulse then s else s.startPulse u
  else if u < 16 then
    if e.mode = .follow then s else s.setLatch e.param
  else if u < 20 then
    if e.mode = .follow ∧ a = .pulse then (s.triggerNotice u c .rise src).triggerNotice u c .fall src
    else s.triggerNotice u c a src
  else s

/-- An arrival reaches every user of channel `c`, in ascending user index (R153). -/
def State.deliver (s : State) (c : Nat) (a : Arrival) (src : Source) : State :=
  (List.range 22).foldl (fun s u => if (s.userE u).chan = c + 1 then s.arrive u c a src else s) s

/-- A pulse on channel `c` reaches its AUX, HOLD and NOTICE users, and stands as a high level for the rest of the event
(R153, R157). What an INHIBIT user makes of it stands in Launch.lean. -/
def State.deliverPulse (s : State) (c : Nat) (src : Source) : State :=
  (s.modEv fun e => { e with pulsed := c :: e.pulsed }).deliver c .pulse src

/-- Between `s0` and `s`, channel `c` keeps its generator and its level changes (R150, R159). -/
def State.edge (s0 s : State) (c : Nat) : Option Arrival :=
  if s0.chanE c = s.chanE c ∧ s0.chanLevel c ≠ s.chanLevel c then some (if s.chanLevel c then .rise else .fall) else none

/-- The edges of one event: each level that ends it changed gives its rise or fall (R150), in ascending channel number
(the model's choice, log 39). -/
def State.edges (s0 s : State) : State :=
  (List.range 12).foldl (fun t c => match State.edge s0 s c with
    | none => t
    | some a => t.deliver c a .generated) s

/-- Every auxiliary line takes its level (R154). -/
def State.driveLines (s : State) : State := { s with lines := (Vector.range 8).map s.auxLine }

end Sys2Proof.Machine
end

