-- ==== Sys2Proof/Machine/Reservation.lean ====
section
/-! DEFINITION. Path reservation: the walk of a path, requests and the reservation queue, returns and failed throws
(chapter 3). The grant itself stands in Grant.lean. -/

namespace Sys2Proof.Machine

/-! ### Paths (R3, R40, R41) -/

/-- The successor a boat of this route enters from a zone (R3). -/
def ZoneEntry.successor (e : ZoneEntry) (route : Route) : Nat :=
  match e.kind, e.alt, route with
  | .transfer, some a, .bay => a
  | _, _, _ => e.main

/-- The walk at zone `z` with `acc` already on the path and room for `fuel` more (R40, R41; log 24). -/
def State.walkFrom (s : State) (o : Nat) : Nat → Nat → List Nat → Except PathReason (List Nat)
  | fuel, z, acc =>
    match s.zoneE z with
    | none => .error .undefined
    | some e =>
      if z = o then .error .loop
      else
        match fuel with
        | 0 => .error .length
        | n + 1 => if e.kind.stoppable then .ok (acc ++ [z]) else s.walkFrom o n e.main (acc ++ [z])

/-- The path from origin `o` for a route, or the reason of its refusal (R40, R41). -/
def State.walk (s : State) (o : Nat) (route : Route) : Except PathReason (List Nat) :=
  match s.zoneE o with
  | none => .error .undefined
  | some e => s.walkFrom o 16 (e.successor route) []

/-! ### Requests (R42 to R44) -/

/-- What path reservation returns to the requester (R42). -/
inductive Answer where
  | accepted | ignored | refused
  deriving DecidableEq, Repr

/-- A boat's state is set. -/
def State.setBoatState (s : State) (b : Nat) (x : BoatState) : State := s.modBoat b fun r => { r with state := x }

/-- A new entry joins the tail of the queue (R43). -/
def State.enqueue (s : State) (b origin : Nat) (path : List Nat) : State :=
  (({ s with queue := s.queue ++ [⟨b, origin, path, s.reqSeq⟩], reqSeq := s.reqSeq + 1 } : State).setBoatState b
    .requested).scanWanted

/-- Path reservation takes a request for boat `b` (R42). -/
def State.request (s : State) (b : Nat) : State × Answer :=
  match s.boatR b with
  | none => (s, .refused)
  | some r =>
    if !s.mode.requestsTaken then (s, .refused)
    else if r.state ≠ .waiting then (s, .ignored)
    else if !s.stoppable r.zone then (s, .refused)
    else
      match s.walk r.zone r.route with
      | .error reason => (s.notice (.path b r.zone reason), .refused)
      | .ok p => (s.enqueue b r.zone p, .accepted)

/-- Boat `b` has a queue entry. -/
def State.queued (s : State) (b : Nat) : Bool := s.queue.any fun e => e.boat == b

/-- Boat `b`'s entry is withdrawn; without one nothing changes (R44). -/
def State.withdraw (s : State) (b : Nat) : State :=
  if s.queued b then
    ({ s with queue := s.queue.filter fun e => e.boat != b } : State).setBoatState b .waiting
  else s

/-- An entry goes back to the place its request time gives it, and its boat is REQUESTED (R43, R45). -/
def State.restoreEntry (s : State) (e : QEntry) : State :=
  (({ s with
    queue := (s.queue.filter fun x => x.order < e.order) ++ e :: (s.queue.filter fun x => !(x.order < e.order)) } :
      State).setBoatState e.boat .requested).scanWanted

/-- The register makes the automatic request of a boat WAITING in a zone of an automatic kind (R24). -/
def State.autoRequest (s : State) (b : Nat) : State :=
  match s.boatR b with
  | none => s
  | some r =>
    if r.state = .waiting ∧ (s.zoneE r.zone).any (fun e => e.kind.automatic) = true then (s.request b).1 else s

/-- The automatic requests at the entry to RUN, in ascending boat number (R24, R143). -/
def State.autoRequests (s : State) : State := (List.range 24).foldl (fun s i => s.autoRequest (i + 1)) s

/-! ### Returns and throws (R52, R53, R55) -/

/-- A zone's reservation holder becomes none. -/
def State.unreserve (s : State) (z : Nat) : State := s.modZs z fun q => { q with reserved := none }

/-- The reservations of a GRANTED boat are returned; its state is the caller's to set (R55). -/
def State.returnReservations (s : State) (b : Nat) : State :=
  match s.boatR b with
  | none => s
  | some r =>
    if r.state ≠ .granted then s
    else
      (((r.path.foldl (fun s z => s.unreserve z) s).putRel b none).modBoat b fun r => { r with path := [] }).stopWatch r.zone

/-- A grant at the throw stage is undone: return, entry restored, boat REQUESTED (R52 in HOLD, R53). -/
def State.undoGrant (s : State) (b : Nat) : State :=
  match s.release b with
  | none => s
  | some rel => (s.returnReservations b).restoreEntry rel.entry

/-- The boats whose switch throw waits on authority index `a`. -/
def State.throwsOn (s : State) (a : Nat) : List Nat :=
  (List.range 24).filterMap fun i => match s.release (i + 1) with
    | none => none
    | some rel => if rel.stage = .throw a then some (i + 1) else none

/-- A switch throw fails (R53). -/
def State.throwFailed (s : State) (b : Nat) : State :=
  match s.release b with
  | none => s
  | some rel => (s.undoGrant b).notice (.throwFailed rel.entry.origin b)

/-- Every throw waiting on actuator `a` fails. -/
def State.failThrows (s : State) (a : Nat) : State := (s.throwsOn a).foldl State.throwFailed s

end Sys2Proof.Machine
end

