-- ==== Sys2Proof/Machine/Berths.lean ====
section
/-! DEFINITION. Berth units: the states and the reports they take (chapter 4). Presses stand in Press.lean. -/

namespace Sys2Proof.Machine

/-- Berth `b` takes an event: at its end the lamp and lock are compared (R63, log 8). -/
def State.touch (s : State) (b : Nat) : State := s.modEv fun e => { e with touched := b :: e.touched }

/-- A berth's status changes within an event. -/
def State.setBerth (s : State) (b : Nat) (f : BerthStatus → BerthStatus) : State := (s.modBerth b f).touch b

/-- The lock value of an OCCUPIED berth by its latch: a PAD keeps LOCK (R63, R65). -/
def Role.lockFor (role : Role) (latch : Bool) : LockV :=
  match role, latch with
  | .pad, _ => .lock
  | _, true => .lock
  | _, false => .unlock

/-- The status of a berth that becomes EMPTY (R63, R68, R72). -/
def BerthStatus.emptied (q : BerthStatus) : BerthStatus :=
  { q with state := .empty, lamp := .off, lock := .lock, pending := false, reason := .none }

/-- The state of a berth is derived from the zone's occupant and the held sensor values (R65). -/
def State.berthDerive (s : State) (b : Nat) : State :=
  match s.berthE b with
  | none => s
  | some e => s.setBerth b fun q =>
    if (s.occupant e.zone).isNone || !q.presence then q.emptied
    else if q.latch && s.lockConfirmed e then
      { q with state := .secured, lamp := .on, lock := .lock, pending := false, reason := .none }
    else { q with state := .occupied, lamp := .off, lock := e.role.lockFor q.latch, pending := false, reason := .none }

/-- An OCCUPIED berth whose latch is closed, whose wanted lock is LOCK and whose lock is confirmed becomes SECURED
(R66, R67, log 22). -/
def State.trySecure (s : State) (b : Nat) : State :=
  match s.berthE b with
  | none => s
  | some e =>
    let q := s.berthS b
    if q.state = .occupied ∧ q.latch = true ∧ q.lock = .lock ∧ s.lockConfirmed e = true then
      s.setBerth b fun q => { q with state := .secured, lamp := .on }
    else s

/-- An EMPTY berth with an occupant and presence takes its boat (R66). -/
def State.berthArrive (s : State) (b : Nat) : State :=
  match s.berthE b with
  | none => s
  | some e =>
    let q := s.berthS b
    if q.state = .empty ∧ (s.occupant e.zone).isSome = true ∧ q.presence = true then
      (s.setBerth b fun q =>
        { q with state := .occupied, lamp := .off, lock := e.role.lockFor false, weight := none, pending := false }).trySecure b
    else s.touch b

/-- A passage out of the zone: every state but FAULT becomes EMPTY (R72, R75). -/
def State.berthLeft (s : State) (b : Nat) : State :=
  s.setBerth b fun q => if q.state = .fault then q else q.emptied

/-- The zone's boat is retired: FAULT and EMPTY stay (R66, R67, R71, R76). -/
def State.berthRetired (s : State) (b : Nat) : State :=
  s.setBerth b fun q => if q.state = .fault ∨ q.state = .empty then q else q.emptied

/-- A grant for the zone's occupant (R72). -/
def State.berthGranted (s : State) (b : Nat) : State :=
  s.setBerth b fun q => if q.state = .requested then { q with state := .released, lamp := .on, lock := .lock } else q

/-- The boat's reservations have been returned (R73). -/
def State.berthReturned (s : State) (b : Nat) : State :=
  match s.berthE b with
  | none => s
  | some e =>
    let q := s.berthS b
    if q.state ≠ .released then s.touch b
    else if q.latch && s.lockConfirmed e then
      s.setBerth b fun q => { q with state := .secured, lamp := .blink, lock := .lock }
    else s.berthDerive b

/-- The request has been withdrawn by the mode (R71). -/
def State.berthWithdrawn (s : State) (b : Nat) : State :=
  s.setBerth b fun q => if q.state = .requested then { q with state := .secured, lamp := .blink } else q

/-- CLEAR_ZONE on the berth's zone (R76). -/
def State.berthCleared (s : State) (b : Nat) : State :=
  if (s.berthS b).state = .fault then s.berthDerive b else s.touch b

/-- A berth goes to FAULT; a REQUESTED berth's entry is withdrawn first (R74, R75). -/
def State.berthFault (s : State) (b : Nat) (reason : BerthFault) : State :=
  match s.berthE b with
  | none => s
  | some e =>
    let s1 := if (s.berthS b).state = .requested then
        (match s.occupant e.zone with
        | none => s
        | some n => s.withdraw n)
      else s
    s1.setBerth b fun q => { q with state := .fault, lamp := .blink, pending := false, reason := reason }

/-- A report reaches the berth attached to zone `z`, if any (R8). -/
def State.toBerth (s : State) (z : Nat) (f : State → Nat → State) : State :=
  match s.berthOfZone z with
  | none => s
  | some (b, _) => f s b

/-- The lamp is commanded (R63). -/
def State.handLamp (s : State) (b : Nat) (e : BerthEntry) : State :=
  (s.modBerth b fun q => { q with lampDone := false }).hand e.lamp (s.berthS b).lamp.value
/-- The lock is commanded (R63). -/
def State.handLock (s : State) (b : Nat) (e : BerthEntry) : State :=
  (s.modBerth b fun q => { q with lockDone := false }).hand e.lock (s.berthS b).lock.value

/-- After an event: each wanted value is compared with the commanded value and handed where they differ (R63). -/
def State.settleBerth (s : State) (b : Nat) : State :=
  match s.berthE b with
  | none => s
  | some e =>
    let s1 := if (s.actS e.lamp).commanded = some (s.berthS b).lamp.value then s else s.handLamp b e
    if (s1.actS e.lock).commanded = some (s1.berthS b).lock.value then s1 else s1.handLock b e

/-- The berths that took an event, in ascending number. -/
def State.settleBerths (s : State) : State :=
  (List.range 6).foldl (fun s b => if s.ev.touched.contains b then s.settleBerth b else s) s

/-- Both values are handed whether or not they differ (R61, R79). -/
def State.handBoth (s : State) (b : Nat) : State :=
  match s.berthE b with
  | none => s
  | some e => (s.handLamp b e).handLock b e

/-- Every entry is withdrawn on entry to STOP or CONFIG, and each boat's berth is told (R56, R57, R71). -/
def State.withdrawAll (s : State) : State :=
  s.queue.foldl (fun s e => (s.setBoatState e.boat .waiting).toBerth e.origin State.berthWithdrawn) { s with queue := [] }

/-- The reservations of every GRANTED boat are returned on STOP, and each boat's berth is told (R56, R73). -/
def State.returnAll (s : State) : State :=
  (List.range 24).foldl (fun s i => match s.boatR (i + 1) with
    | none => s
    | some r =>
      if r.state = .granted then
        ((s.returnReservations (i + 1)).setBoatState (i + 1) .waiting).toBerth r.zone State.berthReturned
      else s) s

end Sys2Proof.Machine
end

