-- ==== Sys2Proof/Machine/Brakes.lean ====
section
/-! DEFINITION. Brake runs: forces, the stage count, fin commands, releases and the capacity prediction (chapter 6). -/

namespace Sys2Proof.Machine

/-! ### Arithmetic (R98, R103 to R107) -/

/-- Division rounded up. -/
def ceilDiv (a b : Nat) : Nat := (a + (b - 1)) / b

/-- The speed of an interval of 1 to 65535 at a spacing (R98). -/
def speedOf (spacing interval : Nat) : Nat := if interval = 65535 then 0 else min (spacing * 100000 / interval) 20000

/-- A stage's effective force (R103). -/
def StageEntry.force (e : StageEntry) : Nat := ((e.nominal : Int) * (64 + e.trim) / 64).toNat

/-- The mass of a computation: a known weight or a stand-in, with the run's water, capped at 3000 kg (R104). -/
def RunEntry.mass (e : RunEntry) (weight : Nat) : Nat := min (weight + e.water) 3000

/-- The deceleration the fins must give for a speed (R105). -/
def RunEntry.decel (e : RunEntry) (v : Nat) : Nat :=
  if v ≤ e.exit then 0 else min (ceilDiv (v * v - e.exit * e.exit) (2 * e.length)) 100000 - e.passive

/-- The required force for a mass and a speed (R106). -/
def RunEntry.required (e : RunEntry) (m v : Nat) : Nat := ceilDiv (m * e.decel v) 1000

/-- Stage `i` (from 0) of run `r` (R102). -/
def State.stageOf (s : State) (r i : Nat) : StageEntry := s.stageE (8 * r + i)

/-- The available force of a stage: its effective force while its fin's node is ACTIVE (R103). -/
def State.available (s : State) (e : StageEntry) : Nat :=
  match s.actNode e.fin with
  | none => 0
  | some n => if s.nodeActive n then e.force else 0

/-- The available forces of stages 1 to `n` of a run, summed (R107, R115). -/
def State.capacity (s : State) (r n : Nat) : Nat := ((List.range n).map fun i => s.available (s.stageOf r i)).sum

/-- The stage count for a required force when no case of R108 applies: the smallest sufficient count from the larger of
the minimum and 1, or none (R107). -/
def State.stageCount? (s : State) (r : Nat) (e : RunEntry) (force : Nat) : Option Nat :=
  (List.range (e.stages + 1)).find? fun k => max e.minStages 1 ≤ k && force ≤ s.capacity r k

/-- The mass of a boat at a run, its class's maximum mass standing in for an absent weight (R104). -/
def State.massOf (s : State) (e : RunEntry) (x : Boat) : Nat := e.mass (x.weight.getD (s.clsE x.cls).max)

/-- The brake capacity prediction for a band speed and a weight (R84, R115). An undefined run does not pass (log 21). -/
def State.predict (s : State) (r speed weight : Nat) : Bool :=
  match s.runE r with
  | none => false
  | some e => e.required (e.mass weight) speed ≤ s.capacity r e.stages

/-! ### Fin commands (R111) -/

/-- The awaiting flag of stage `i` (from 0) of run `r`. -/
def State.setAwaiting (s : State) (r i : Nat) (x : Bool) : State :=
  s.modRun r fun q => { q with awaiting := q.awaiting.setIfInBounds i x }

/-- Some stage of the run is awaiting (R109). -/
def RunStatus.anyAwaiting (q : RunStatus) : Bool := q.awaiting.toList.any id

/-- A stage is handed a value: an ENGAGE that is listed sets its flag, a RETRACT clears it (R111). -/
def State.handFin (s : State) (r i : Nat) (v : ActValue) : State :=
  let fin := (s.stageOf r i).fin
  let s1 := s.hand fin v
  if v = .finEngage then (if s.handListed fin v then s1.setAwaiting r i true else s1) else s1.setAwaiting r i false

/-- Stages 1 to N are given their wanted values: ENGAGE up to `k`, RETRACT above; only differences are handed (R107,
R111). -/
def State.setFins (s : State) (r n k : Nat) : State :=
  (List.range n).foldl (fun s i =>
    let v := if i < k then ActValue.finEngage else .finRetract
    if (s.actS (s.stageOf r i).fin).commanded = some v then s else s.handFin r i v) s

/-- Every stage of a defined run becomes wanted ENGAGE, and the set boat and count become absent (R112, R114). -/
def State.restoreRun (s : State) (r : Nat) : State :=
  match s.runE r with
  | none => s
  | some e => (s.setFins r e.stages e.stages).modRun r fun q =>
    { q with boat := none, count := none, state := if q.anyAwaiting then .restoring else .ready }

/-- Every defined run is restored, on entry to STOP or CONFIG (R114). -/
def State.restoreRuns (s : State) : State := (s.restoreRun 0).restoreRun 1

/-- After a RUNTIME reset a run hands ENGAGE for every stage, whatever the actuators hold (R116). -/
def State.engageRun (s : State) (r : Nat) : State :=
  match s.runE r with
  | none => s
  | some e => ((List.range e.stages).foldl (fun s i => s.handFin r i .finEngage) s).modRun r fun q =>
    { q with boat := none, count := none, state := if q.anyAwaiting then .restoring else .ready }

/-- The flags of the stages of run `r` that use a fin are cleared; a RESTORING run with none left is READY (R111).
That every stage naming the fin is told, where unchecked tables have several, is the model's choice (log 47). -/
def State.finSettledIn (s : State) (fin r : Nat) : State :=
  match s.runE r with
  | none => s
  | some e =>
    let s1 := (List.range e.stages).foldl (fun s i => if (s.stageOf r i).fin = fin then s.setAwaiting r i false else s) s
    s1.modRun r fun q => if q.state = .restoring ∧ q.anyAwaiting = false then { q with state := .ready } else q

/-- An ENGAGE of a fin has completed, failed or been closed (R111, R133). That the actuator unit's own ENGAGE (R135, R167), which has
replaced the awaited one, counts as that ENGAGE is the model's choice (log 47). -/
def State.finSettled (s : State) (fin : Nat) : State := (s.finSettledIn fin 0).finSettledIn fin 1

/-- Run `r` is a defined run whose zone is `z` (R101). -/
def State.runIsAt (s : State) (r z : Nat) : Bool := (s.runE r).any fun e => e.zone == z

/-- The brake run whose zone is `z`, the only one by R101, is released when the zone's occupant leaves (R32, R112). -/
def State.runLeft (s : State) (z : Nat) : State :=
  [0, 1].foldl (fun s r => if s.runIsAt r z then s.restoreRun r else s) s

end Sys2Proof.Machine
end

