-- ==== Sys2Proof/Machine/Launch.lean ====
section
/-! DEFINITION. Launch sequencers: pre-checks, charging, aborts and the entry to IDLE (R82 to R87, R94). What may ask for
a change of mode stands in Measuring.lean. -/

namespace Sys2Proof.Machine

/-- Band `i` of section `k` (R81). -/
def State.band (s : State) (k i : Nat) : Option BandEntry := s.bandE (8 * k + i)

/-- The section's first defined band, in ascending index, whose upper bound is at least a weight (R83). -/
def State.bandFor (s : State) (k weight : Nat) : Option Nat :=
  (List.range 8).find? fun i => (s.band k i).any fun e => weight ≤ e.upper

/-- The node of a section's booster (R80). -/
def State.boosterNode (s : State) (k : Nat) : Option Nat := (s.launchE k).bind fun e => s.actNode e.booster

/-- A value is handed to the section's booster (R82). -/
def State.handBooster (s : State) (k : Nat) (v : ActValue) : State :=
  match s.launchE k with
  | none => s
  | some e => s.hand e.booster v

/-- The capacity prediction for a band of a section and a weight (R84). -/
def State.predictBand (s : State) (k i weight : Nat) : Bool :=
  match s.launchE k, s.band k i with
  | some e, some d => s.predict e.run d.drop weight
  | _, _ => false

/-- The pre-checks of boat `x` at section `k`: the selected band, or the refusal reason of the first check that fails
(R83). -/
def State.preCheck (s : State) (k : Nat) (x : Boat) : Except RefuseReason Nat :=
  match x.weight with
  | none => .error .noWeight
  | some w =>
    if w < (s.clsE x.cls).empty * 90 / 100 then .error .implausible
    else
      match s.bandFor k w with
      | none => .error .overweight
      | some i =>
        if !s.predictBand k i w then .error .brakeCapacity
        else if s.inhibited k then .error .inhibited
        else .ok i

/-- Target of band `i` of section `k`; the table check gives a launching boat a defined band (log 30). -/
def State.bandTarget (s : State) (k i : Nat) : Nat := ((s.band k i).map BandEntry.target).getD 0

/-- A launch in CHARGING is aborted (R87). -/
def State.launchAbort (s : State) (k : Nat) (reason : AbortReason) : State :=
  match s.launchE k, (s.seqS k).boat with
  | some e, some b =>
    let s1 := (s.putSeq k .idle).hand e.booster .boosterSafe
    let granted := (s1.boatR b).any fun r => r.state == .granted
    let s2 := if granted then
        (((s1.returnReservations b).setBoatState b .waiting).toBerth e.zone State.berthReturned)
      else s1
    s2.notice (.launchAborted k b reason)
  | _, _ => s

/-- A sequencer in CHARGING is aborted; in another state nothing happens (R87). -/
def State.abortCharge (s : State) (k : Nat) (reason : AbortReason) : State :=
  if (s.seqS k).state = .charging then s.launchAbort k reason else s

/-- The sent target: the smaller of the band's target and limit value 1 of the booster node (R85). -/
def State.sentTarget (s : State) (k i : Nat) : Nat :=
  match (s.boosterNode k).bind s.nodeE with
  | none => s.bandTarget k i
  | some n => min (s.bandTarget k i) n.limit1

/-- The booster node is ACTIVE. -/
def State.boosterActive (s : State) (k : Nat) : Bool := (s.boosterNode k).any s.nodeActive

/-- A grant hands boat `b` to the sequencer of section `k` (R50, R85). -/
def State.chargeStart (s : State) (k b : Nat) : State :=
  match s.launchE k with
  | none => s
  | some e =>
    let band := ((s.boatR b).bind fun x => x.band).map (·.2)
    let s1 := s.putSeq k { Seq.idle with state := .charging, boat := some b, band := band }
    if s.inhibited k then s1.launchAbort k .inhibited
    else if !s.boosterActive k then s1.launchAbort k .nodeLost
    else
      let target := s.sentTarget k (band.getD 0)
      (s1.modSeq k fun q => { q with target := some target, charge := some s.now }).hand e.booster (.boosterRequest target)

/-- A first passage of the launching boat while CHARGING: the boat has left unfired (R87). -/
def State.launchDeparted (s : State) (k b : Nat) : State :=
  if (s.seqS k).state = .charging ∧ (s.seqS k).boat = some b then
    ((s.modSeq k fun q => { q with state := .measuring, charge := none }).handBooster k .boosterSafe).notice
      (.launchAborted k b .departed)
  else s

/-- On STOP or CONFIG a sequencer that is not IDLE becomes IDLE (R94). -/
def State.seqToIdle (s : State) (k : Nat) : State :=
  let q := s.seqS k
  if q.state = .idle then s
  else
    let s1 := (s.putSeq k .idle).handBooster k .boosterSafe
    match q.state, q.boat with
    | .charging, some b => s1.notice (.launchAborted k b .mode)
    | _, _ => s1

/-- Both sequencers become IDLE (R94). -/
def State.seqsToIdle (s : State) : State := (s.seqToIdle 0).seqToIdle 1

/-- Mode control hands SAFE to a defined section's booster whose commanded value is not SAFE (R142). -/
def State.boosterSafeByMode (s : State) (k : Nat) : State :=
  match s.launchE k with
  | none => s
  | some e => if (s.actS e.booster).commanded = some .boosterSafe then s else s.hand e.booster .boosterSafe

/-- Both boosters, by mode control. -/
def State.boostersSafeByMode (s : State) : State := (s.boosterSafeByMode 0).boosterSafeByMode 1

/-- Sequencers and mode control both see to SAFE, in either order (R142): which comes first is a free choice (log 9). With
both sequencers IDLE only mode control acts. -/
def State.boostersToSafe (s : State) : State :=
  if (s.seqS 0).state = .idle ∧ (s.seqS 1).state = .idle then s.boostersSafeByMode
  else if s.freeBool then s.useFree.seqsToIdle.boostersSafeByMode
  else s.useFree.boostersSafeByMode.seqsToIdle

/-! ### Pulses (R151, R157, R158) -/

/-- A pulse on channel `c` reaches its INHIBIT users: a charge of the section each names is aborted at that moment (R157). -/
def State.inhibitPulse (s : State) (c : Nat) : State :=
  [20, 21].foldl (fun s u => if (s.userE u).chan = c + 1 then s.abortCharge (s.userE u).param .inhibited else s) s

/-- One pulse on channel `c` (R151, R158). -/
def State.pulseChan (s : State) (c : Nat) (src : Source) : State := (s.deliverPulse c src).inhibitPulse c

/-- A pulse generator delivers one pulse to every channel that selects it (R151), in ascending channel number (the model's
choice, log 39). -/
def State.pulse (s : State) (g : Gen) : State :=
  (List.range 12).foldl (fun s c => if s.chanE c = some g then s.pulseChan c .generated else s) s

/-! ### Nodes that leave ACTIVE (R87, R122) -/

/-- The sequencers whose section's booster is on a node, section 0 first by the model's choice (log 39). -/
def State.chargesOn (s : State) (n : Nat) : List Nat := [0, 1].filter fun k => s.boosterNode k == some n

/-- A node leaves ACTIVE: the charges of its boosters are aborted (R87, R122). -/
def State.abortChargesOn (s : State) (n : Nat) : State :=
  (s.chargesOn n).foldl (fun s k => s.abortCharge k .nodeLost) s

end Sys2Proof.Machine
end

