-- ==== Sys2Proof/Machine/Modes.lean ====
section
/-! DEFINITION. Mode control: changes of mode with their entry effects, requests from the blocks, and the abort of a table
check (chapter 8). -/

namespace Sys2Proof.Machine

/-! ### Entry effects (R142 to R144) -/

/-- The GATE actuators named by defined zones, in ascending authority index, each once (R142). -/
def State.watchedGates (s : State) : List Nat :=
  (List.range 64).filter fun a => s.definedZones.any fun p => p.2.gate == some a

/-- CLOSE is handed to every watched gate, whatever its commanded value (R142). -/
def State.closeGates (s : State) : State := s.watchedGates.foldl (fun s a => s.hand a .gateClose) s

/-- The SHARED actuators with their safe values, in ascending authority index (R135). -/
def State.sharedSafe (s : State) : List (Nat × ActValue) :=
  (List.range 64).filterMap fun a => (s.authE a).bind fun e => if e.owner = .shared then some (a, e.kind.safe) else none

/-- A sequencer in CHARGING aborts when RUN becomes HOLD (R87, R143), section 0 first by the model's choice (log 39). -/
def State.abortCharges (s : State) : State := (s.abortCharge 0 .mode).abortCharge 1 .mode

/-- Entry to RUN: a scan, and the automatic requests (R143). -/
def State.enterRun (s : State) : State := s.scanWanted.autoRequests

/-- Entry to HOLD (R143): a charge ends by the change of mode, and the pulse follows. R143 names the pulse first and gives no
order; the abort first, with reason MODE, is the model's choice (log 39). -/
def State.enterHold (s : State) (old : Mode) : State :=
  (if old = .run then s.abortCharges else s).pulse .holdEntered

/-- Entry to STOP (R56, R94, R114, R135, R140, R142; order of the blocks: log 10). -/
def State.enterStop (s : State) : State :=
  let s1 := (s.modMc fun m => { m with holdPending := false }).withdrawAll.returnAll
  let s2 := s1.boostersToSafe.closeGates.restoreRuns
  s2.handAll s2.sharedSafe

/-- Every watch stops when the mode becomes CONFIG (R35). -/
def State.stopWatches (s : State) : State := { s with zs := s.zs.map fun q => { q with watch := none } }

/-- Entry to CONFIG, but at a reset (R57, R94, R114, R142, R144; order of the blocks: log 10). -/
def State.enterConfig (s : State) : State :=
  let s1 := (s.modMc fun m => { m with layoutChecked := false, holdPending := false }).withdrawAll.stopWatches
  s1.boostersToSafe.closeGates.restoreRuns

/-- The effects that go with the new mode. -/
def State.enterMode (s : State) (old new : Mode) : State :=
  match new with
  | .config => s.enterConfig
  | .checking => s
  | .run => s.enterRun
  | .hold => s.enterHold old
  | .stop => s.enterStop

/-- The mode changes: STOP OUT follows at once, a notice is sent, and the entry effects follow (R137, R141, R142). -/
def State.changeMode (s : State) (new : Mode) (cause : Cause) : State :=
  ((s.modMc fun m => { m with mode := new, stopOut := new == .stop }).notice (.modeChanged new s.mode cause)).enterMode
    s.mode new

/-! ### Requests (R139 to R141) -/

/-- A check in progress is aborted (R145). -/
def State.abortCheck (s : State) : State :=
  match s.mc.check with
  | none => s
  | some c => s.modMc fun m => { m with check := none, result := { CheckResult.empty with outcome := .aborted, item := some c.item } }

/-- STOP from any other mode (R138, R140, R141). -/
def State.goStop (s : State) (cause : Cause) : State :=
  if s.mode = .stop then s else s.abortCheck.changeMode .stop cause

/-- A block asks for STOP (R140). -/
def State.askStop (s : State) (b : Block) : State := s.goStop (.block b)

/-- A block asks for HOLD (R139). -/
def State.askHold (s : State) (b : Block) : State :=
  match s.mode with
  | .run => s.changeMode .hold (.block b)
  | .checking => s.modMc fun m => { m with holdPending := true }
  | .config => s
  | .hold => s
  | .stop => s

end Sys2Proof.Machine
end

