-- ==== Sys2Proof/Machine/Grant.lean ====
section
/-! DEFINITION. The grant arbiter, and what closes every event: level edges, USER holds, inhibits, scans, lamps and locks,
auxiliary lines (R45 to R51, R63, R150, R154; log 7). -/

namespace Sys2Proof.Machine

/-! ### Grants (R46 to R51) -/

/-- A sequencer of a LAUNCH origin is IDLE; other origins need none (R46). -/
def State.launchReady (s : State) (o : Nat) : Bool :=
  match s.zoneE o with
  | none => true
  | some e =>
    match e.kind, e.sec with
    | .launch, some k => (s.seqS k).state == .idle
    | _, _ => true

/-- An entry can be granted now (R46). -/
def State.grantable (s : State) (e : QEntry) : Bool :=
  s.mode == .run && e.path.all s.zoneFree && s.launchReady e.origin

/-- The value a switch is thrown to for a path (R4, R51). -/
def ZoneEntry.throwValue (z : ZoneEntry) (path : List Nat) : ActValue :=
  if z.alt.isSome ∧ path.head? = z.alt then .switchAlt else .switchMain

/-- A gate or exit drive is commanded OPEN: the release stands at its gate stage (R48, R49). -/
def State.openGate (s : State) (e : QEntry) (z : ZoneEntry) : State :=
  let s1 := s.putRel e.boat (some ⟨e, .gate⟩)
  match z.gate with
  | none => s1
  | some a => s1.hand a .gateOpen

/-- The release of an origin zone begins (R48 to R51; a TRANSFER zone without a switch: log 19). -/
def State.beginRelease (s : State) (e : QEntry) (z : ZoneEntry) : State :=
  match z.kind with
  | .launch =>
    let s1 := s.putRel e.boat (some ⟨e, .launch⟩)
    (match z.sec with
    | none => s1
    | some k => s1.chargeStart k e.boat)
  | .transfer =>
    (match z.switch with
    | some a => (s.putRel e.boat (some ⟨e, .throw a⟩)).hand a (z.throwValue e.path)
    | none => s.openGate e z)
  | .berth => s.openGate e z
  | .queue => s.openGate e z
  | .brakeRun => s.openGate e z
  | .channel => s
  | .drop => s

/-- The zones of a path are reserved for a boat (R47). -/
def State.reserve (s : State) (b : Nat) (path : List Nat) : State :=
  path.foldl (fun s z => s.modZs z fun q => { q with reserved := some b }) s

/-- A grant (R47). -/
def State.grant (s : State) (e : QEntry) : State :=
  let s1 := s.reserve e.boat e.path
  let s2 : State := { s1 with queue := s1.queue.filter fun x => x.boat != e.boat }
  let s3 := (s2.modBoat e.boat fun r => { r with path := e.path, state := .granted }).toBerth e.origin State.berthGranted
  match s3.zoneE e.origin with
  | none => s3
  | some z => s3.beginRelease e z

/-- One pass over the queue as it stands, oldest first (R45, R46). -/
def State.scan (s : State) : State := s.queue.foldl (fun s e => if s.grantable e then s.grant e else s) s

/-- Scans while one is due; each that makes one due again has granted an entry, so the queue's length bounds them. -/
def State.scans : Nat → State → State
  | 0, s => s
  | n + 1, s =>
    if s.ev.scanDue then State.scans n ((s.modEv fun e => { e with scanDue := false }).scan) else s

/-! ### The end of an event -/

/-- Charges of inhibited sections are aborted (R87, R93, R157), section 0 first by the model's choice (log 39). -/
def State.abortInhibited (s : State) : State :=
  [0, 1].foldl (fun s k => if s.inhibited k then s.abortCharge k .inhibited else s) s

/-- Nothing is left set aside but what waits for a reset's response (R181). -/
def State.clearEv (s : State) : State := { s with ev := { Ev.none with holdNotices := s.ev.holdNotices } }

/-- What follows an event taken from `s0` to `s` (log 7). -/
def State.settle (s0 s : State) : State :=
  let s1 := (State.edges s0 s).evalUserHolds.abortInhibited
  (State.scans (s1.queue.length + 1) s1).settleBerths.driveLines

/-- One event: it is taken whole, and what follows from it is settled. -/
def State.event (f : State → State) (s : State) : State := (State.settle s (f s)).clearEv

/-- One event at moment `t`, as the outcome of a command. -/
def State.command (s : State) (t : Nat) (f : State → State) : Host.Outcome State Fault Refusal :=
  .next (State.event f (s.at_ t))

end Sys2Proof.Machine
end

