-- ==== Sys2Proof/Machine/Measuring.lean ====
section
/-! DEFINITION. Launch sequencers from READY to IDLE: firing, measuring, cooldown and booster records (R86 to R92). -/

namespace Sys2Proof.Machine

/-- Cooldown ends: the sequencer is IDLE and the arbiter scans (R91). -/
def State.cooldownEnd (s : State) (k : Nat) : State := (s.putSeq k .idle).scanWanted

/-- The sequencer goes to COOLDOWN, through it at once when the cooldown is 0 (R89 to R91). -/
def State.cooldownStart (s : State) (k : Nat) (e : LaunchEntry) : State :=
  let s1 := s.modSeq k fun q => { q with state := .cooldown, held := none, cooldown := some s.now }
  if e.cooldown = 0 then s1.cooldownEnd k else s1

/-- Classification of a launch speed against a target and a tolerance (R89). -/
def classify (target tolerance v : Nat) : LaunchResult :=
  if v < target * (100 - tolerance) / 100 then .weak
  else if target * (100 + tolerance) / 100 < v then .strong
  else .normal

/-- A launch ends with a speed (R89). -/
def State.launchSpeed (s : State) (k : Nat) (e : LaunchEntry) (v : Nat) : State :=
  let q := s.seqS k
  let i := q.band.getD 0
  let target := s.bandTarget k i
  let result := classify target e.tolerance v
  let s1 := s.notice (.launchResult k (q.boat.getD 0) i target (some v) result)
  (if result = .strong then s1.askHold .launch else s1).cooldownStart k e

/-- A launch ends without a speed (R90). -/
def State.launchNone (s : State) (k : Nat) (e : LaunchEntry) : State :=
  let q := s.seqS k
  let i := q.band.getD 0
  (s.notice (.launchResult k (q.boat.getD 0) i (s.bandTarget k i) none .none)).cooldownStart k e

/-- The path of a boat; empty for a boat that is not in the register (log 30). -/
def State.pathOf (s : State) (b : Nat) : List Nat := ((s.boatR b).map Boat.path).getD []

/-- The trap computer hands section `k` a speed (R89). -/
def State.takeSpeed (s : State) (k v : Nat) : State :=
  match s.launchE k with
  | none => s
  | some e =>
    match (s.seqS k).state with
    | .firing => s.modSeq k fun q => { q with held := some v }
    | .measuring => s.launchSpeed k e v
    | .idle => s
    | .charging => s
    | .cooldown => s

/-- What follows an entry to MEASURING: a held speed is classified, or an empty path ends the launch (R88). -/
def State.measure (s : State) (k : Nat) (e : LaunchEntry) : State :=
  let q := s.seqS k
  match q.held with
  | some v => s.launchSpeed k e v
  | none => if s.pathOf (q.boat.getD 0) = [] then s.launchNone k e else s

/-- A launch in MEASURING whose boat's path has just become empty ends without a speed (R90), in whichever zone that happens:
for a boat granted onward before DONE this is the model's choice (log 40). -/
def State.launchArrived (s : State) (k b : Nat) : State :=
  match s.launchE k with
  | none => s
  | some e => if (s.seqS k).state = .measuring ∧ (s.seqS k).boat = some b then s.launchNone k e else s

/-- The launch zone's watch starts when the launching boat still occupies it (R34, R88, R92). -/
def State.launchReleased (s : State) (k : Nat) (e : LaunchEntry) : State :=
  if (s.seqS k).boat.isSome ∧ s.occupant e.zone = (s.seqS k).boat then s.startWatch e.zone else s

/-- The defined section whose booster actuator has a node and actuator number (R82). -/
def State.sectionOfBooster (s : State) (n num : Nat) : Option Nat :=
  [0, 1].find? fun k => (s.launchE k).any fun e => (s.authE e.booster).any fun a => a.node == n && a.num == num

/-- The section a BOOSTER record matches. -/
def State.boosterMatch (s : State) (src num : Nat) : Option Nat :=
  (s.nodeOfAddress src).bind fun n => s.sectionOfBooster n num

/-- The four re-checks at READY, the first that fails (R86). -/
def State.recheck (s : State) (k : Nat) (e : LaunchEntry) : Option AbortReason :=
  let b := (s.seqS k).boat.getD 0
  let latch := match s.berthOfZone e.zone with
    | none => false
    | some (n, _) => (s.berthS n).latch
  let holds := (s.boatR b).any fun x => x.state == .granted && x.path.all fun z => (s.zst z).reserved == some b
  let brakes := (s.boatR b).any fun x => x.weight.any fun w => s.predictBand k ((s.seqS k).band.getD 0) w
  if s.mode ≠ .run then some .mode
  else if !latch then some .latchOpen
  else if !holds then some .reservation
  else if !brakes then some .brakeCapacity
  else none

/-- FIRE is sent (R86). -/
def State.fire (s : State) (k : Nat) (e : LaunchEntry) : State :=
  ((s.modSeq k fun q => { q with state := .firing, charge := none, done := some s.now }).hand e.booster .boosterFire).pulse
    (.launchFired k)

/-- A READY record is taken (R86, R92). -/
def State.takeReady (s : State) (src num : Nat) : State :=
  match s.boosterMatch src num with
  | none => s.bump .unmatchedBooster
  | some k =>
    match s.launchE k with
    | none => s
    | some e =>
      match (s.seqS k).state with
      | .charging =>
        (match s.recheck k e with
        | some reason => s.launchAbort k reason
        | none => s.fire k e)
      | .idle => s.bump .staleBooster
      | .firing => s.bump .staleBooster
      | .measuring => s.bump .staleBooster
      | .cooldown => s.bump .staleBooster

/-- A DONE in CHARGING: firing without FIRE (R92). -/
def State.uncommanded (s : State) (k : Nat) (e : LaunchEntry) : State :=
  let s1 := (s.modSeq k fun q => { q with state := .measuring, charge := none }).hand e.booster .boosterSafe
  ((s1.notice (.boosterFault k ((s.seqS k).boat.getD 0) .uncommanded)).askHold .launch).launchReleased k e

/-- A DONE record is taken (R88, R92). -/
def State.takeDone (s : State) (src num : Nat) : State :=
  match s.boosterMatch src num with
  | none => s.bump .unmatchedBooster
  | some k =>
    match s.launchE k with
    | none => s
    | some e =>
      match (s.seqS k).state with
      | .firing =>
        ((s.modSeq k fun q => { q with state := .measuring, done := none }).launchReleased k e).measure k e
      | .charging => s.uncommanded k e
      | .idle => s.bump .staleBooster
      | .measuring => s.bump .staleBooster
      | .cooldown => s.bump .staleBooster

/-- A timer that started at `start` has run for its duration (R26, R36; log 2). -/
def State.due (s : State) (start : Option Nat) (duration : Nat) : Bool := start.any fun t => t + duration ≤ s.now

/-- The charge timer of section `k` expires (R87). -/
def State.chargeExpiry (s : State) (k : Nat) : State :=
  match s.launchE k with
  | none => s
  | some e => if s.due (s.seqS k).charge e.charge then s.abortCharge k .chargeTimeout else s

/-- The DONE timer of section `k` expires in FIRING (R88). -/
def State.doneExpiry (s : State) (k : Nat) : State :=
  match s.launchE k with
  | none => s
  | some e =>
    if (s.seqS k).state = .firing ∧ s.due (s.seqS k).done Config.doneTime = true then
      let s1 := (s.modSeq k fun q => { q with state := .measuring, done := none }).hand e.booster .boosterSafe
      let s2 := (s1.notice (.boosterFault k ((s.seqS k).boat.getD 0) .doneTimeout)).askHold .launch
      (s2.launchReleased k e).measure k e
    else s

/-- The cooldown of section `k` expires (R91). -/
def State.cooldownExpiry (s : State) (k : Nat) : State :=
  match s.launchE k with
  | none => s
  | some e =>
    if (s.seqS k).state = .cooldown ∧ s.due (s.seqS k).cooldown e.cooldown = true then s.cooldownEnd k else s

/-- BOOSTER_READY (R86). -/
def execBoosterReady (t src num : Nat) (s : State) : Host.Outcome State Fault Refusal :=
  s.command t fun s => s.takeReady src num
/-- BOOSTER_DONE (R88). -/
def execBoosterDone (t src num : Nat) (s : State) : Host.Outcome State Fault Refusal :=
  s.command t fun s => s.takeDone src num
/-- CHARGE_TIMER_EXPIRY (R87). -/
def execChargeTimerExpiry (t k : Nat) (s : State) : Host.Outcome State Fault Refusal :=
  s.command t fun s => s.chargeExpiry k
/-- DONE_TIMER_EXPIRY (R88). -/
def execDoneTimerExpiry (t k : Nat) (s : State) : Host.Outcome State Fault Refusal :=
  s.command t fun s => s.doneExpiry k
/-- COOLDOWN_EXPIRY (R91). -/
def execCooldownExpiry (t k : Nat) (s : State) : Host.Outcome State Fault Refusal :=
  s.command t fun s => s.cooldownExpiry k

end Sys2Proof.Machine
end

