-- ==== Sys2Proof/Machine/Press.lean ====
section
/-! DEFINITION. Records of a berth node: BERTH, WEIGHT and TAG (R38, R64 to R78). -/

namespace Sys2Proof.Machine

/-- The defined berth whose node field names node `n`, the only one by R60 (R64). -/
def State.berthOfNode (s : State) (n : Nat) : Option (Nat × BerthEntry) :=
  (List.range 6).findSome? fun b => (s.berthE b).bind fun e => if e.node = n then some (b, e) else none

/-- The berth of a line address. -/
def State.berthOfSource (s : State) (src : Nat) : Option (Nat × BerthEntry) :=
  (s.nodeOfAddress src).bind s.berthOfNode

/-! ### Presses (R68 to R70) -/

/-- Lamp BLINK in the state as it is. -/
def State.berthBlink (s : State) (b : Nat) : State := s.setBerth b fun q => { q with lamp := .blink }

/-- The outcome of a berth's request is returned to it (R69). -/
def State.berthAnswer (s : State) (b n : Nat) (a : Answer) : State :=
  match a with
  | .accepted => s.setBerth b fun q => { q with state := .requested, lamp := .blink }
  | .refused => s.berthBlink b
  | .ignored =>
    if (s.boatR n).any fun x => x.state == .granted then s.setBerth b fun q => { q with state := .released, lamp := .on }
    else s.setBerth b fun q => { q with state := .requested, lamp := .blink }

/-- A press that is taken hands the request for the zone's occupant (R69). -/
def State.pressRequest (s : State) (b n : Nat) : State :=
  let p := s.request n
  p.1.berthAnswer b n p.2

/-- A press that is taken at a PAD runs the pre-checks first (R70, R83; a zone without a defined section: log 21). -/
def State.padPress (s : State) (b n : Nat) (e : BerthEntry) : State :=
  match s.sectionOfZone e.zone, s.boatR n with
  | some k, some x =>
    if (s.launchE k).isNone then s.berthBlink b
    else
      match s.preCheck k x with
      | .error reason => (s.notice (.launchRefused k n reason)).berthBlink b
      | .ok i => (s.modBoat n fun x => { x with band := some (k, i) }).pressRequest b n
  | _, _ => s.berthBlink b

/-- A press is taken in SECURED with the lock confirmed (R68). In a zone without an occupant no request can be made, and the
lamp blinks as after a refusal: the model's choice (log 21). -/
def State.takePress (s : State) (b : Nat) (e : BerthEntry) : State :=
  match s.occupant e.zone with
  | none => s.berthBlink b
  | some n => if e.role = .pad then s.padPress b n e else s.pressRequest b n

/-- A pending press is taken once the berth is SECURED with the lock confirmed (R68). -/
def State.takePending (s : State) (b : Nat) : State :=
  match s.berthE b with
  | none => s
  | some e =>
    let q := s.berthS b
    if q.pending = true ∧ q.state = .secured ∧ s.lockConfirmed e = true then
      (s.setBerth b fun q => { q with pending := false }).takePress b e
    else s

/-- A button press edge: its pulse, and its treatment by the state the berth is in when the press is reached (R64, R68),
whatever the pulse does (log 39). -/
def State.pressEdge (s : State) (b : Nat) (e : BerthEntry) : State :=
  let s1 := s.pulse (.berthButton b)
  let q := s.berthS b
  match q.state with
  | .secured => if s1.lockConfirmed e then s1.takePress b e else s1.setBerth b fun q => { q with pending := true }
  | .occupied => if q.latch then s1.setBerth b fun q => { q with pending := true } else s1
  | .empty => s1
  | .requested => s1
  | .released => s1
  | .fault => s1

/-! ### Presence and latch (R66, R67, R71 to R75) -/

/-- A BERTH_ALARM notice (R73, R74). -/
def State.berthAlarm (s : State) (b : Nat) (e : BerthEntry) (reason : AlarmReason) : State :=
  s.notice (.berthAlarm b e.zone reason)

/-- Presence is lost in OCCUPIED, SECURED or REQUESTED (R74). -/
def State.presenceLost (s : State) (b : Nat) (e : BerthEntry) : State :=
  (((s.berthFault b .presenceLost).berthAlarm b e .presenceLost).askHold .berth)

/-- A presence edge to `x` (R66, R68, R72, R74, R75). -/
def State.presenceEdge (s : State) (b : Nat) (e : BerthEntry) (x : Bool) : State :=
  let s1 := s.setBerth b fun q => { q with presence := x, pending := q.pending && x }
  if x then s1.berthArrive b
  else
    match (s.berthS b).state with
    | .occupied => s1.presenceLost b e
    | .secured => s1.presenceLost b e
    | .requested => s1.presenceLost b e
    | .empty => s1
    | .released => s1
    | .fault => s1

/-- The sequencer of the berth's launch section is told of a latch opening in RELEASED (R73, R87). -/
def State.latchToSequencer (s : State) (e : BerthEntry) : State :=
  match e.role, s.sectionOfZone e.zone with
  | .pad, some k => s.abortCharge k .latchOpen
  | _, _ => s

/-- A charge is in progress at the berth's launch section. -/
def State.chargingAt (s : State) (e : BerthEntry) : Bool :=
  match e.role, s.sectionOfZone e.zone with
  | .pad, some k => (s.seqS k).state == .charging
  | _, _ => false

/-- A latch opening in RELEASED: the alarm, then STOP and the sequencer in either order (R73, R87): with a charge in
progress which comes first is a free choice (log 9). R73 names the request for STOP before the alarm, its worked example after it:
the alarm first is the model's choice (log 39). -/
def State.latchOpenReleased (s : State) (b : Nat) (e : BerthEntry) : State :=
  let s1 := s.berthAlarm b e .latchOpen
  if !s1.chargingAt e then s1.askStop .berth
  else if s1.freeBool then (s1.useFree.latchToSequencer e).askStop .berth
  else (s1.useFree.askStop .berth).latchToSequencer e

/-- OCCUPIED after a latch opening (R71). -/
def State.berthUnsecured (s : State) (b : Nat) (e : BerthEntry) : State :=
  s.setBerth b fun q => { q with state := .occupied, lamp := .off, lock := e.role.lockFor false }

/-- A latch edge to open (R67, R68, R71, R73). -/
def State.latchOpened (s : State) (b : Nat) (e : BerthEntry) : State :=
  let s1 := s.setBerth b fun q => { q with latch := false, pending := false }
  match (s.berthS b).state with
  | .occupied => s1.setBerth b fun q => { q with lock := e.role.lockFor false }
  | .secured => s1.berthUnsecured b e
  | .requested =>
    (match s1.occupant e.zone with
    | none => s1
    | some n => s1.withdraw n).berthUnsecured b e
  | .released => s1.latchOpenReleased b e
  | .empty => s1
  | .fault => s1

/-- A latch edge to closed (R67). -/
def State.latchClosed (s : State) (b : Nat) : State :=
  let s1 := s.setBerth b fun q => { q with latch := true }
  if (s.berthS b).state = .occupied then (s1.setBerth b fun q => { q with lock := .lock }).trySecure b else s1

/-- A latch edge to `x`. -/
def State.latchEdge (s : State) (b : Nat) (e : BerthEntry) (x : Bool) : State :=
  if x then s.latchClosed b else s.latchOpened b e

/-- A BERTH record: presence, latch, button, in that order (R64). -/
def State.takeBerth (s : State) (src : Nat) (presence latch button : Bool) : State :=
  match s.berthOfSource src with
  | none => s.bump .unmatchedBerth
  | some (b, e) =>
    let s1 := if (s.berthS b).presence = presence then s.touch b else (s.touch b).presenceEdge b e presence
    let s2 := if (s1.berthS b).latch = latch then s1 else s1.latchEdge b e latch
    if button then s2.pressEdge b e else s2

/-! ### Weight and tag (R38, R75, R77, R78) -/

/-- A weight clamped to 0 to 4095 kg (R78). -/
def clampWeight (kg : Int) : Nat := (clampInt 0 4095 kg).toNat

/-- A settled weight is captured (R78). -/
def State.captureWeight (s : State) (b : Nat) (e : BerthEntry) (w : Nat) : State :=
  let s1 := s.setBerth b fun q => { q with weight := some w }
  if (s.berthS b).state = .secured then
    (match s1.occupant e.zone with
    | none => s1
    | some n => s1.modBoat n fun x => { x with weight := some w })
  else s1

/-- A WEIGHT record (R77). -/
def State.takeWeight (s : State) (src scale : Nat) (kg : Int) (settled : Bool) : State :=
  match s.berthOfSource src with
  | none => s.bump .unmatchedBerth
  | some (b, e) =>
    if e.role ≠ .pad ∨ e.scale ≠ some scale then s.bump .unmatchedBerth
    else if settled then s.captureWeight b e (clampWeight kg)
    else s

/-- A tag check fails (R38, R75). -/
def State.tagFailed (s : State) (b : Nat) (e : BerthEntry) (number : Nat) : State :=
  (((s.berthFault b .tag).raiseFault e.zone .unexpected).notice
    (.tagMismatch b e.zone number (s.occupant e.zone))).askHold .tag

/-- A TAG record (R38, R185). -/
def State.takeTag (s : State) (src reader number : Nat) : State :=
  match s.berthOfSource src with
  | none => s
  | some (b, e) =>
    if e.role ≠ .unload then s
    else if e.reader ≠ some reader then s.bump .unmatchedBerth
    else if s.occupant e.zone = some number then s.touch b
    else s.tagFailed b e number

/-- BERTH (R64). -/
def execBerth (t src : Nat) (presence latch button : Bool) (s : State) : Host.Outcome State Fault Refusal :=
  s.command t fun s => s.takeBerth src presence latch button
/-- WEIGHT (R77). -/
def execWeight (t src scale : Nat) (kg : Int) (settled : Bool) (s : State) : Host.Outcome State Fault Refusal :=
  s.command t fun s => s.takeWeight src scale kg settled
/-- TAG (R38). -/
def execTag (t src reader number : Nat) (s : State) : Host.Outcome State Fault Refusal :=
  s.command t fun s => s.takeTag src reader number

end Sys2Proof.Machine
end

