-- ==== Sys2Proof/Machine/Passages.lean ====
section
/-! DEFINITION. MARKER records and passages, the zone watch, and the records that place, retire and route boats (chapter 2). -/

namespace Sys2Proof.Machine

/-- The defined zone whose entry marker is a sensor of a node, the only one by R5 (R25). -/
def State.zoneOfMarker (s : State) (n sensor : Nat) : Option Nat :=
  (s.definedZones.find? fun p => p.2.markerNode == n && p.2.markerSensor == sensor).map (·.1)

/-- The first passage of a GRANTED boat is reported to path reservation (R32, R54, R87). -/
def State.firstPassage (s : State) (b y : Nat) : State :=
  let s1 := s.putRel b none
  match s1.zoneE y with
  | none => s1
  | some e =>
    match e.kind, e.sec with
    | .launch, some k => s1.launchDeparted k b
    | _, _ =>
      match e.gate with
      | none => s1
      | some a => s1.hand a .gateClose

/-- The trip fields become absent on entry into a BERTH zone (R33). -/
def State.clearTrip (s : State) (b z : Nat) : State :=
  if (s.zoneE z).any fun e => e.kind == .berth then
    s.modBoat b fun x => { x with weight := none, lastSpeed := none, band := none, stageCount := none }
  else s

/-- A zone of a path passed unreported: its reservation goes, MISSED is raised and sent (R28). -/
def State.skipZone (s : State) (b z : Nat) : State :=
  ((s.unreserve z).raiseFault z .missed).notice (.missed z b)

/-- Boat `b` of record `x` enters zone `z`, which `rest` follows on its path: zones, record and watch (R27, R28). -/
def State.moveBoat (s : State) (b z : Nat) (x : Boat) (rest : List Nat) : State :=
  let s1 := s.modZs x.zone fun q => { q with occupant := none, watch := none }
  let s2 := s1.modZs z fun q => { q with reserved := none, occupant := some b }
  let s3 := s2.modBoat b fun x =>
    { x with path := rest, zone := z, entryTime := s.now, state := if rest = [] then .waiting else .moving }
  if s3.stoppable z then s3 else s3.startWatch z

/-- What an entry hands on (R24, R32, R33, R90). `skip` says that markers were missed (R28). R32 gives the reports no order, and
R28, R90 and R24 put theirs in none with them: the first passage, the request for HOLD, the berths, the brake run, the PASSAGE
pulse, the launch's end and the automatic request follow one another in this order by the model's choice (log 39). -/
def State.handEntry (s : State) (b y z : Nat) (granted arrived skip : Bool) : State :=
  let s1 := (if granted then s.firstPassage b y else s).clearTrip b z
  let s2 := if skip then s1.askHold .passage else s1
  let s3 := ((s2.toBerth y State.berthLeft).toBerth z State.berthArrive).runLeft y
  let s4 := s3.pulse (.passage z)
  if arrived then ((s4.launchArrived 0 b).launchArrived 1 b).autoRequest b else s4

/-- A passage matched by case 1 or 2: boat `b` enters `z` (R27, R28). R28 gives several skipped zones no order: their MISSED
faults and notices go zone by zone in path order by the model's choice (log 39). -/
def State.enter (s : State) (b z : Nat) (x : Boat) : State :=
  let skipped := x.path.takeWhile (· != z)
  let rest := (x.path.dropWhile (· != z)).drop 1
  let s1 := skipped.foldl (fun s w => s.skipZone b w) s
  (s1.moveBoat b z x rest).handEntry b x.zone z (x.state == .granted) rest.isEmpty !skipped.isEmpty

/-- A second boat at an occupied zone (R30). R30 and R32 give the pulse no place: after the request for STOP is the model's choice
(log 39). -/
def State.doublePassage (s : State) (z b : Nat) : State :=
  ((((s.raiseFault z .double).notice (.double z (some b))).askStop .passage).pulse (.passage z))

/-- A passage with no boat expected (R31). R31 and R32 give the pulse no place: after the request for HOLD is the model's choice
(log 39). -/
def State.unexpectedPassage (s : State) (z : Nat) : State :=
  ((((s.raiseFault z .unexpected).notice (.unexpectedPassage z)).askHold .passage).pulse (.passage z))

/-- A BLOCKED edge at zone `z` is matched (R26). -/
def State.passage (s : State) (z : Nat) : State :=
  match (s.zst z).reserved, s.occupant z with
  | some b, _ =>
    (match s.boatR b with
    | none => s
    | some x => if x.path.contains z then s.enter b z x else s)
  | none, some b =>
    (match s.boatR b with
    | none => s
    | some x => if s.now - x.entryTime < Config.repeatWindow then s.bump .markerRepeat else s.doublePassage z b)
  | none, none => s.unexpectedPassage z

/-- A MARKER record (R25, R185). -/
def State.takeMarker (s : State) (src sensor edge : Nat) : State :=
  if 7 < sensor then s.bump .malformed
  else if 1 < edge then s.bump .malformed
  else if edge = 1 then s
  else
    match (s.nodeOfAddress src).bind fun n => s.zoneOfMarker n sensor with
    | none => s.bump .unknownMarker
    | some z => s.passage z

/-- The watch of zone `z` expires (R36). -/
def State.watchExpired (s : State) (z : Nat) : State :=
  let occupant := s.occupant z
  let s1 := s.stopWatch z
  let s2 := match occupant with
    | none => s1
    | some b => s1.modBoat b fun x => { x with overdue := true }
  ((s2.raiseFault z .overdue).notice (.overdue z occupant)).askHold .watch

/-- The watch of zone `z` reaches its transit limit, or nothing happens (R36, log 2). -/
def State.watchExpiry (s : State) (z : Nat) : State :=
  match s.zoneE z with
  | none => s
  | some e => if s.due (s.zst z).watch e.transit then s.watchExpired z else s

/-! ### Boats placed, retired and routed (R21 to R23) -/

/-- The result of PLACE_BOAT, by the first condition that applies (R21). -/
def State.placeResult (s : State) (boat cls zone route : Nat) : Code :=
  match s.mode with
  | .checking => .busy
  | .run => .mode
  | .hold => .mode
  | .stop => .mode
  | .config =>
    if boat < 1 ∨ 24 < boat ∨ 3 < cls ∨ 1 < route ∨ 63 < zone then .value
    else if !s.stoppable zone then .value
    else if (s.boatR boat).isSome then .conflict
    else if (s.occupant zone).isSome ∨ (s.zst zone).reserved.isSome then .conflict
    else .ok

/-- A new boat record (R21). -/
def Boat.placed (cls zone : Nat) (route : Route) (now : Nat) : Boat :=
  ⟨cls, route, zone, .waiting, false, [], none, none, none, none, now⟩

/-- PLACE_BOAT (R21). -/
def State.placeBoat (s : State) (boat cls zone route : Nat) : State × Code :=
  let code := s.placeResult boat cls zone route
  if code ≠ .ok then (s, code)
  else
    (((s.putBoat boat (some (Boat.placed cls zone ((Route.ofCode route).getD .main) s.now))).modZs zone fun q =>
      { q with occupant := some boat }).toBerth zone State.berthArrive, .ok)

/-- The result of RETIRE_BOAT, by the first condition that applies (R22). -/
def State.retireResult (s : State) (boat : Nat) : Code :=
  match s.mode with
  | .checking => .busy
  | .run => .mode
  | .stop => .mode
  | .config => (match s.boatR boat with
    | none => .value
    | some x => if x.state = .waiting then .ok else .conflict)
  | .hold => (match s.boatR boat with
    | none => .value
    | some x => if x.state = .waiting then .ok else .conflict)

/-- RETIRE_BOAT (R22). -/
def State.retireBoat (s : State) (boat : Nat) : State × Code :=
  let code := s.retireResult boat
  match s.boatR boat with
  | none => (s, code)
  | some x =>
    if code ≠ .ok then (s, code)
    else
      let s1 := (s.modZs x.zone fun q => { q with occupant := none, watch := none }).putBoat boat none
      ((s1.toBerth x.zone State.berthRetired).runLeft x.zone, .ok)

/-- SET_ROUTE (R23). -/
def State.setRoute (s : State) (boat route : Nat) : State × Code :=
  match s.boatR boat, Route.ofCode route with
  | some _, some r => (s.modBoat boat fun x => { x with route := r }, .ok)
  | _, _ => (s, .value)

/-- CLEAR_ZONE of a defined zone (R15). -/
def State.clearDefined (s : State) (z : Nat) : State :=
  let s1 := s.modZs z fun q => { q with fault := none, latch := false }
  let s2 := match (s1.occupant z).bind fun b => (s1.boatR b).map fun x => (b, x) with
    | none => s1
    | some (b, x) => if x.overdue then (s1.modBoat b fun x => { x with overdue := false }).startWatch z else s1
  s2.toBerth z State.berthCleared

/-- CLEAR_ZONE (R15). -/
def State.clearZone (s : State) (z : Nat) : State × Code :=
  if (s.zoneE z).isNone then (s, .value) else (s.clearDefined z, .ok)

/-- MARKER (R25). -/
def execMarker (t src sensor edge : Nat) (s : State) : Host.Outcome State Fault Refusal :=
  s.command t fun s => s.takeMarker src sensor edge
/-- WATCH_EXPIRY (R36). -/
def execWatchExpiry (t z : Nat) (s : State) : Host.Outcome State Fault Refusal :=
  s.command t fun s => s.watchExpiry z

end Sys2Proof.Machine
end

