-- ==== Sys2Proof/Machine/Traps.lean ====
section
/-! DEFINITION. TRAP records: speeds, the speed limit, hand-on, and the stage selection of a brake run (R97 to R100, R107,
R108, R110). -/

namespace Sys2Proof.Machine

/-- The defined trap of a node and trap pair, the only one by R96 (R97). -/
def State.trapOf (s : State) (n pair : Nat) : Option (Nat × TrapEntry) :=
  (List.range 8).findSome? fun i => (s.trapE i).bind fun e => if e.node = n ∧ e.pair = pair then some (i, e) else none

/-- The boat of a report: the occupant of the trap's zone, else its reservation holder (R100). -/
def State.trapBoat (s : State) (z : Nat) : Option Nat :=
  match s.occupant z with
  | some b => some b
  | none => (s.zst z).reserved

/-- The speed-limit check of a report for boat `who` (R99). -/
def State.limitCheck (s : State) (who : Option Nat) (i : Nat) (e : TrapEntry) (v : Nat) : State :=
  match (s.zoneE e.zone).bind fun z => z.speedLimit with
  | none => s
  | some limit =>
    if limit < v then (s.notice (.overspeedLimit i e.zone who v limit)).askHold .trap else s

/-- A boat's last speed is recorded (R100). -/
def State.recordSpeed (s : State) (b : Option Nat) (v i : Nat) : State :=
  match b with
  | none => s
  | some b => s.modBoat b fun x => { x with lastSpeed := some (v, i) }

/-- The sections whose launch trap is trap `i` take a speed (R100). -/
def State.toLaunches (s : State) (i v : Nat) : State :=
  [0, 1].foldl (fun s k => if (s.launchE k).any fun e => e.trap == i then s.takeSpeed k v else s) s

/-- The stage count is chosen: fins, status, boat record and pulse (R107, R108). The notice is the caller's. -/
def State.setRun (s : State) (r : Nat) (e : RunEntry) (b k : Nat) : State :=
  (((s.setFins r e.stages k).modRun r fun q => { q with state := .set, boat := some b, count := some k }).modBoat b
    fun x => { x with stageCount := some (r, k) })

/-- The stage count of a measured report (R107, R108). -/
def State.chosenCount (s : State) (r : Nat) (e : RunEntry) (force v : Nat) : Nat :=
  if s.mode.fullBrake || decide (e.maxEntry < v) then e.stages else (s.stageCount? r e force).getD e.stages

/-- A request for HOLD when a condition holds. -/
def State.holdIf (s : State) (c : Bool) (b : Block) : State := if c then s.askHold b else s
/-- A notice when a condition holds. -/
def State.noticeIf (s : State) (c : Bool) (n : Notice) : State := if c then s.notice n else s

/-- A selection for boat `b` of record `x` from a measured speed (R107, R108; order of its notices: log 33). -/
def State.select (s : State) (r : Nat) (e : RunEntry) (b : Nat) (x : Boat) (i v : Nat) : State :=
  let force := e.required (s.massOf e x) v
  let sum := s.capacity r e.stages
  let k := s.chosenCount r e force v
  let fast := decide (e.maxEntry < v)
  let short := decide (sum < force)
  let s1 := (s.noticeIf fast (.overspeedEntry r b i v e.maxEntry)).noticeIf short (.brakeShortfall r b force sum)
  let s2 := ((s1.setRun r e b k).notice (.brakeSet r b i v force k)).pulse (.brakeSet r)
  s2.holdIf (fast || short) .trap

/-- A selection for boat `b` from an interval of 0 (R98, R108). -/
def State.selectInvalid (s : State) (r : Nat) (e : RunEntry) (b i : Nat) : State :=
  ((s.notice (.trapInvalid i r b)).setRun r e b e.stages).pulse (.brakeSet r)

/-- The boat a BRAKE report at run `r` is for; none for an unexpected report (R110). -/
def State.reportBoat (s : State) (r : Nat) (e : RunEntry) : Option Nat :=
  match s.occupant e.zone with
  | none => none
  | some b => if (s.runS r).state = .set ∧ (s.runS r).boat ≠ some b then none else some b

/-- An unexpected trap report (R110). -/
def State.unexpectedTrap (s : State) (e : RunEntry) (i : Nat) : State :=
  ((s.raiseFault e.zone .unexpected).notice (.unexpectedTrap e.zone i)).askHold .trap

/-- A BRAKE report at run `r`, of boat `who` by R100: with a speed, or with none for an interval of 0 (R98, R110; last speed:
log 20). -/
def State.brakeReport (s : State) (r : Nat) (e : RunEntry) (i : Nat) (who v : Option Nat) : State :=
  match s.reportBoat r e with
  | none => s.unexpectedTrap e i
  | some b =>
    match v with
    | none => s.selectInvalid r e b i
    | some v =>
      let s1 := s.recordSpeed who v i
      match s1.boatR b with
      | none => s1
      | some x => s1.select r e b x i v

/-- The brake run that takes the trap's reports: a BRAKE trap whose run is defined (R100). -/
def State.brakeOf (s : State) (e : TrapEntry) : Option (Nat × RunEntry) :=
  match e.use, e.run with
  | .brake, some r => (s.runE r).map fun x => (r, x)
  | _, _ => none

/-- The speed of a report of boat `who` is handed on (R100). -/
def State.handSpeed (s : State) (who : Option Nat) (i : Nat) (e : TrapEntry) (v : Nat) : State :=
  match s.brakeOf e with
  | some (r, x) => s.brakeReport r x i who (some v)
  | none =>
    let s1 := s.recordSpeed who v i
    if e.use = .launch then s1.toLaunches i v else s1

/-- An interval of 0 (R98). -/
def State.zeroInterval (s : State) (who : Option Nat) (i : Nat) (e : TrapEntry) : State :=
  let s1 := s.bump .malformed
  match s1.brakeOf e with
  | some (r, x) => s1.brakeReport r x i who none
  | none => s1

/-- A matched TRAP record (R97 to R100). The report's boat is the one the record finds, whatever its pulse and its request for
HOLD do to the reservation (log 39). -/
def State.matchedTrap (s : State) (i : Nat) (e : TrapEntry) (interval : Nat) : State :=
  let who := s.trapBoat e.zone
  let s1 := s.pulse (.trapDone i)
  if interval = 0 then s1.zeroInterval who i e
  else
    let v := speedOf e.spacing interval
    (s1.limitCheck who i e v).handSpeed who i e v

/-- A TRAP record (R97). -/
def State.takeTrap (s : State) (src pair interval : Nat) : State :=
  if 1 < pair then s.bump .malformed
  else
    match (s.nodeOfAddress src).bind fun n => s.trapOf n pair with
    | none => s.bump .unmatchedTrap
    | some (i, e) => s.matchedTrap i e interval

/-- TRAP (R97). -/
def execTrap (t src pair interval : Nat) (s : State) : Host.Outcome State Fault Refusal :=
  s.command t fun s => s.takeTrap src pair interval

end Sys2Proof.Machine
end

