-- ==== Sys2Proof/Machine/Roster.lean ====
section
/-! DEFINITION. The node roster and the actuator unit's acknowledgements: changes of roster state, joins, silence, completed
and failed commands (R118 to R122, R130 to R134). -/

namespace Sys2Proof.Machine

/-! ### Changes of roster state (R122, R133) -/

/-- The throws waiting on an actuator of a node fail (R53, R122), in ascending authority index and then boat number: the order
among several is the model's choice (log 39). -/
def State.failThrowsOn (s : State) (n : Nat) : State :=
  (List.range 64).foldl (fun s a => if s.actNode a = some n then s.failThrows a else s) s

/-- A closed or failed list entry is reported to its owner (R131, R133): a brake run clears an ENGAGE's flag, a switch throw
fails; the others change nothing. -/
def State.reportFailed (s : State) (e : CmdEntry) : State :=
  match e.value with
  | .finEngage => s.finSettled e.act
  | .switchMain => s.failThrows e.act
  | .switchAlt => s.failThrows e.act
  | _ => s

/-- The list entries of a node are closed (R133), and reported in list order by the model's choice (log 39). -/
def State.closeEntries (s : State) (n : Nat) : State :=
  let closed := s.cmds.filter fun e => s.actNode e.act == some n
  closed.foldl State.reportFailed { s with cmds := s.cmds.filter fun e => s.actNode e.act != some n }

/-- The reports of a change of a node's roster state (R122), in the order of R122's table by the model's choice
(log 39); the NODE_ACTIVE level's edge follows at the end of the event (log 7). -/
def State.reportRoster (s : State) (n : Nat) (old new : Roster) : State :=
  if old = new then s
  else
    let s1 := s.evalNodeHolds n
    let s2 := if old = .active then (s1.failThrowsOn n).abortChargesOn n else s1
    if old.present && !new.present then s2.closeEntries n else s2

/-- A NODE_STATE notice when the raising rule sends one (R120, R121, R131). -/
def State.nodeNotice (s : State) (n : Nat) (new : Roster) (reason : Option NodeReason) : State :=
  match reason with
  | none => s
  | some r => s.notice (.nodeState n new r)

/-- A node's roster state changes: its join timer stops, the notice is sent and the reports follow (R120 to R122). A join that
begins again in JOINING comes through here too, so a timer that runs stops; where the LIMIT then has to wait for room it stays
stopped until the LIMIT is placed, by the model's choice (log 44). -/
def State.changeNode (s : State) (n : Nat) (new : Roster) (reason : Option NodeReason) : State :=
  ((s.modNode n fun q => { q with state := new, join := none }).nodeNotice n new reason).reportRoster n (s.nodeS n).state new

/-- HOLD is asked for an entry to LOST when the mode is RUN (R122). -/
def State.lostHold (s : State) (b : Block) : State := if s.mode = .run then s.askHold b else s

/-- A frame from node `n` has been taken: last heard moves, and a SILENT node is ACTIVE again (R118, R121). -/
def State.signOfLife (s : State) (n : Nat) : State :=
  if (s.nodeE n).isNone then s
  else
    let s1 := s.modNode n fun q => { q with lastHeard := some s.now }
    if (s.nodeS n).state = .silent then s1.changeNode n .active none else s1

/-- A frame or record from a line address is a sign of life of the node that holds it (R118). -/
def State.heard (s : State) (src : Nat) : State :=
  match s.nodeOfAddress src with
  | none => s
  | some n => s.signOfLife n

/-! ### Joining and silence (R119 to R121, R134) -/

/-- A join begins, or begins again (R120); again with the timer running and no room for the LIMIT: log 44. -/
def State.join (s : State) (n : Nat) : State := (s.changeNode n .joining none).handLimit n

/-- A HELLO record (R119, R185). -/
def State.takeHello (s : State) (src kind : Nat) : State :=
  match NodeKind.ofCode kind with
  | none => s.bump .malformed
  | some k =>
    match s.nodeOfAddress src with
    | none => s.bump .unknownNode
    | some n =>
      match s.nodeE n with
      | none => s
      | some e =>
        if e.kind ≠ k then s.notice (.nodeKindMismatch n e.address e.kind k)
        else (s.modNode n fun q => { q with localFault := false }).join n

/-- What is re-sent on a rejoin: CONTROLLER actuators of the node, and unconfirmed SHARED ones (R134). -/
def State.resendList (s : State) (n : Nat) : List (Nat × ActValue) :=
  (List.range 64).filterMap fun a => (s.authE a).bind fun e =>
    if e.node = n ∧ (e.owner = .controller ∨ (e.owner = .shared ∧ (s.actS a).confirmed = false)) then
      (s.actS a).commanded.map fun v => (a, v)
    else none

/-- A LIMIT_ACK record (R120). The re-send of R134 is the actuator unit's own and leaves a berth's completed flags as they
are: the model's choice (log 38). -/
def State.takeLimitAck (s : State) (src : Nat) : State :=
  match s.nodeOfAddress src with
  | none => s
  | some n =>
    let s1 := s.signOfLife n
    if (s1.nodeS n).state = .joining then
      let s2 := s1.changeNode n .active none
      (s2.handAll (s2.resendList n)).notice (.nodeState n .active .none)
    else s1

/-- The join timer of node `n` expires (R120). -/
def State.joinExpiry (s : State) (n : Nat) : State :=
  if (s.nodeS n).state = .joining ∧ s.due (s.nodeS n).join Config.joinTime = true then
    s.changeNode n .absent (some .joinTimeout)
  else s

/-- 60 ms without a frame (R121). -/
def State.silentExpiry (s : State) (n : Nat) : State :=
  if (s.nodeS n).state = .active ∧ s.due (s.nodeS n).lastHeard Config.silentTime = true then s.changeNode n .silent none
  else s

/-- 200 ms without a frame (R121, R122). -/
def State.lostExpiry (s : State) (n : Nat) : State :=
  if (s.nodeS n).state = .silent ∧ s.due (s.nodeS n).lastHeard Config.lostTime = true then
    (s.changeNode n .lost (some .silence)).lostHold .node
  else s

/-- A HEARTBEAT record: a sign of life, and the inputs of an AUX_NODE (R150). -/
def State.takeHeartbeat (s : State) (src : Nat) (inputs : BitVec 4) : State :=
  match s.nodeOfAddress src with
  | none => s
  | some n =>
    let s1 := s.signOfLife n
    if (s1.nodeE n).any fun e => e.kind == .aux then s1.putInputs n inputs else s1

/-! ### Acknowledgements (R130 to R132) -/

/-- The authority index of a node and actuator number, the only one by R124. -/
def State.authOf (s : State) (n num : Nat) : Option Nat :=
  (List.range 64).find? fun a => (s.authE a).any fun e => e.node == n && e.num == num

/-- The list entry that an ACK matches: node, actuator, a sent entry, its tag (R130). -/
def State.ackMatch (s : State) (src num tagNo : Nat) : Option CmdEntry :=
  ((s.nodeOfAddress src).bind fun n => s.authOf n num).bind fun a =>
    s.cmds.find? fun e => e.act == a && e.sent.isSome && e.tag == tagNo

/-- The completion of a gate OPEN confirms the release of each zone whose grant stands at its gate stage (R34, R48). -/
def State.gateOpened (s : State) (a : Nat) : State :=
  s.definedZones.foldl (fun s p =>
    if p.2.gate = some a then
      (match s.occupant p.1 with
      | none => s
      | some b => if (s.release b).any fun r => r.entry.origin == p.1 && r.stage == .gate then s.startWatch p.1 else s)
    else s) s

/-- The completion of a switch command for a throw of boat `b` (R52). -/
def State.thrown (s : State) (b : Nat) : State :=
  match s.release b with
  | none => s
  | some rel =>
    match s.mode with
    | .run =>
      (match s.zoneE rel.entry.origin with
      | none => s
      | some z => s.openGate rel.entry z)
    | .hold => s.undoGrant b
    | .config => s
    | .checking => s
    | .stop => s

/-- Lamp completed (R63). Where an unchecked table has two berths name the lamp, both are told, by the model's choice (log 43). -/
def State.lampCompleted (s : State) (a : Nat) : State :=
  (List.range 6).foldl (fun s b => if (s.berthE b).any fun e => e.lamp == a then
    s.setBerth b fun q => { q with lampDone := true } else s) s

/-- Lock completed; a LOCK may secure the berth and let a pending press be taken (R63, R67, R68). Where an unchecked table has two
berths name the lock, both are told, in ascending number, by the model's choice (log 43). -/
def State.lockCompleted (s : State) (a : Nat) : State :=
  (List.range 6).foldl (fun s b => if (s.berthE b).any fun e => e.lock == a then
    ((s.setBerth b fun q => { q with lockDone := true }).trySecure b).takePending b else s) s

/-- A completion is reported to the owner of the actuator's use (R130). -/
def State.reportDone (s : State) (e : CmdEntry) : State :=
  match e.value with
  | .gateOpen => s.gateOpened e.act
  | .gateClose => s
  | .finEngage => s.finSettled e.act
  | .finRetract => s
  | .lampOff => s.lampCompleted e.act
  | .lampOn => s.lampCompleted e.act
  | .lampBlink => s.lampCompleted e.act
  | .lockLock => s.lockCompleted e.act
  | .lockUnlock => s.lockCompleted e.act
  | .switchMain => (s.throwsOn e.act).foldl State.thrown s
  | .switchAlt => (s.throwsOn e.act).foldl State.thrown s
  | .boosterRequest _ => s
  | .boosterFire => s
  | .boosterSafe => s
  | .genericOn => s
  | .genericOff => s

/-- A list entry leaves the list. -/
def State.removeEntry (s : State) (a : Nat) : State := { s with cmds := s.cmds.filter fun e => e.act != a }

/-- A command is completed (R130). -/
def State.complete (s : State) (e : CmdEntry) : State :=
  let s1 := s.removeEntry e.act
  (s1.putAct e.act { s1.actS e.act with confirmed := true }).reportDone e

/-- A command fails (R131). -/
def State.fail (s : State) (e : CmdEntry) (reason : FailReason) : State :=
  let s1 := (s.removeEntry e.act).reportFailed e
  match s1.actNode e.act with
  | none => s1
  | some n =>
    let s2 := (s1.notice (.actuatorFault e.act n e.value reason)).modNode n fun q => { q with localFault := true }
    (s2.changeNode n .lost (some .actuator)).lostHold .actuator

/-- An ACK record: malformed, stale, or matched (R130 to R132). -/
def State.takeAck (s : State) (src num tagNo : Nat) (use : State → CmdEntry → State) : State :=
  let s1 := s.heard src
  if 15 < num then s1.bump .malformed
  else
    match s1.ackMatch src num tagNo with
    | none => s1.bump .staleAck
    | some e => use s1 e

/-- An ACK record with result ACCEPTED (R130). -/
def State.ackAccepted (s : State) (src num tagNo : Nat) : State := s.takeAck src num tagNo State.complete
/-- An ACK record with result REFUSED (R131). -/
def State.ackRefused (s : State) (src num tagNo : Nat) : State := s.takeAck src num tagNo fun s e => s.fail e .refused

/-- The acknowledgement timer of the list entry of actuator `a` expires (R129, R131). -/
def State.ackExpiry (s : State) (a : Nat) : State :=
  match s.cmds.find? fun e => e.act == a with
  | none => s
  | some e => if s.due e.sent Config.ackTime then s.fail e .timeout else s

/-- HEARTBEAT (R150). -/
def execHeartbeat (t src : Nat) (inputs : BitVec 4) (s : State) : Host.Outcome State Fault Refusal :=
  s.command t fun s => s.takeHeartbeat src inputs
/-- HELLO (R119). -/
def execHello (t src kind : Nat) (s : State) : Host.Outcome State Fault Refusal :=
  s.command t fun s => s.takeHello src kind
/-- LIMIT_ACK (R120). -/
def execLimitAck (t src : Nat) (s : State) : Host.Outcome State Fault Refusal :=
  s.command t fun s => s.takeLimitAck src
/-- ACK_ACCEPTED (R130). -/
def execAckAccepted (t src num tagNo : Nat) (s : State) : Host.Outcome State Fault Refusal :=
  s.command t fun s => s.ackAccepted src num tagNo
/-- ACK_REFUSED (R131). -/
def execAckRefused (t src num tagNo : Nat) (s : State) : Host.Outcome State Fault Refusal :=
  s.command t fun s => s.ackRefused src num tagNo
/-- ACK_TIMER_EXPIRY (R131). -/
def execAckTimerExpiry (t a : Nat) (s : State) : Host.Outcome State Fault Refusal :=
  s.command t fun s => s.ackExpiry a
/-- JOIN_TIMER_EXPIRY (R120). -/
def execJoinTimerExpiry (t n : Nat) (s : State) : Host.Outcome State Fault Refusal :=
  s.command t fun s => s.joinExpiry n
/-- NODE_SILENT (R121). -/
def execNodeSilent (t n : Nat) (s : State) : Host.Outcome State Fault Refusal :=
  s.command t fun s => s.silentExpiry n
/-- NODE_LOST_SILENCE (R121). -/
def execNodeLostSilence (t n : Nat) (s : State) : Host.Outcome State Fault Refusal :=
  s.command t fun s => s.lostExpiry n

end Sys2Proof.Machine
end

