-- ==== Sys2Proof/Machine/Check.lean ====
section
/-! DEFINITION. The table check: its items and how it begins and ends (R145 to R147; the order within an entry and the
subjects: log 25). -/

namespace Sys2Proof.Machine

/-- A failing entry: its table and index, the reason and the subject (R147). -/
structure Failure where
  table : Table
  index : Nat
  reason : CheckReason
  subject : Option Nat
  deriving DecidableEq, Repr

/-- A failure when a condition holds. -/
def failIf (c : Bool) (f : Failure) : Option Failure := if c then some f else none

/-- The first failure of a list. -/
def firstOf (l : List (Option Failure)) : Option Failure := l.findSome? id

/-- The first failure over the entries of a table, in ascending index. -/
def overEntries (n : Nat) (f : Nat → Option Failure) : Option Failure := (List.range n).findSome? f

/-- A test of the defined zones. -/
def State.overZones (s : State) (f : Nat → ZoneEntry → Option Failure) : Option Failure :=
  overEntries 64 fun z => (s.zoneE z).bind (f z)
/-- A test of the defined berths. -/
def State.overBerths (s : State) (f : Nat → BerthEntry → Option Failure) : Option Failure :=
  overEntries 6 fun b => (s.berthE b).bind (f b)
/-- A test of the defined launch sections. -/
def State.overLaunches (s : State) (f : Nat → LaunchEntry → Option Failure) : Option Failure :=
  overEntries 2 fun k => (s.launchE k).bind (f k)
/-- A test of the defined traps. -/
def State.overTraps (s : State) (f : Nat → TrapEntry → Option Failure) : Option Failure :=
  overEntries 8 fun i => (s.trapE i).bind (f i)
/-- A test of the defined runs. -/
def State.overRuns (s : State) (f : Nat → RunEntry → Option Failure) : Option Failure :=
  overEntries 2 fun r => (s.runE r).bind (f r)
/-- A test of the stages 1 to N of the defined runs, by stage table index. -/
def State.overStages (s : State) (f : Nat → StageEntry → Option Failure) : Option Failure :=
  overEntries 16 fun i => (s.runE (i / 8)).bind fun e => if i % 8 < e.stages then f i (s.stageE i) else none

/-! ### Items 1 to 4 -/

/-- A successor of zone `z` (item 1). -/
def State.checkSuccessor (s : State) (z y : Nat) : Option Failure :=
  if (s.zoneE y).isNone then some ⟨.zone, z, .undefinedSuccessor, some y⟩
  else failIf (y == z) ⟨.zone, z, .selfSuccessor, some y⟩

/-- Item 1. -/
def State.item1 (s : State) : Option Failure :=
  s.overZones fun z e => firstOf ((e.main :: e.alt.toList).map (s.checkSuccessor z))

/-- Item 2. -/
def State.item2 (s : State) : Option Failure :=
  s.overZones fun z e => failIf (e.alt.isSome != e.switch.isSome) ⟨.zone, z, .switchPair, none⟩

/-- Item 3. -/
def State.item3 (s : State) : Option Failure :=
  s.overZones fun z e => failIf (e.gate.isSome != e.kind.gated) ⟨.zone, z, .gate, none⟩

/-- The walk from a zone on one route (item 4). A zone found undefined on the way is item 1's failure already. -/
def State.checkWalk (s : State) (z : Nat) (route : Route) : Option Failure :=
  match s.walk z route with
  | .ok _ => none
  | .error .loop => some ⟨.zone, z, .pathLoop, none⟩
  | .error _ => some ⟨.zone, z, .pathLength, none⟩

/-- Item 4. -/
def State.item4 (s : State) : Option Failure :=
  s.overZones fun z e =>
    if !e.kind.stoppable then none
    else if e.kind = .transfer ∧ e.alt.isSome = true then firstOf [s.checkWalk z .main, s.checkWalk z .bay]
    else s.checkWalk z .main

/-! ### Item 5 -/

/-- A zone's attachment names a defined entry that names the zone back. -/
def backRef (z : Nat) (attached : Option Nat) (zoneOf : Nat → Option Nat) : Option Failure :=
  attached.bind fun i => failIf (zoneOf i != some z) ⟨.zone, z, .backReference, none⟩

/-- The zone an entry names is defined and its kind is one that fits, and it names the entry back (R60, R80, R101). -/
def State.checkHome (s : State) (t : Table) (i z : Nat) (fits : ZKind → Bool) (names : ZoneEntry → Option Nat) :
    Option Failure :=
  match s.zoneE z with
  | none => some ⟨t, i, .zoneKind, some z⟩
  | some e =>
    if !fits e.kind then some ⟨t, i, .zoneKind, some z⟩
    else failIf (names e != some i) ⟨t, i, .backReference, some z⟩

/-- The zone kind of a berth role (R60). -/
def Role.fits (role : Role) (k : ZKind) : Bool :=
  match role with
  | .pad => k == .launch
  | .load => k == .berth
  | .unload => k == .berth

/-- Item 5 for a zone. -/
def State.item5Zone (s : State) (z : Nat) (e : ZoneEntry) : Option Failure :=
  firstOf [backRef z e.berth fun b => (s.berthE b).map BerthEntry.zone,
    backRef z e.sec fun k => (s.launchE k).map LaunchEntry.zone,
    backRef z e.run fun r => (s.runE r).map RunEntry.zone]

/-- Item 5 for a launch section: its zone, then its launch trap (R80). -/
def State.item5Launch (s : State) (k : Nat) (e : LaunchEntry) : Option Failure :=
  firstOf [s.checkHome .launch k e.zone (· == .launch) ZoneEntry.sec,
    failIf ((s.trapE e.trap).all fun x => x.use != .launch) ⟨.launch, k, .trapUse, none⟩]

/-- Item 5 for a trap (R96). A BRAKE trap whose run is undefined fails with ZONE_KIND, its zone the subject: R96 and R146 do not
say, and R100 takes such a trap as a CHECK trap, so this is the model's choice (log 25). -/
def State.item5Trap (s : State) (i : Nat) (e : TrapEntry) : Option Failure :=
  let home := match e.run with
    | none => true
    | some r => (s.runE r).any fun x => x.zone == e.zone
  firstOf [failIf ((s.zoneE e.zone).isNone || !home) ⟨.trap, i, .zoneKind, some e.zone⟩,
    failIf (e.use == .launch && !([0, 1].any fun k => (s.launchE k).any fun x => x.trap == i)) ⟨.trap, i, .trapUse, none⟩]

/-- The number of BRAKE traps that name a run (R96). -/
def State.brakeTraps (s : State) (r : Nat) : Nat :=
  ((List.range 8).filter fun i => (s.trapE i).any fun e => e.use == .brake && e.run == some r).length

/-- Item 5 for a run (R96, R101). -/
def State.item5Run (s : State) (r : Nat) (e : RunEntry) : Option Failure :=
  firstOf [s.checkHome .run r e.zone (· == .brakeRun) ZoneEntry.run,
    failIf (s.brakeTraps r != 1) ⟨.run, r, .runTrapCount, none⟩]

/-- Item 5. -/
def State.item5 (s : State) : Option Failure :=
  firstOf [s.overZones s.item5Zone,
    s.overBerths fun b e => s.checkHome .berth b e.zone e.role.fits ZoneEntry.berth,
    s.overLaunches s.item5Launch, s.overTraps s.item5Trap, s.overRuns s.item5Run]

/-! ### Items 6 and 7 -/

/-- The upper bounds of a section's defined bands with their band table index, in ascending index (R81). -/
def State.bandsOf (s : State) (k : Nat) : List (Nat × Nat) :=
  (List.range 8).filterMap fun i => (s.band k i).map fun e => (8 * k + i, e.upper)

/-- The first band whose bound is not above that of the band before it. -/
def bandOrderFailure : List (Nat × Nat) → Option Failure
  | [] => none
  | [_] => none
  | a :: b :: rest => if b.2 ≤ a.2 then some ⟨.band, b.1, .bandOrder, none⟩ else bandOrderFailure (b :: rest)

/-- Item 6: the launch sections, then the bands. -/
def State.item6 (s : State) : Option Failure :=
  firstOf [s.overLaunches fun k _ => failIf (s.bandsOf k).isEmpty ⟨.launch, k, .noBand, none⟩,
    bandOrderFailure (s.bandsOf 0), bandOrderFailure (s.bandsOf 1)]

/-- Item 7. -/
def State.item7 (s : State) : Option Failure :=
  s.overLaunches fun k e =>
    let last := match s.walk e.zone .main with
      | .ok p => p.getLast?
      | .error _ => none
    failIf (last != (s.runE e.run).map RunEntry.zone || last.isNone) ⟨.launch, k, .pathEnd, none⟩

/-! ### Items 8 to 10 -/

/-- The actuators named by the tables, with the kind each field requires, in the order of item 8. Within one entry the fields go
in the order R146's row names them, a zone's gate before its switch: R146 fixes no such order (log 25). -/
def State.namedActuators (s : State) : List (Table × Nat × Nat × ActKind) :=
  ((List.range 64).flatMap fun z => match s.zoneE z with
    | none => []
    | some e => (e.gate.toList.map fun a => (Table.zone, z, a, ActKind.gate)) ++
        (e.switch.toList.map fun a => (Table.zone, z, a, ActKind.switch))) ++
  ((List.range 6).flatMap fun b => match s.berthE b with
    | none => []
    | some e => [(.berth, b, e.lamp, .lamp), (.berth, b, e.lock, .lock)]) ++
  ((List.range 2).flatMap fun k => match s.launchE k with
    | none => []
    | some e => [(.launch, k, e.booster, .booster)]) ++
  ((List.range 16).flatMap fun i => match s.runE (i / 8) with
    | none => []
    | some e => if i % 8 < e.stages then [(.stage, i, (s.stageE i).fin, .fin)] else [])

/-- The test of one named actuator (item 8). -/
def State.checkActuator (s : State) (all : List Nat) (p : Table × Nat × Nat × ActKind) : Option Failure :=
  let a := p.2.2.1
  match s.authE a with
  | none => some ⟨p.1, p.2.1, .authorityUndefined, some a⟩
  | some e =>
    if e.kind ≠ p.2.2.2 then some ⟨p.1, p.2.1, .authorityKind, some a⟩
    else if e.owner ≠ .controller then some ⟨p.1, p.2.1, .authorityOwner, some a⟩
    else failIf (all.count a != 1) ⟨p.1, p.2.1, .authorityShared, some a⟩

/-- Item 8. -/
def State.item8 (s : State) : Option Failure :=
  firstOf (s.namedActuators.map (s.checkActuator (s.namedActuators.map fun p => p.2.2.1)))

/-- A node that an entry names is ACTIVE (item 9). -/
def State.checkNode (s : State) (t : Table) (i n : Nat) : Option Failure :=
  failIf (!s.nodeActive n) ⟨t, i, .nodeNotActive, some n⟩

/-- The node of an actuator is ACTIVE (item 9). -/
def State.checkActNode (s : State) (t : Table) (i a : Nat) : Option Failure := (s.actNode a).bind (s.checkNode t i)

/-- Item 9. Within one zone the marker comes first, then the depends list, the gate and the switch, by the model's choice
(log 25). -/
def State.item9 (s : State) : Option Failure :=
  firstOf [
    s.overZones fun z e => firstOf (((e.markerNode :: e.depends).map (s.checkNode .zone z)) ++
      ((e.gate.toList ++ e.switch.toList).map (s.checkActNode .zone z))),
    s.overBerths fun b e => firstOf (s.checkNode .berth b e.node :: [e.lamp, e.lock].map (s.checkActNode .berth b)),
    s.overLaunches fun k e => s.checkActNode .launch k e.booster,
    s.overTraps fun i e => s.checkNode .trap i e.node,
    s.overStages fun i e => s.checkActNode .stage i e.fin]

/-- Item 10, by BOAT table index. -/
def State.item10 (s : State) : Option Failure :=
  overEntries 24 fun i => (s.boatR (i + 1)).bind fun x => failIf (!s.stoppable x.zone) ⟨.boat, i, .boatZone, some x.zone⟩

/-- The item of a number (R146). -/
def State.checkNth (s : State) (n : Nat) : Option Failure :=
  match n with
  | 1 => s.item1
  | 2 => s.item2
  | 3 => s.item3
  | 4 => s.item4
  | 5 => s.item5
  | 6 => s.item6
  | 7 => s.item7
  | 8 => s.item8
  | 9 => s.item9
  | _ => s.item10

/-! ### Beginning and ending (R145, R147) -/

/-- A check begins: the mode becomes CHECKING (R145). -/
def State.checkBegin (s : State) : State :=
  (s.modMc fun m =>
    { m with check := some ⟨s.now, 1⟩, holdPending := false, result := { CheckResult.empty with outcome := .inProgress } }).changeMode
    .checking .record

/-- An item fails (R147). -/
def State.checkFailed (s : State) (n : Nat) (f : Failure) : State :=
  (s.modMc fun m =>
    { m with check := none, result := ⟨.failed, some n, some f.table, some f.index, some f.reason, f.subject⟩ }).changeMode
    .config .checkFailed

/-- The last item passes (R147). -/
def State.checkPassed (s : State) : State :=
  let held := s.mc.holdPending || s.anyFault
  let s1 := s.modMc fun m =>
    { m with check := none, layoutChecked := true, holdPending := false,
             result := { CheckResult.empty with outcome := .passed } }
  if held then s1.changeMode .hold .checkHeld else s1.changeMode .run .checkPassed

/-- The next item is examined (R146). -/
def State.takeCheckItem (s : State) : State :=
  match s.mc.check with
  | none => s
  | some c =>
    match s.checkNth c.item with
    | some f => s.checkFailed c.item f
    | none =>
      if c.item < 10 then s.modMc fun m => { m with check := some { c with item := c.item + 1 } } else s.checkPassed

/-- CHECK_ITEM (R146). -/
def execCheckItem (t : Nat) (s : State) : Host.Outcome State Fault Refusal := s.command t State.takeCheckItem

end Sys2Proof.Machine
end

