-- ==== Sys2Proof/Machine/Tables.lean ====
section
/-! DEFINITION. Table writes: the tests of a WRITE and its effects on status (R16, R61, R114, R123, R126, R142, R159, R176). -/

namespace Sys2Proof.Machine

/-! ### Conflicts between entries (test 6 of R176) -/

/-- Some other defined entry of a table of `n` entries has a property. -/
def otherHas {α : Type} (n i : Nat) (entry : Nat → Option α) (p : α → Bool) : Bool :=
  (List.range n).any fun j => j != i && (entry j).any p

/-- A ZONE image conflicts: its marker is another zone's (R5). -/
def State.zoneConflict (s : State) (z : Nat) (e : ZoneEntry) : Bool :=
  otherHas 64 z s.zoneE fun x => x.markerNode == e.markerNode && x.markerSensor == e.markerSensor
/-- A NODE image conflicts: its address is another entry's (R117). -/
def State.nodeConflict (s : State) (n : Nat) (e : NodeEntry) : Bool := otherHas 48 n s.nodeE fun x => x.address == e.address
/-- An AUTHORITY image conflicts: node and actuator number (R124). -/
def State.authConflict (s : State) (a : Nat) (e : AuthEntry) : Bool :=
  otherHas 64 a s.authE fun x => x.node == e.node && x.num == e.num
/-- A TRAP image conflicts: node and trap pair (R96). -/
def State.trapConflict (s : State) (i : Nat) (e : TrapEntry) : Bool :=
  otherHas 8 i s.trapE fun x => x.node == e.node && x.pair == e.pair
/-- A LAUNCH image conflicts: launch zone, booster or launch trap (R80). -/
def State.launchConflict (s : State) (k : Nat) (e : LaunchEntry) : Bool :=
  otherHas 2 k s.launchE fun x => x.zone == e.zone || x.booster == e.booster || x.trap == e.trap
/-- A RUN image conflicts: its zone (R101). -/
def State.runConflict (s : State) (r : Nat) (e : RunEntry) : Bool := otherHas 2 r s.runE fun x => x.zone == e.zone
/-- A BERTH image conflicts: its zone or its node (R60). -/
def State.berthConflict (s : State) (b : Nat) (e : BerthEntry) : Bool :=
  otherHas 6 b s.berthE fun x => x.zone == e.zone || x.node == e.node

/-! ### Effects on status -/

/-- A gate named in CONFIG whose commanded value is not CLOSE is handed CLOSE (R142). -/
def State.closeNamedGate (s : State) (e : ZoneEntry) : State :=
  match e.gate with
  | none => s
  | some a => if (s.actS a).commanded = some .gateClose then s else s.hand a .gateClose

/-- The zone table entry is replaced (R16). -/
def State.storeZone (s : State) (z : Nat) (x : Option ZoneEntry) : State :=
  let s1 := s.modTab fun t => { t with zone := t.zone.setIfInBounds z x }
  match x with
  | none => s1.setZs z .clear
  | some e => (s1.evalNodeHold z).closeNamedGate e

/-- An entry that a WRITE to ZONE makes undefined has an occupant or a reservation holder (R16). -/
def State.zoneBusy (s : State) (z : Nat) : Bool := (s.occupant z).isSome || (s.zst z).reserved.isSome

/-- The status of a node becomes that of an ABSENT one, its inputs become low, and the change is reported (R123, R150). -/
def State.dropNode (s : State) (n : Nat) : State :=
  ((s.putNode n .absent).putInputs n 0).reportRoster n (s.nodeS n).state .absent

/-- The node table entry is replaced (R123). -/
def State.storeNode (s : State) (n : Nat) (x : Option NodeEntry) : State :=
  let s1 := s.modTab fun t => { t with node := t.node.setIfInBounds n x }
  match s.nodeE n, x with
  | some old, some new =>
    if old.address = new.address ∧ old.kind = new.kind then
      (if (s.nodeS n).state.present then s1.handLimit n else s1)
    else s1.dropNode n
  | _, _ => s1.dropNode n

/-- The authority table entry is replaced (R126). -/
def State.storeAuth (s : State) (a : Nat) (x : Option AuthEntry) : State :=
  let s1 := s.modTab fun t => { t with auth := t.auth.setIfInBounds a x }
  match s.authE a, x with
  | some old, some new =>
    if old.node = new.node ∧ old.num = new.num ∧ old.kind = new.kind then s1
    else (s1.removeEntry a).putAct a ⟨some new.kind.safe, false⟩
  | none, some new => (s1.removeEntry a).putAct a ⟨some new.kind.safe, false⟩
  | _, none => (s1.removeEntry a).putAct a .none

/-- The awaiting flags of a run are cleared and it is restored from the tables as they stand (R114). -/
def State.rewriteRun (s : State) (r : Nat) : State :=
  match s.runE r with
  | none => s.putRun r .ready
  | some _ => (s.modRun r fun q => { q with awaiting := Vector.replicate 8 false }).restoreRun r

/-- The brake run table entry is replaced (R114). -/
def State.storeRun (s : State) (r : Nat) (x : Option RunEntry) : State :=
  (s.modTab fun t => { t with run := t.run.setIfInBounds r x }).rewriteRun r

/-- The brake stage table entry is replaced; in CONFIG its run is restored (R102, R114). -/
def State.storeStage (s : State) (i : Nat) (x : StageEntry) : State :=
  let s1 := s.modTab fun t => { t with stage := t.stage.setIfInBounds i x }
  if s.mode = .config then s1.rewriteRun (i / 8) else s1

/-- The status a berth starts from after a write: its readings are kept only with its node (R61). -/
def BerthStatus.rewritten (q : BerthStatus) (sameNode : Bool) : BerthStatus :=
  if sameNode then { q with pending := false } else { q with presence := false, latch := false, weight := none, pending := false }

/-- The state of a rewritten berth is derived, and a derived EMPTY berth then takes an occupant it finds (R61, R65, R66). An EMPTY
berth that the derivation itself takes to OCCUPIED or SECURED keeps its last settled weight with its node (R61), where R66 and R78
would clear it: the model's choice (log 48). -/
def State.rewriteBerth (s : State) (b : Nat) (sameNode : Bool) : State :=
  (((s.modBerth b fun q => q.rewritten sameNode).berthDerive b).berthArrive b).handBoth b

/-- The berth table entry is replaced (R61). -/
def State.storeBerth (s : State) (b : Nat) (x : Option BerthEntry) : State :=
  let s1 := s.modTab fun t => { t with berth := t.berth.setIfInBounds b x }
  match s.berthE b, x with
  | _, none => s1.putBerth b .initial
  | some old, some new => s1.rewriteBerth b (old.node = new.node)
  | none, some _ => s1.rewriteBerth b false

/-! ### WRITE (R176) -/

/-- A decoded image is stored, or refused: VALUE, then CONFLICT (R176). -/
def store {α : Type} (s : State) (img : Option (α × Bool)) (conflict : α → Bool) (put : α → State) : State × Code :=
  match img with
  | none => (s, .value)
  | some (e, clamped) => if conflict e then (s, .conflict) else (put e, if clamped then .okClamped else .ok)

/-- The test of an optional entry's conflict: only a defined one has one. -/
def whenDefined {α : Type} (p : α → Bool) : Option α → Bool
  | none => false
  | some e => p e

/-- Tests 5 and 6 of R176 and the effect of a WRITE to a table entry. -/
def State.storeEntry (s : State) (t : Table) (i : Nat) (img : List Byte) : State × Code :=
  match t with
  | .zone => store s (decodeZone img)
      (fun x => match x with
        | none => s.zoneBusy i
        | some e => s.zoneConflict i e) (s.storeZone i)
  | .cls => store s (decodeClass img) (fun _ => false) fun x =>
      s.modTab fun t => { t with cls := t.cls.setIfInBounds i x }
  | .node => store s (decodeNode img) (whenDefined (s.nodeConflict i)) (s.storeNode i)
  | .authority => store s (decodeAuth img) (whenDefined (s.authConflict i)) (s.storeAuth i)
  | .trap => store s (decodeTrap img) (whenDefined (s.trapConflict i)) fun x =>
      s.modTab fun t => { t with trap := t.trap.setIfInBounds i x }
  | .launch => store s (decodeLaunch img) (whenDefined (s.launchConflict i)) fun x =>
      s.modTab fun t => { t with launch := t.launch.setIfInBounds i x }
  | .band => store s (decodeBand img) (fun _ => false) fun x =>
      s.modTab fun t => { t with band := t.band.setIfInBounds i x }
  | .run => store s (decodeRun img) (whenDefined (s.runConflict i)) (s.storeRun i)
  | .stage => store s (decodeStage img) (fun _ => false) (s.storeStage i)
  | .berth => store s (decodeBerth img) (whenDefined (s.berthConflict i)) (s.storeBerth i)
  | .channel => store s ((decodeChannel i img).map fun g => (g, false)) (fun _ => false) fun x =>
      s.modTab fun t => { t with chan := t.chan.setIfInBounds i x }
  | .user => store s (decodeUser i img) (fun _ => false) fun x =>
      s.modTab fun t => { t with user := t.user.setIfInBounds i x }
  | .zoneStatus => (s, .readOnly)
  | .boat => (s, .readOnly)
  | .nodeStatus => (s, .readOnly)
  | .actuatorStatus => (s, .readOnly)
  | .berthStatus => (s, .readOnly)
  | .counters => (s, .readOnly)
  | .checkResult => (s, .readOnly)

/-- A STAGE image changes the trim alone: its fin actuator and nominal force, as written, are the stored ones (R102,
R176). -/
def State.trimOnly (s : State) (i : Nat) (img : List Byte) : Bool :=
  byteAt img 0 == (s.stageE i).fin && wordAt img 1 == (s.stageE i).nominal

/-- Tests 1 to 4 of R176: the refusal, if any. -/
def State.writeRefusal (s : State) (img : List Byte) : Option Code :=
  let t := s.ptr.1
  let driving := s.mode == .run || s.mode == .hold || s.mode == .stop
  if t.readOnly then some .readOnly
  else if t.configuration && s.mode == .checking then some .busy
  else if t.configuration && t != .stage && driving then some .mode
  else if t == .stage && driving && !s.trimOnly s.ptr.2 img then some .mode
  else none

/-- The pointer moves on by one entry, from the last to the first (R176, R177). -/
def State.advance (s : State) : State := { s with ptr := (s.ptr.1, (s.ptr.2 + 1) % s.ptr.1.entries) }

/-- A WRITE: its result, and the pointer's advance when it is taken (R176). -/
def State.writeEntry (s : State) (img : List Byte) : State × Code :=
  match s.writeRefusal img with
  | some c => (s, c)
  | none =>
    let p := s.storeEntry s.ptr.1 s.ptr.2 img
    if p.2 = .ok ∨ p.2 = .okClamped then (p.1.advance, p.2) else p

/-- A READ: the holder's content, then the holder is loaded and the pointer moves on (R177). -/
def State.readEntry (s : State) : State :=
  ({ s with holder := some ⟨s.ptr.1, s.ptr.2, s.entryImage s.ptr.1 s.ptr.2⟩ } : State).advance

end Sys2Proof.Machine
end

