-- ==== Sys2Proof/Machine/Reset.lean ====
section
/-! DEFINITION. Power-on, the two resets and the emergency-stop input (R17, R39, R58, R79, R95, R116, R136, R141, R148, R160,
R161, R172, R181). -/

namespace Sys2Proof.Machine

/-- The mode goes on from CONFIG to STOP when ESTOP is asserted, an event of its own (R141, R148). -/
def State.thenStop (s : State) : State := if s.mc.estop then State.event (fun s => s.goStop .estop) s else s

/-- POWER_ON: power-on values with the straps sampled; the model's clock, queue and free choices go on (log 34, 35). -/
def State.powerOn (s : State) (addr rate : Nat) (estop : Bool) : State :=
  { State.reset with
    now := s.now
    pending := s.pending
    free := s.free
    addr := 96 + addr % 4
    rate := rate % 4
    mc := { State.reset.mc with estop := estop } }

/-- A zone's status at a RUNTIME reset, before its holds are evaluated (R17). -/
def ZoneStatus.wiped (q : ZoneStatus) : ZoneStatus := { ZoneStatus.clear with nodeHold := q.nodeHold }

/-- A berth's status at a RUNTIME reset (R79). -/
def BerthStatus.wiped (q : BerthStatus) : BerthStatus :=
  { BerthStatus.initial with presence := q.presence, latch := q.latch }

/-- Mode control at a RUNTIME reset (R148): a check in progress is abandoned. -/
def ModeCtl.wiped (m : ModeCtl) : ModeCtl :=
  { mode := .config, layoutChecked := false, holdPending := false, check := none, estop := m.estop, stopOut := false,
    result := match m.check with
      | none => m.result
      | some c => { CheckResult.empty with outcome := .aborted, item := some c.item } }

/-- What a RUNTIME reset empties and clears, before any block hands a command (R136, R181). Re-sends of supervisor
commands already due (R167) stay due: neither rule says what becomes of them, so this is the model's choice (log 35). -/
def State.wipe (s : State) : State :=
  { s with
    cmds := []
    boats := Vector.replicate 24 none
    rel := Vector.replicate 24 none
    queue := []
    zs := s.zs.map ZoneStatus.wiped
    berths := s.berths.map BerthStatus.wiped
    seqs := Vector.replicate 2 .idle
    runs := Vector.replicate 2 .ready
    mc := s.mc.wiped
    pulses := Vector.replicate 8 none
    notices := []
    holder := none
    held := none }

/-- The commands of a RUNTIME reset: berths, sequencers, brake runs, mode control (R79, R95, R116, R148; order: log 10). -/
def State.resetHands (s : State) : State :=
  let s1 := (List.range 6).foldl (fun s b => s.handBoth b) s
  let s2 := (s1.handBooster 0 .boosterSafe).handBooster 1 .boosterSafe
  ((s2.engageRun 0).engageRun 1).closeGates

/-- A RUNTIME reset (R181): holds are evaluated and FOLLOW users take their levels without edges (R17, R160). -/
def State.resetRuntime (s : State) : State :=
  let s1 := s.wipe.resetHands
  ((s1.definedZones.foldl (fun s p => s.evalNodeHold p.1) s1).evalUserHolds.driveLines).clearEv

/-- A FULL reset (R181): power-on values, but straps, ports, their queues and the model's own fields go on (log 35). -/
def State.resetFull (s : State) : State :=
  { State.reset with
    now := s.now
    pending := s.pending
    free := s.free
    reqSeq := s.reqSeq
    req := s.req
    ev := s.ev
    addr := s.addr
    rate := s.rate
    up := s.up
    dn := s.dn
    mc := { State.reset.mc with estop := s.mc.estop } }

/-- A reset of either kind, and the STOP that an asserted ESTOP brings at once (R148, R181). -/
def State.doReset (s : State) (k : ResetKind) : State :=
  match k with
  | .runtime => s.resetRuntime.thenStop
  | .full => s.resetFull.thenStop

/-- ESTOP is asserted (R141). -/
def State.estopOn (s : State) : State := (s.modMc fun m => { m with estop := true }).goStop .estop
/-- ESTOP is released (R141). -/
def State.estopOff (s : State) : State := s.modMc fun m => { m with estop := false }

/-- The pulse timer of line `u` expires (R154, log 2). -/
def State.auxExpiry (s : State) (u : Nat) : State :=
  if s.due s.pulses[u]?.join 0 then s.putPulse u none else s

/-- POWER_ON (R148). -/
def execPowerOn (t addr rate : Nat) (estop : Bool) (s : State) : Host.Outcome State Fault Refusal :=
  .next ((s.at_ t).powerOn addr rate estop).thenStop
/-- ESTOP_ASSERTED (R141). -/
def execEstopAsserted (t : Nat) (s : State) : Host.Outcome State Fault Refusal := s.command t State.estopOn
/-- ESTOP_RELEASED (R141). -/
def execEstopReleased (t : Nat) (s : State) : Host.Outcome State Fault Refusal := s.command t State.estopOff
/-- AUX_PULSE_EXPIRY (R154). -/
def execAuxPulseExpiry (t u : Nat) (s : State) : Host.Outcome State Fault Refusal := s.command t fun s => s.auxExpiry u

end Sys2Proof.Machine
end

