-- ==== Sys2Proof/Machine/Mgmt.lean ====
section
/-! DEFINITION. The management responder: records, results, requests and responses (chapter 11, R138, R186, R187). -/

namespace Sys2Proof.Machine

/-! ### Results -/

/-- A result without data (R186; table and index 0: log 17). -/
def MgmtResult.plain (c : Code) : MgmtResult := ⟨c, 0, 0, [], false⟩

/-- The data a result carries when its response is built: a RESET reports the mode (R181, R186). -/
def MgmtResult.built (r : MgmtResult) (m : Mode) : MgmtResult := if r.resetMode then { r with data := enc1 m.code } else r

/-! ### MODE records (R138, R144) -/

/-- MODE CONFIG (R138). -/
def State.recordConfig (s : State) : State × Code :=
  match s.mode with
  | .config => (s, .ok)
  | .checking => (s, .busy)
  | .run => (s, .mode)
  | .hold => if s.mc.estop then (s, .mode) else if s.anyCommitted then (s, .conflict) else (s.changeMode .config .record, .ok)
  | .stop => if s.mc.estop then (s, .mode) else if s.anyCommitted then (s, .conflict) else (s.changeMode .config .record, .ok)

/-- MODE RUN (R138). -/
def State.recordRun (s : State) : State × Code :=
  match s.mode with
  | .config => if s.mc.estop then (s, .mode) else (s.checkBegin, .ok)
  | .checking => (s, .busy)
  | .run => (s, .ok)
  | .hold => if s.anyFault || s.mc.estop then (s, .mode) else (s.changeMode .run .record, .ok)
  | .stop => (s, .mode)

/-- MODE HOLD (R138). -/
def State.recordHold (s : State) : State × Code :=
  match s.mode with
  | .config => (s, .mode)
  | .checking => (s.modMc fun m => { m with holdPending := true }, .ok)
  | .run => (s.changeMode .hold .record, .ok)
  | .hold => (s, .ok)
  | .stop => (s, .mode)

/-- MODE RESUME (R138, R144). -/
def State.recordResume (s : State) : State × Code :=
  match s.mode with
  | .config => (s, .mode)
  | .checking => (s, .mode)
  | .run => (s, .mode)
  | .hold => (s, .mode)
  | .stop =>
    if s.mc.estop then (s, .mode)
    else if s.mc.layoutChecked then (s.changeMode .hold .record, .ok)
    else (s.changeMode .config .record, .ok)

/-- MODE STOP (R138). -/
def State.recordStop (s : State) : State × Code := (s.goStop .record, .ok)

/-- A MODE record by its coded value (R186, R187). -/
def State.recordMode (s : State) (v : Nat) : State × Code :=
  match v with
  | 0 => s.recordConfig
  | 1 => s.recordRun
  | 2 => s.recordHold
  | 3 => s.recordResume
  | 4 => s.recordStop
  | _ => (s, .value)

/-! ### The other records -/

/-- INJECT_TRIGGER (R158). -/
def State.recordInject (s : State) (c : Nat) : State × Code :=
  if 11 < c then (s, .value) else (s.pulseChan c .injected, .ok)

/-- CLEAR_COUNTERS (R179). -/
def State.recordClear (s : State) : State × Code := ({ s with counters := Vector.replicate 21 0 }, .ok)

/-- NOTICE_MASK (R180, R187). -/
def State.recordMask (s : State) (m : BitVec 24) : State × Code :=
  if m.getLsbD 22 || m.getLsbD 23 then (s, .value) else ({ s with mask := m.setWidth 22 }, .ok)

/-- The result of a READ: what the holder held (R177, R186). -/
def State.readResult (s : State) : MgmtResult :=
  match s.holder with
  | none => ⟨.ok, 255, 0, [], false⟩
  | some h => ⟨.ok, h.table.code, h.index, h.image, false⟩

/-- A record whose result has no data. -/
def plainOf (p : State × Code) : State × MgmtResult := (p.1, .plain p.2)

/-- A record is carried out, but for SELECT and RESET, which Request keeps (R173, R174). -/
def State.carry (s : State) (m : MgmtRecord) : State × MgmtResult :=
  match m with
  | .selectTable _ => (s, .plain .sequence)
  | .selectIndex _ => (s, .plain .sequence)
  | .write image => plainOf (s.writeEntry image)
  | .read => (s.readEntry, s.readResult)
  | .mode v => plainOf (s.recordMode v)
  | .placeBoat boat cls zone route => plainOf (s.placeBoat boat cls zone route)
  | .retireBoat boat => plainOf (s.retireBoat boat)
  | .setRoute boat route => plainOf (s.setRoute boat route)
  | .clearZone zone => plainOf (s.clearZone zone)
  | .injectTrigger c => plainOf (s.recordInject c)
  | .clearCounters => plainOf s.recordClear
  | .noticeMask m => plainOf (s.recordMask m)
  | .status => (s, ⟨.ok, 0, 0, s.statusData, false⟩)
  | .reset _ => (s, .plain .value)

/-! ### Requests (R173, R175, R181) -/

/-- A request frame opens; while a response is held it is consumed unanswered and counted (R173). -/
def State.openRequest (s : State) : State :=
  match s.req with
  | some _ => s
  | none =>
    if s.held.isSome then ({ s with req := some ⟨[], none, none, false, true⟩ } : State).bump .mgmtOverrun
    else { s with req := some ⟨[], none, none, false, false⟩ }

/-- Results are added to the request. -/
def State.answer (s : State) (r : Request) (l : List MgmtResult) : State :=
  { s with req := some { r with results := r.results ++ l, select := none } }

/-- The results a waiting SELECT_TABLE adds when its SELECT_INDEX does not follow (R175). -/
def Request.broken (r : Request) : List MgmtResult :=
  match r.select with
  | none => []
  | some _ => [.plain .sequence]

/-- The number of records the request has had. -/
def Request.count (r : Request) : Nat := r.results.length + r.broken.length

/-- The result of a selection pair (R175). -/
def selectCode (table index : Nat) : Code :=
  match Table.ofCode table with
  | none => .table
  | some t => if index < t.entries then .ok else .index

/-- The pointer after a selection (R175). -/
def State.setPointer (s : State) (table index : Nat) : State :=
  match Table.ofCode table with
  | none => s
  | some t => if index < t.entries then { s with ptr := (t, index) } else s

/-- SELECT_TABLE waits for the record after it (R175). -/
def State.takeSelectTable (s : State) (r : Request) (table : Nat) : State :=
  { s with req := some { r with results := r.results ++ r.broken, select := some table } }

/-- SELECT_INDEX completes a pair, or gets SEQUENCE (R175). -/
def State.takeSelectIndex (s : State) (r : Request) (index : Nat) : State :=
  match r.select with
  | none => s.answer r [.plain .sequence]
  | some table =>
    let c := selectCode table index
    (s.setPointer table index).answer r [.plain c, .plain c]

/-- RESET: refused with VALUE, or taken to be done after the frame (R181, R187). -/
def State.takeReset (s : State) (r : Request) (v : Nat) : State :=
  let asked (k : ResetKind) : State :=
    { s with req := some { r with results := r.results ++ r.broken ++ [⟨.ok, 0, 0, [], true⟩], select := none, reset := some k } }
  match v with
  | 0 => asked .runtime
  | 1 => asked .full
  | _ => s.answer r (r.broken ++ [.plain .value])

/-- One record of the open request is carried out (R173). -/
def State.takeRecord (s : State) (m : MgmtRecord) : State :=
  match s.req with
  | none => s
  | some r =>
    if r.skip then s
    else if Config.requestCap ≤ r.count then { s with req := some { r with overfull := true } }
    else if r.reset.isSome then s.answer r [.plain .sequence]
    else
      match m with
      | .selectTable table => s.takeSelectTable r table
      | .selectIndex index => s.takeSelectIndex r index
      | .reset v => s.takeReset r v
      | _ => let p := s.carry m
             p.1.answer r (r.broken ++ [p.2])

/-- The results of a request, when its response is built (R173). -/
def Request.final (r : Request) (m : Mode) : List MgmtResult :=
  if r.overfull then [.plain .format] else (r.results ++ r.broken).map fun x => x.built m

/-- A response is built, and placed or held (R169, R173); notices that waited for it follow. -/
def State.respond (s : State) (l : List MgmtResult) : State :=
  (({ s with held := some ⟨s.supervisorFrame 7 (l.map resultRecord), []⟩ } : State).modEv fun e =>
    { e with holdNotices := false }).pumpUp

/-- The reset a request asked for takes effect, its notices waiting for the response (R181). -/
def State.resetOf (s : State) (r : Request) : State :=
  match r.reset with
  | none => s
  | some k => (s.modEv fun e => { e with holdNotices := true }).doReset k

/-- The request frame ends: the reset, then the response (R173, R181). -/
def State.closeRequest (s : State) : State :=
  match s.req with
  | none => s
  | some r =>
    if r.skip then { s with req := none }
    else
      let s1 := s.resetOf r
      ({ s1 with req := none } : State).respond (r.final s1.mode)

/-- A management record as a command: one event, and the end of its frame if it is the last record (log 5). -/
def State.manage (s : State) (t : Nat) (last : Bool) (m : MgmtRecord) : Host.Outcome State Fault Refusal :=
  let s1 := State.event (fun s => s.openRequest.takeRecord m) (s.at_ t)
  .next (if last then s1.closeRequest else s1)

/-- SELECT_TABLE (R175). -/
def execSelectTable (t : Nat) (last : Bool) (table : Nat) (s : State) : Host.Outcome State Fault Refusal :=
  s.manage t last (.selectTable table)
/-- SELECT_INDEX (R175). -/
def execSelectIndex (t : Nat) (last : Bool) (index : Nat) (s : State) : Host.Outcome State Fault Refusal :=
  s.manage t last (.selectIndex index)
/-- WRITE (R176). -/
def execWrite (t : Nat) (last : Bool) (image : List Byte) (s : State) : Host.Outcome State Fault Refusal :=
  s.manage t last (.write image)
/-- READ (R177). -/
def execRead (t : Nat) (last : Bool) (s : State) : Host.Outcome State Fault Refusal := s.manage t last .read
/-- MODE CONFIG (R138). -/
def execModeConfig (t : Nat) (last : Bool) (s : State) : Host.Outcome State Fault Refusal := s.manage t last (.mode 0)
/-- MODE RUN (R138). -/
def execModeRun (t : Nat) (last : Bool) (s : State) : Host.Outcome State Fault Refusal := s.manage t last (.mode 1)
/-- MODE HOLD (R138). -/
def execModeHold (t : Nat) (last : Bool) (s : State) : Host.Outcome State Fault Refusal := s.manage t last (.mode 2)
/-- MODE RESUME (R144). -/
def execModeResume (t : Nat) (last : Bool) (s : State) : Host.Outcome State Fault Refusal := s.manage t last (.mode 3)
/-- MODE STOP (R138). -/
def execModeStop (t : Nat) (last : Bool) (s : State) : Host.Outcome State Fault Refusal := s.manage t last (.mode 4)
/-- PLACE_BOAT (R21). -/
def execPlaceBoat (t : Nat) (last : Bool) (boat cls zone route : Nat) (s : State) : Host.Outcome State Fault Refusal :=
  s.manage t last (.placeBoat boat cls zone route)
/-- RETIRE_BOAT (R22). -/
def execRetireBoat (t : Nat) (last : Bool) (boat : Nat) (s : State) : Host.Outcome State Fault Refusal :=
  s.manage t last (.retireBoat boat)
/-- SET_ROUTE (R23). -/
def execSetRoute (t : Nat) (last : Bool) (boat route : Nat) (s : State) : Host.Outcome State Fault Refusal :=
  s.manage t last (.setRoute boat route)
/-- CLEAR_ZONE (R15). -/
def execClearZone (t : Nat) (last : Bool) (zone : Nat) (s : State) : Host.Outcome State Fault Refusal :=
  s.manage t last (.clearZone zone)
/-- INJECT_TRIGGER (R158). -/
def execInjectTrigger (t : Nat) (last : Bool) (channel : Nat) (s : State) : Host.Outcome State Fault Refusal :=
  s.manage t last (.injectTrigger channel)
/-- CLEAR_COUNTERS (R179). -/
def execClearCounters (t : Nat) (last : Bool) (s : State) : Host.Outcome State Fault Refusal := s.manage t last .clearCounters
/-- NOTICE_MASK (R180). -/
def execNoticeMask (t : Nat) (last : Bool) (mask : BitVec 24) (s : State) : Host.Outcome State Fault Refusal :=
  s.manage t last (.noticeMask mask)
/-- STATUS (R178). -/
def execStatus (t : Nat) (last : Bool) (s : State) : Host.Outcome State Fault Refusal := s.manage t last .status
/-- RESET RUNTIME (R181). -/
def execResetRuntime (t : Nat) (last : Bool) (s : State) : Host.Outcome State Fault Refusal := s.manage t last (.reset 0)
/-- RESET FULL (R181). -/
def execResetFull (t : Nat) (last : Bool) (s : State) : Host.Outcome State Fault Refusal := s.manage t last (.reset 1)

end Sys2Proof.Machine
end

