-- ==== Sys2Proof/Machine/Line.lean ====
section
/-! DEFINITION. The ports and the frame filter: frames received and sent, their records, supervisor commands, and the steps
that place what waits for room (chapter 10). -/

namespace Sys2Proof.Machine

/-! ### Records of the downline port (R165, R184, R185) -/

/-- A record is handed to its owner; ACK and LIMIT_ACK only from a frame addressed to the part (R165). From another frame an ACK
is not counted as malformed either, whatever its result (the model's choice, log 42). -/
def State.takeNodeRecord (s : State) (own : Bool) (src : Nat) (r : NodeRecord) : State :=
  match r with
  | .marker sensor edge => s.takeMarker src sensor edge
  | .trap pair interval => s.takeTrap src pair interval
  | .berth presence latch button => s.takeBerth src presence latch button
  | .weight scale kg flag => s.takeWeight src scale kg (flagOf flag)
  | .tag reader number => s.takeTag src reader number
  | .booster num report =>
    (match report with
    | 0 => s.takeReady src num
    | 1 => s.takeDone src num
    | _ => s.bump .malformed)
  | .heartbeat inputs => s.takeHeartbeat src inputs
  | .hello kind => s.takeHello src kind
  | .limitAck => if own then s.takeLimitAck src else s
  | .ack num tagNo result =>
    if own then
      (match result with
      | 0 => s.ackAccepted src num tagNo
      | 1 => s.ackRefused src num tagNo
      | _ => s.bump .malformed)
    else s

/-- The records of a frame, each an event of its own, in their order (R165). -/
def State.takeNodeRecords (s : State) (own : Bool) (src : Nat) (l : List RawRecord) : State :=
  (l.filterMap nodeRecord).foldl (fun s r => State.event (fun s => s.takeNodeRecord own src r) s) s

/-- Disposition of a frame taken on the downline port (R163, R164; records before the forwarding: log 13). -/
def State.takeDown (s : State) (f : List Byte) : State :=
  match parseFrame f with
  | none =>
    let s1 := s.bump .malformed
    if frameDst f = s.addr then s1 else s1.forward .up ⟨f, []⟩
  | some l =>
    if frameDst f = s.addr then
      (if frameKind f = 1 ∨ frameKind f = 3 ∨ frameKind f = 4 then s.takeNodeRecords true (frameSrc f) l
      else s.bump .foreign)
    else (s.takeNodeRecords false (frameSrc f) l).forward .up ⟨f, []⟩

/-! ### Supervisor commands (R166, R167) -/

/-- The CONTROLLER-owned authority entries that a record of a frame to `dst` names, in ascending index: one node's, or every
node's for a broadcast (R166, R167). R167 gives the re-sends of one broadcast record no order: ascending index is the model's
choice (log 27). -/
def State.commandTargets (s : State) (dst num : Nat) : List Nat :=
  (List.range 64).filter fun a => (s.authE a).any fun e =>
    e.num == num && e.owner == .controller && (dst == 127 || s.nodeOfAddress dst == some e.node)

/-- The values of the passed records for their targets; a code that is no value of the actuator's kind is left out (R167,
R185). -/
def State.commandValues (s : State) (dst : Nat) (l : List RawRecord) : List (Nat × ActValue) :=
  l.flatMap fun r => (s.commandTargets dst (byteAt r.body 0)).filterMap fun a => (s.authE a).bind fun e =>
    (ActValue.ofCode e.kind (byteAt r.body 2) (wordAt r.body 3)).map fun v => (a, v)

/-- Commands of this kind passed in CONFIG are followed by the part's own (R167). -/
def ActKind.returned : ActKind → Bool
  | .gate => true
  | .fin => true
  | .booster => true
  | .lamp => false
  | .lock => false
  | .switch => false
  | .generic => false

/-- A supervisor value becomes the commanded value of a LAMP, LOCK, SWITCH or GENERIC actuator (R167). -/
def State.adopt (s : State) (p : Nat × ActValue) : State :=
  if p.2.kind.returned then s else (s.removeEntry p.1).putAct p.1 ⟨some p.2, false⟩

/-- A supervisor ACTUATOR_COMMAND frame in CONFIG: every record passes (R166, R167). -/
def State.passCommands (s : State) (f : List Byte) (l : List RawRecord) : State :=
  let values := s.commandValues (frameDst f) l
  (values.foldl State.adopt s).forward .down ⟨f, (values.filter fun p => p.2.kind.returned).map (·.1)⟩

/-- A record is removed outside CONFIG: a broadcast's always, another's when it names a CONTROLLER entry (R166). -/
def State.removed (s : State) (dst : Nat) (r : RawRecord) : Bool :=
  dst == 127 || !(s.commandTargets dst (byteAt r.body 0)).isEmpty

/-- A removed record is counted and reported (R166). -/
def State.reportRemoved (s : State) (dst : Nat) (r : RawRecord) : State :=
  (s.bump .filtered).notice (.filteredAuthority dst (byteAt r.body 0) s.mode)

/-- A supervisor ACTUATOR_COMMAND frame outside CONFIG: filtered record by record (R166). -/
def State.filterCommands (s : State) (f : List Byte) (l : List RawRecord) : State :=
  let dst := frameDst f
  let s1 := (l.filter (s.removed dst)).foldl (fun s r => s.reportRemoved dst r) s
  let kept := l.filter fun r => !s.removed dst r
  if kept.isEmpty then s1
  else if kept.length = l.length then s1.forward .down ⟨f, []⟩
  else s1.forward .down ⟨buildFrame dst (frameSrc f) 2 (chainBytes kept), []⟩

/-- A supervisor ACTUATOR_COMMAND frame not addressed to the part (R163, R166; an empty chain: log 14). -/
def State.takeCommands (s : State) (f : List Byte) (parsed : Option (List RawRecord)) : State :=
  match parsed with
  | none => if s.mode = .config then s.forward .down ⟨f, []⟩ else s.notice (.filteredMalformed (frameDst f))
  | some l =>
    if l.isEmpty then s
    else if s.mode = .config then s.passCommands f l
    else s.filterCommands f l

/-! ### Upline frames (R163, R164, R173) -/

/-- A MGMT_REQUEST frame for the responder: its records, or a single FORMAT (R163, R173); a request still open ends (log 5). -/
def State.takeRequest (s : State) (parsed : Option (List RawRecord)) : State :=
  let s1 := s.closeRequest.openRequest
  match parsed, s1.req with
  | some l, some r =>
    if r.skip then s1.closeRequest
    else if Config.requestCap < l.length then ({ s1 with req := none } : State).respond [.plain .format]
    else (l.foldl (fun s r => State.event (fun s => s.takeRecord (mgmtRecord r)) s) s1).closeRequest
  | none, some r => if r.skip then s1.closeRequest else ({ s1 with req := none } : State).respond [.plain .format]
  | _, none => s1

/-- Disposition of a frame taken on the upline port (R163, R164). -/
def State.takeUp (s : State) (f : List Byte) : State :=
  let parsed := parseFrame f
  let s1 := if parsed.isNone then s.bump .malformed else s
  if frameDst f = s1.addr then
    (if frameKind f = 6 ∧ frameSrc f = 1 then s1.takeRequest parsed else s1.bump .foreign)
  else if frameKind f = 2 then State.event (fun s => s.takeCommands f parsed) s1
  else if frameKind f = 6 ∧ frameDst f = 127 then (s1.bump .foreign).forward .down ⟨f, []⟩
  else s1.forward .down ⟨f, []⟩

/-! ### Frames received and sent -/

/-- The port counter of frames received. -/
def receivedCounter : Port → Counter
  | .up => .upReceived
  | .down => .dnReceived
/-- The port counter of check errors. -/
def checkCounter : Port → Counter
  | .up => .upCheck
  | .down => .dnCheck
/-- The port counter of framing errors. -/
def framingCounter : Port → Counter
  | .up => .upFraming
  | .down => .dnFraming

/-- A taken frame: sign of life of its source, then disposition by port (R118, R162, R164; log 12). -/
def State.takeFrame (s : State) (p : Port) (f : List Byte) : State :=
  let s1 := State.event (fun s => s.heard (frameSrc f)) s
  match p with
  | .up => s1.takeUp f
  | .down => s1.takeDown f

/-- A frame received whole: framing, then check, then taken (R162, R185). -/
def State.receive (s : State) (p : Port) (f : List Byte) (byteFault : Bool) : State :=
  if !framingOk byteFault f then s.bump (framingCounter p)
  else if !checkOk f then s.bump (checkCounter p)
  else (s.bump (receivedCounter p)).takeFrame p f

/-- A port's transmitter finishes its frame: the commands it carried are due to be handed again (R167), the arbiter takes
the next frame and the originators fill the room (R169, R170). -/
def State.sent (s : State) (p : Port) : State :=
  match p with
  | .up => ({ s with up := { s.up with tx := none } } : State).pumpUp
  | .down =>
    ({ s with
      resendDue := s.resendDue ++ ((s.dn.tx.map QFrame.resend).getD [])
      dn := { s.dn with tx := none } } : State).pumpDn

/-- The commanded values due after supervisor frames are handed again (R167). -/
def State.resend (s : State) : State :=
  ({ s with resendDue := [] } : State).handAll
    (s.resendDue.filterMap fun a => (s.actS a).commanded.map fun v => (a, v))

/-- FRAME_RECEIVED (R162). -/
def execFrameReceived (t : Nat) (port : Port) (bytes : List Byte) (byteFault : Bool) (s : State) :
    Host.Outcome State Fault Refusal :=
  .next ((s.at_ t).receive port bytes byteFault)
/-- FRAME_SENT (R170). -/
def execFrameSent (t : Nat) (port : Port) (s : State) : Host.Outcome State Fault Refusal := s.command t fun s => s.sent port
/-- ACTUATOR_FRAME_PLACE (R129). -/
def execActuatorFramePlace (t : Nat) (s : State) : Host.Outcome State Fault Refusal := s.command t State.pumpDn
/-- RESPONSE_PLACE (R173). -/
def execResponsePlace (t : Nat) (s : State) : Host.Outcome State Fault Refusal := s.command t fun s => s.pumpUp
/-- NOTICE_FRAME_BUILD (R171). -/
def execNoticeFrameBuild (t : Nat) (s : State) : Host.Outcome State Fault Refusal := s.command t State.pumpUp
/-- SUPERVISOR_COMMAND_RESEND (R167). -/
def execSupervisorCommandResend (t : Nat) (s : State) : Host.Outcome State Fault Refusal := s.command t State.resend

end Sys2Proof.Machine
end

