-- ==== Sys2Proof/Machine/Dispatch.lean ====
section
/-! DEFINITION. The meaning of each command: one arm for each row of the table of operations and events. -/

namespace Sys2Proof.Machine

/-- The effect of a command on everything but the queue. -/
def exec (i : Instr) (s : State) : Host.Outcome State Fault Refusal :=
  match i with
  | .powerOn t addr rate estop => Sys2Proof.Machine.execPowerOn t addr rate estop s
  | .estopAsserted t => Sys2Proof.Machine.execEstopAsserted t s
  | .estopReleased t => Sys2Proof.Machine.execEstopReleased t s
  | .frameReceived t port bytes byteFault => Sys2Proof.Machine.execFrameReceived t port bytes byteFault s
  | .frameSent t port => Sys2Proof.Machine.execFrameSent t port s
  | .actuatorFramePlace t => Sys2Proof.Machine.execActuatorFramePlace t s
  | .responsePlace t => Sys2Proof.Machine.execResponsePlace t s
  | .noticeFrameBuild t => Sys2Proof.Machine.execNoticeFrameBuild t s
  | .supervisorCommandResend t => Sys2Proof.Machine.execSupervisorCommandResend t s
  | .marker t src sensor edge => Sys2Proof.Machine.execMarker t src sensor edge s
  | .trap t src pair interval => Sys2Proof.Machine.execTrap t src pair interval s
  | .berth t src presence latch button => Sys2Proof.Machine.execBerth t src presence latch button s
  | .weight t src scale kg settled => Sys2Proof.Machine.execWeight t src scale kg settled s
  | .tag t src reader number => Sys2Proof.Machine.execTag t src reader number s
  | .boosterReady t src num => Sys2Proof.Machine.execBoosterReady t src num s
  | .boosterDone t src num => Sys2Proof.Machine.execBoosterDone t src num s
  | .heartbeat t src inputs => Sys2Proof.Machine.execHeartbeat t src inputs s
  | .hello t src kind => Sys2Proof.Machine.execHello t src kind s
  | .limitAck t src => Sys2Proof.Machine.execLimitAck t src s
  | .ackAccepted t src num tag => Sys2Proof.Machine.execAckAccepted t src num tag s
  | .ackRefused t src num tag => Sys2Proof.Machine.execAckRefused t src num tag s
  | .ackTimerExpiry t a => Sys2Proof.Machine.execAckTimerExpiry t a s
  | .joinTimerExpiry t n => Sys2Proof.Machine.execJoinTimerExpiry t n s
  | .nodeSilent t n => Sys2Proof.Machine.execNodeSilent t n s
  | .nodeLostSilence t n => Sys2Proof.Machine.execNodeLostSilence t n s
  | .watchExpiry t z => Sys2Proof.Machine.execWatchExpiry t z s
  | .chargeTimerExpiry t sec => Sys2Proof.Machine.execChargeTimerExpiry t sec s
  | .doneTimerExpiry t sec => Sys2Proof.Machine.execDoneTimerExpiry t sec s
  | .cooldownExpiry t sec => Sys2Proof.Machine.execCooldownExpiry t sec s
  | .auxPulseExpiry t u => Sys2Proof.Machine.execAuxPulseExpiry t u s
  | .checkItem t => Sys2Proof.Machine.execCheckItem t s
  | .selectTable t last table => Sys2Proof.Machine.execSelectTable t last table s
  | .selectIndex t last index => Sys2Proof.Machine.execSelectIndex t last index s
  | .write t last image => Sys2Proof.Machine.execWrite t last image s
  | .read t last => Sys2Proof.Machine.execRead t last s
  | .modeConfig t last => Sys2Proof.Machine.execModeConfig t last s
  | .modeRun t last => Sys2Proof.Machine.execModeRun t last s
  | .modeHold t last => Sys2Proof.Machine.execModeHold t last s
  | .modeResume t last => Sys2Proof.Machine.execModeResume t last s
  | .modeStop t last => Sys2Proof.Machine.execModeStop t last s
  | .placeBoat t last boat cls zone route => Sys2Proof.Machine.execPlaceBoat t last boat cls zone route s
  | .retireBoat t last boat => Sys2Proof.Machine.execRetireBoat t last boat s
  | .setRoute t last boat route => Sys2Proof.Machine.execSetRoute t last boat route s
  | .clearZone t last zone => Sys2Proof.Machine.execClearZone t last zone s
  | .injectTrigger t last channel => Sys2Proof.Machine.execInjectTrigger t last channel s
  | .clearCounters t last => Sys2Proof.Machine.execClearCounters t last s
  | .noticeMask t last mask => Sys2Proof.Machine.execNoticeMask t last mask s
  | .status t last => Sys2Proof.Machine.execStatus t last s
  | .resetRuntime t last => Sys2Proof.Machine.execResetRuntime t last s
  | .resetFull t last => Sys2Proof.Machine.execResetFull t last s

end Sys2Proof.Machine
end

