-- ==== Sys2Proof/Safety.lean ====
section
/-! DEFINITION. What counts as a sound state of the part: the bounds and agreements the manual states of its state, each
kept by every step. -/

namespace Sys2Proof.Machine

/-- No queue holds more than the manual lets it hold: forward queues 8 frames (R168), origin queues 16 (R169), the notice
queue 16 (R180), a request in progress 8 results (R173). -/
def State.queuesBounded (s : State) : Prop :=
  s.up.fwd.length ≤ 8 ∧ s.dn.fwd.length ≤ 8 ∧ s.up.origin.length ≤ 16 ∧ s.dn.origin.length ≤ 16 ∧
    s.notices.length ≤ 16 ∧ ∀ r, s.req = some r → r.count ≤ 8

/-- Tags lie between 0 and 15 (R127), and every counter between 0 and 65535 (R179). -/
def State.numbersBounded (s : State) : Prop := s.tag < 16 ∧ ∀ c : Counter, s.counter c ≤ 65535

/-- The actuator command list holds at most one entry for each authority index, 0 to 63 (R127). -/
def State.listUnique (s : State) : Prop := (s.cmds.map CmdEntry.act).Nodup ∧ ∀ e ∈ s.cmds, e.act < 64

/-- STOP OUT is high exactly in STOP (R141), and a check is in progress exactly in CHECKING (R145). -/
def State.modeSound (s : State) : Prop :=
  (s.mc.stopOut = true ↔ s.mode = .stop) ∧ (s.mc.check.isSome = true ↔ s.mode = .checking)

/-- The boat register and the zone status agree: a boat record and the zone it names name each other (R18), and no zone
has both an occupant and a reservation holder (R10). -/
def State.occupancySound (s : State) : Prop :=
  (∀ b x, s.boatR b = some x → s.occupant x.zone = some b) ∧
  (∀ z b, s.occupant z = some b → ∃ x, s.boatR b = some x ∧ x.zone = z) ∧
  (∀ z, (s.occupant z).isSome = true → (s.zst z).reserved = none)

/-- The reservation queue holds at most 24 entries and at most one for each boat, and a boat has an entry exactly while it is
REQUESTED (R43). A WAITING or REQUESTED boat has no path (R20), and a release that waits on a switch throw is that of its own
GRANTED boat (R51, R52). -/
def State.reservationsSound (s : State) : Prop :=
  s.queue.length ≤ 24 ∧ (s.queue.map QEntry.boat).Nodup ∧
  (∀ e ∈ s.queue, ∃ x, s.boatR e.boat = some x ∧ x.state = .requested) ∧
  (∀ b x, s.boatR b = some x → x.state = .requested → ∃ e ∈ s.queue, e.boat = b) ∧
  (∀ b x, s.boatR b = some x → x.state = .waiting ∨ x.state = .requested → x.path = []) ∧
  ∀ b r a, s.release b = some r → r.stage = .throw a → r.entry.boat = b ∧ ∃ x, s.boatR b = some x ∧ x.state = .granted

/-- In CONFIG, CHECKING and STOP every launch sequencer is IDLE (R94). -/
def State.sequencersSound (s : State) : Prop :=
  s.mode = .config ∨ s.mode = .checking ∨ s.mode = .stop → (s.seqS 0).state = .idle ∧ (s.seqS 1).state = .idle

/-- Every auxiliary line has the level its pulse timer and its FOLLOW user give it (R154). -/
def State.linesSound (s : State) : Prop := ∀ u, u < 8 → s.lines[u]? = some (s.auxLine u)

/-- A defined actuator has a commanded value of its own kind; an undefined one has none and is not confirmed (R126). -/
def State.actuatorsSound (s : State) : Prop :=
  ∀ a, a < 64 → match s.authE a with
    | none => s.actS a = .none
    | some e => ∃ v, (s.actS a).commanded = some v ∧ v.kind = e.kind

/-- The NODE hold of a defined zone is present exactly while some node of its depends list is not ACTIVE (R12), and its USER
hold exactly while its user latch is set or a FOLLOW HOLD user naming it has a high level (R13). -/
def State.holdsSound (s : State) : Prop :=
  ∀ z e, s.zoneE z = some e →
    (s.zst z).nodeHold = s.wantsNodeHold e ∧ (s.zst z).userHold = ((s.zst z).latch || s.followHolds.contains z)

/-- In CONFIG, CHECKING and STOP every gate of a defined zone is commanded CLOSE (R142) and every stage of a defined run
ENGAGE (R114); a run has at most 8 stages (R101). -/
def State.restSound (s : State) : Prop :=
  (∀ r e, s.runE r = some e → e.stages ≤ 8) ∧
  (s.mode.fullBrake = true →
    (∀ z e a x, s.zoneE z = some e → e.gate = some a → s.authE a = some x → x.kind = .gate →
      (s.actS a).commanded = some .gateClose) ∧
    (∀ r e i x, s.runE r = some e → i < e.stages → s.authE (s.stageOf r i).fin = some x → x.kind = .fin →
      (s.actS (s.stageOf r i).fin).commanded = some .finEngage))

/-! ### Words for statements -/

/-- Command `c` completes from `s`, in a state with a property. -/
def Completes (c : Instr) (s : State) (Q : State → Prop) : Prop := ∃ u, exec c s = .next u ∧ Q u

/-- A NOTICE frame that waits on the upline port, or is being sent there, carries a notice (R171). -/
def State.carriesNotice (s : State) (n : Notice) : Prop :=
  ∃ f, (s.up.tx = some f ∨ f ∈ s.up.origin) ∧ ∃ l : List Notice, n ∈ l ∧ f.bytes = s.supervisorFrame 8 (l.map noticeRecord)

/-- Between `s` and `u` a notice has been sent, if its kind is enabled: it is queued or in a frame, unless a notice has been
dropped and counted for want of room (R180). -/
def State.noticed (s u : State) (n : Notice) : Prop :=
  s.mask.getLsbD n.kind = true →
    n ∈ u.notices ∨ u.carriesNotice n ∨ s.counter .noticesDropped < u.counter .noticesDropped ∨
      65535 ≤ s.counter .noticesDropped

/-- Between `s` and `u` a counter has advanced by one, or stays at 65535 (R179). -/
def State.counted (s u : State) (c : Counter) : Prop := u.counter c = min (s.counter c + 1) 65535

/-- A request for HOLD has been taken: RUN becomes HOLD, CHECKING sets hold pending, and the other modes stay (R139). -/
def State.holdTaken (s u : State) : Prop :=
  match s.mode with
  | .run => u.mode = .hold
  | .checking => u.mode = .checking ∧ u.mc.holdPending = true
  | .config => u.mode = .config
  | .hold => u.mode = .hold
  | .stop => u.mode = .stop

/-- The table of R138: the result and the mode that follow a MODE record of a value in a state. -/
def State.modeAnswer (s : State) (value : Nat) : Code × Mode :=
  match value, s.mode with
  | 1, .config => if s.mc.estop then (.mode, .config) else (.ok, .checking)
  | 1, .checking => (.busy, .checking)
  | 1, .run => (.ok, .run)
  | 1, .hold => if s.anyFault ∨ s.mc.estop = true then (.mode, .hold) else (.ok, .run)
  | 1, .stop => (.mode, .stop)
  | 2, .config => (.mode, .config)
  | 2, .checking => (.ok, .checking)
  | 2, .run => (.ok, .hold)
  | 2, .hold => (.ok, .hold)
  | 2, .stop => (.mode, .stop)
  | 3, .stop => if s.mc.estop then (.mode, .stop) else if s.mc.layoutChecked then (.ok, .hold) else (.ok, .config)
  | 3, m => (.mode, m)
  | 4, _ => (.ok, .stop)
  | 0, .config => (.ok, .config)
  | 0, .checking => (.busy, .checking)
  | 0, .run => (.mode, .run)
  | 0, m => if s.mc.estop then (.mode, m) else if s.anyCommitted then (.conflict, m) else (.ok, .config)
  | _, m => (.value, m)

/-- A management record taken as the only record so far of a request frame has this one result. -/
def State.answered (u : State) (r : MgmtResult) : Prop := u.req = some ⟨[r], none, none, false, false⟩

/-- No request is open and no response is held: a management record begins a request of its own (R173). -/
def State.requestFree (s : State) : Prop := s.req = none ∧ s.held = none

/-- Nothing moves in `s` but what a command itself does: nothing is set aside for the end of an event, the holds stand as their
rules give them, and no launch is charging, which an inhibit could abort. -/
def State.quiet (s : State) : Prop := s.ev = Ev.none ∧ s.holdsSound ∧ ∀ k, k < 2 → (s.seqS k).state ≠ .charging

/-- A response of these results stands first in line, is being sent, or is held for want of room (R169, R173). -/
def State.responded (u : State) (l : List MgmtResult) : Prop :=
  ∃ f, (u.up.tx = some f ∨ f ∈ u.up.origin ∨ (u.held = some f ∧ u.up.room = false)) ∧
    f.bytes = u.supervisorFrame 7 (l.map resultRecord)

/-- A frame waits in a port's forward queue, or is being sent there. -/
def PortState.forwards (p : PortState) (f : QFrame) : Prop := f ∈ p.fwd ∨ p.tx = some f

/-- The state after commands taken one after another. -/
def State.afterAll (s : State) (l : List Instr) : State :=
  l.foldl (fun s c => match exec c s with
    | .next u => u
    | .fault _ => s
    | .refused _ => s) s

/-- From zone `z` the walk passes the zones of a list, each defined, not stoppable and not the origin `o`, each next one the main
successor of the one before, and comes to `y` (R40). -/
def State.passesTo (s : State) (o : Nat) : Nat → List Nat → Nat → Prop
  | z, [], y => z = y
  | z, w :: l, y => w = z ∧ w ≠ o ∧ ∃ e, s.zoneE w = some e ∧ e.kind.stoppable = false ∧ s.passesTo o e.main l y

/-! ### Entries as their rules allow them -/

/-- An optional number is at most `m`. -/
def atMost (m : Nat) (o : Option Nat) : Prop := ∀ a, o = some a → a ≤ m

/-- A zone entry within the values of R1 to R3 and R6 to R8. -/
def ZoneEntry.fits (e : ZoneEntry) : Prop :=
  e.main ≤ 63 ∧ atMost 63 e.alt ∧ atMost 63 e.switch ∧ e.markerNode ≤ 47 ∧ e.markerSensor ≤ 7 ∧ atMost 63 e.gate ∧
  100 ≤ e.transit ∧ e.transit ≤ 60000 ∧ (∀ v, e.speedLimit = some v → 500 ≤ v ∧ v ≤ 20000) ∧
  e.depends.length ≤ 4 ∧ e.depends.Nodup ∧ (∀ n ∈ e.depends, n ≤ 47) ∧ atMost 5 e.berth ∧ atMost 1 e.sec ∧ atMost 1 e.run ∧
  (e.kind ≠ .transfer → e.alt = none ∧ e.switch = none) ∧ (e.kind.gated = true → e.gate.isSome = true) ∧
  (e.berth.isSome = true ↔ e.kind = .berth ∨ e.kind = .launch) ∧ (e.sec.isSome = true ↔ e.kind = .launch) ∧
  (e.run.isSome = true ↔ e.kind = .brakeRun)
/-- A class within the values of R9. -/
def ClassEntry.fits (e : ClassEntry) : Prop := 100 ≤ e.empty ∧ e.empty ≤ 800 ∧ e.empty ≤ e.max ∧ e.max ≤ 1500
/-- A node entry within the values of R117. -/
def NodeEntry.fits (e : NodeEntry) : Prop := 8 ≤ e.address ∧ e.address ≤ 95 ∧ e.limit1 ≤ 65535 ∧ e.limit2 ≤ 65535
/-- An authority entry within the values of R124. -/
def AuthEntry.fits (e : AuthEntry) : Prop := e.node ≤ 47 ∧ e.num ≤ 15
/-- A trap within the values of R96. -/
def TrapEntry.fits (e : TrapEntry) : Prop :=
  e.node ≤ 47 ∧ e.pair ≤ 1 ∧ 50 ≤ e.spacing ∧ e.spacing ≤ 2000 ∧ e.zone ≤ 63 ∧ atMost 1 e.run ∧
  (e.run.isSome = true ↔ e.use = .brake)
/-- A launch section within the values of R80. -/
def LaunchEntry.fits (e : LaunchEntry) : Prop :=
  e.zone ≤ 63 ∧ e.booster ≤ 63 ∧ e.trap ≤ 7 ∧ e.run ≤ 1 ∧ 100 ≤ e.charge ∧ e.charge ≤ 5000 ∧ e.cooldown ≤ 30000 ∧ e.tolerance ≤ 25
/-- A mass band within the values of R81. -/
def BandEntry.fits (e : BandEntry) : Prop := e.upper ≤ 4095 ∧ 500 ≤ e.target ∧ e.target ≤ 15000 ∧ e.drop ≤ 20000
/-- A brake run within the values of R101. -/
def RunEntry.fits (e : RunEntry) : Prop :=
  e.zone ≤ 63 ∧ 1000 ≤ e.length ∧ e.length ≤ 60000 ∧ e.exit ≤ 5000 ∧ e.passive ≤ 20000 ∧ e.maxEntry ≤ 20000 ∧ e.water ≤ 200 ∧
  1 ≤ e.stages ∧ e.stages ≤ 8 ∧ e.minStages ≤ e.stages
/-- A brake stage within the values of R102. -/
def StageEntry.fits (e : StageEntry) : Prop := e.fin ≤ 63 ∧ e.nominal ≤ 20000 ∧ -16 ≤ e.trim ∧ e.trim ≤ 15
/-- A berth within the values of R60. -/
def BerthEntry.fits (e : BerthEntry) : Prop :=
  e.zone ≤ 63 ∧ e.node ≤ 47 ∧ e.lamp ≤ 63 ∧ e.lock ≤ 63 ∧ atMost 3 e.scale ∧ atMost 3 e.reader ∧
  (e.scale.isSome = true ↔ e.role = .pad) ∧ (e.reader.isSome = true ↔ e.role = .unload)
/-- A generator that R149 allows on channel `c`. -/
def Gen.fits (c : Nat) : Gen → Prop
  | .modeIs _ => True
  | .zoneOccupied z => z ≤ 63 ∧ (z ≤ 31 ↔ c % 2 = 0)
  | .nodeActive n => n ≤ 47 ∧ 8 ≤ c
  | .nodeInput n i => n ≤ 47 ∧ i ≤ 3 ∧ 8 ≤ c
  | .estopLine => True
  | .passage z => z ≤ 63 ∧ (z ≤ 31 ↔ c % 2 = 0)
  | .trapDone i => i ≤ 7
  | .launchFired k => k ≤ 1
  | .brakeSet r => r ≤ 1
  | .berthButton b => b ≤ 5
  | .holdEntered => True
/-- A user entry within the values of R152 for user `u`. -/
def UserEntry.fits (u : Nat) (e : UserEntry) : Prop :=
  e.chan ≤ 12 ∧ (u < 8 → 1 ≤ e.param ∧ e.param ≤ 2000) ∧ (8 ≤ u → u < 16 → e.param ≤ 63) ∧ (16 ≤ u → u < 20 → e.param = 0) ∧
  (20 ≤ u → e.mode = .follow ∧ e.param ≤ 1)

/-- An image of 26 bytes from the numbers of its first bytes, the rest zero (R186). -/
def bytes26 (l : List Nat) : List Byte := zeroFill 26 (l.map byteOf)
/-- The two bytes of a number, high byte first (R183). -/
def hiLo (n : Nat) : List Nat := [n / 256, n]
/-- The three bytes of an elapsed time (R183). -/
def elapsedBytes (now : Nat) : Option Nat → List Nat
  | none => [0, 0, 0]
  | some start => 1 :: hiLo (min (now - start) 65535)

/-! ### What the table check asks of an entry (R146) -/

/-- What items 1 to 4 ask of a defined zone. -/
def State.zonePasses (s : State) (item z : Nat) (e : ZoneEntry) : Prop :=
  match item with
  | 1 => ∀ y, y = e.main ∨ e.alt = some y → (s.zoneE y).isSome = true ∧ y ≠ z
  | 2 => e.alt.isSome = e.switch.isSome
  | 3 => e.gate.isSome = true ↔ e.kind = .berth ∨ e.kind = .queue ∨ e.kind = .transfer ∨ e.kind = .brakeRun
  | _ => e.kind.stoppable = true → (∃ p, s.walk z .main = .ok p) ∧
      (e.kind = .transfer → e.alt.isSome = true → ∃ p, s.walk z .bay = .ok p)

/-- An entry of a table names actuator `a` in a field that requires a kind (item 8). -/
def State.names (s : State) (t : Table) (i a : Nat) (k : ActKind) : Prop :=
  (∃ e, t = .zone ∧ s.zoneE i = some e ∧ ((e.gate = some a ∧ k = .gate) ∨ (e.switch = some a ∧ k = .switch))) ∨
  (∃ e, t = .berth ∧ s.berthE i = some e ∧ ((a = e.lamp ∧ k = .lamp) ∨ (a = e.lock ∧ k = .lock))) ∨
  (∃ e, t = .launch ∧ s.launchE i = some e ∧ a = e.booster ∧ k = .booster) ∨
  ∃ e, t = .stage ∧ i < 16 ∧ s.runE (i / 8) = some e ∧ i % 8 < e.stages ∧ a = (s.stageE i).fin ∧ k = .fin

/-- Item 5 passes: what names a zone and the zone name each other, and every use of a trap fits (R60, R80, R96, R101);
that a trap's run has to be defined is the model's choice (log 25). -/
def State.backReferencesPass (s : State) : Prop :=
  (∀ z e, s.zoneE z = some e →
    (∀ b, e.berth = some b → ∃ x, s.berthE b = some x ∧ x.zone = z) ∧
    (∀ k, e.sec = some k → ∃ x, s.launchE k = some x ∧ x.zone = z) ∧
    ∀ r, e.run = some r → ∃ x, s.runE r = some x ∧ x.zone = z) ∧
  (∀ b e, s.berthE b = some e → ∃ x, s.zoneE e.zone = some x ∧ x.berth = some b ∧
    x.kind = (if e.role = .pad then .launch else .berth)) ∧
  (∀ k e, s.launchE k = some e → (∃ x, s.zoneE e.zone = some x ∧ x.kind = .launch ∧ x.sec = some k) ∧
    ∃ x, s.trapE e.trap = some x ∧ x.use = .launch) ∧
  (∀ i e, s.trapE i = some e → (s.zoneE e.zone).isSome = true ∧
    (∀ r, e.run = some r → ∃ x, s.runE r = some x ∧ x.zone = e.zone) ∧
    (e.use = .launch → ∃ k x, s.launchE k = some x ∧ x.trap = i)) ∧
  ∀ r e, s.runE r = some e → (∃ x, s.zoneE e.zone = some x ∧ x.kind = .brakeRun ∧ x.run = some r) ∧
    ∃ i x, s.trapE i = some x ∧ x.use = .brake ∧ x.run = some r ∧
      ∀ j y, s.trapE j = some y → y.use = .brake → y.run = some r → j = i

end Sys2Proof.Machine

namespace Sys2Proof

/-! ### Groups of commands, for statements about what no command of a group changes -/

/-- The command is a management record (R186). -/
def Instr.isManagement : Instr → Bool
  | .powerOn _ _ _ _ => false
  | .estopAsserted _ => false
  | .estopReleased _ => false
  | .frameReceived _ _ _ _ => false
  | .frameSent _ _ => false
  | .actuatorFramePlace _ => false
  | .responsePlace _ => false
  | .noticeFrameBuild _ => false
  | .supervisorCommandResend _ => false
  | .marker _ _ _ _ => false
  | .trap _ _ _ _ => false
  | .berth _ _ _ _ _ => false
  | .weight _ _ _ _ _ => false
  | .tag _ _ _ _ => false
  | .boosterReady _ _ _ => false
  | .boosterDone _ _ _ => false
  | .heartbeat _ _ _ => false
  | .hello _ _ _ => false
  | .limitAck _ _ => false
  | .ackAccepted _ _ _ _ => false
  | .ackRefused _ _ _ _ => false
  | .ackTimerExpiry _ _ => false
  | .joinTimerExpiry _ _ => false
  | .nodeSilent _ _ => false
  | .nodeLostSilence _ _ => false
  | .watchExpiry _ _ => false
  | .chargeTimerExpiry _ _ => false
  | .doneTimerExpiry _ _ => false
  | .cooldownExpiry _ _ => false
  | .auxPulseExpiry _ _ => false
  | .checkItem _ => false
  | .selectTable _ _ _ => true
  | .selectIndex _ _ _ => true
  | .write _ _ _ => true
  | .read _ _ => true
  | .modeConfig _ _ => true
  | .modeRun _ _ => true
  | .modeHold _ _ => true
  | .modeResume _ _ => true
  | .modeStop _ _ => true
  | .placeBoat _ _ _ _ _ _ => true
  | .retireBoat _ _ _ => true
  | .setRoute _ _ _ _ => true
  | .clearZone _ _ _ => true
  | .injectTrigger _ _ _ => true
  | .clearCounters _ _ => true
  | .noticeMask _ _ _ => true
  | .status _ _ => true
  | .resetRuntime _ _ => true
  | .resetFull _ _ => true

/-- The command comes from a node's record, a timer, ESTOP, a transmitter or a queue that has gained room: everything but a
management record, a whole frame and the supply. -/
def Instr.atSite : Instr → Bool
  | .powerOn _ _ _ _ => false
  | .estopAsserted _ => true
  | .estopReleased _ => true
  | .frameReceived _ _ _ _ => false
  | .frameSent _ _ => true
  | .actuatorFramePlace _ => true
  | .responsePlace _ => true
  | .noticeFrameBuild _ => true
  | .supervisorCommandResend _ => true
  | .marker _ _ _ _ => true
  | .trap _ _ _ _ => true
  | .berth _ _ _ _ _ => true
  | .weight _ _ _ _ _ => true
  | .tag _ _ _ _ => true
  | .boosterReady _ _ _ => true
  | .boosterDone _ _ _ => true
  | .heartbeat _ _ _ => true
  | .hello _ _ _ => true
  | .limitAck _ _ => true
  | .ackAccepted _ _ _ _ => true
  | .ackRefused _ _ _ _ => true
  | .ackTimerExpiry _ _ => true
  | .joinTimerExpiry _ _ => true
  | .nodeSilent _ _ => true
  | .nodeLostSilence _ _ => true
  | .watchExpiry _ _ => true
  | .chargeTimerExpiry _ _ => true
  | .doneTimerExpiry _ _ => true
  | .cooldownExpiry _ _ => true
  | .auxPulseExpiry _ _ => true
  | .checkItem _ => true
  | .selectTable _ _ _ => false
  | .selectIndex _ _ _ => false
  | .write _ _ _ => false
  | .read _ _ => false
  | .modeConfig _ _ => false
  | .modeRun _ _ => false
  | .modeHold _ _ => false
  | .modeResume _ _ => false
  | .modeStop _ _ => false
  | .placeBoat _ _ _ _ _ _ => false
  | .retireBoat _ _ _ => false
  | .setRoute _ _ _ _ => false
  | .clearZone _ _ _ => false
  | .injectTrigger _ _ _ => false
  | .clearCounters _ _ => false
  | .noticeMask _ _ _ => false
  | .status _ _ => false
  | .resetRuntime _ _ => false
  | .resetFull _ _ => false

/-- The moment at which a command is taken (log 1). -/
def Instr.time : Instr → Nat
  | .powerOn t _ _ _ => t
  | .estopAsserted t => t
  | .estopReleased t => t
  | .frameReceived t _ _ _ => t
  | .frameSent t _ => t
  | .actuatorFramePlace t => t
  | .responsePlace t => t
  | .noticeFrameBuild t => t
  | .supervisorCommandResend t => t
  | .marker t _ _ _ => t
  | .trap t _ _ _ => t
  | .berth t _ _ _ _ => t
  | .weight t _ _ _ _ => t
  | .tag t _ _ _ => t
  | .boosterReady t _ _ => t
  | .boosterDone t _ _ => t
  | .heartbeat t _ _ => t
  | .hello t _ _ => t
  | .limitAck t _ => t
  | .ackAccepted t _ _ _ => t
  | .ackRefused t _ _ _ => t
  | .ackTimerExpiry t _ => t
  | .joinTimerExpiry t _ => t
  | .nodeSilent t _ => t
  | .nodeLostSilence t _ => t
  | .watchExpiry t _ => t
  | .chargeTimerExpiry t _ => t
  | .doneTimerExpiry t _ => t
  | .cooldownExpiry t _ => t
  | .auxPulseExpiry t _ => t
  | .checkItem t => t
  | .selectTable t _ _ => t
  | .selectIndex t _ _ => t
  | .write t _ _ => t
  | .read t _ => t
  | .modeConfig t _ => t
  | .modeRun t _ => t
  | .modeHold t _ => t
  | .modeResume t _ => t
  | .modeStop t _ => t
  | .placeBoat t _ _ _ _ _ => t
  | .retireBoat t _ _ => t
  | .setRoute t _ _ _ => t
  | .clearZone t _ _ => t
  | .injectTrigger t _ _ => t
  | .clearCounters t _ => t
  | .noticeMask t _ _ => t
  | .status t _ => t
  | .resetRuntime t _ => t
  | .resetFull t _ => t

/-- A management record is the last of its frame (log 5); false for every other command. -/
def Instr.last : Instr → Bool
  | .selectTable _ last _ => last
  | .selectIndex _ last _ => last
  | .write _ last _ => last
  | .read _ last => last
  | .modeConfig _ last => last
  | .modeRun _ last => last
  | .modeHold _ last => last
  | .modeResume _ last => last
  | .modeStop _ last => last
  | .placeBoat _ last _ _ _ _ => last
  | .retireBoat _ last _ => last
  | .setRoute _ last _ _ => last
  | .clearZone _ last _ => last
  | .injectTrigger _ last _ => last
  | .clearCounters _ last => last
  | .noticeMask _ last _ => last
  | .status _ last => last
  | .resetRuntime _ last => last
  | .resetFull _ last => last
  | _ => false

/-- Commands that no rule lets touch mode control. -/
def Instr.keepsMode : Instr → Bool
  | .frameSent _ _ => true
  | .actuatorFramePlace _ => true
  | .responsePlace _ => true
  | .noticeFrameBuild _ => true
  | .supervisorCommandResend _ => true
  | .weight _ _ _ _ _ => true
  | .boosterReady _ _ _ => true
  | .heartbeat _ _ _ => true
  | .hello _ _ _ => true
  | .limitAck _ _ => true
  | .ackAccepted _ _ _ _ => true
  | .joinTimerExpiry _ _ => true
  | .nodeSilent _ _ => true
  | .chargeTimerExpiry _ _ => true
  | .cooldownExpiry _ _ => true
  | .auxPulseExpiry _ _ => true
  | _ => false

/-- Commands that no rule lets touch a brake run. -/
def Instr.keepsRuns : Instr → Bool
  | .estopReleased _ => true
  | .frameSent _ _ => true
  | .actuatorFramePlace _ => true
  | .responsePlace _ => true
  | .noticeFrameBuild _ => true
  | .supervisorCommandResend _ => true
  | .weight _ _ _ _ _ => true
  | .tag _ _ _ _ => true
  | .boosterReady _ _ _ => true
  | .boosterDone _ _ _ => true
  | .heartbeat _ _ _ => true
  | .limitAck _ _ => true
  | .nodeSilent _ _ => true
  | .watchExpiry _ _ => true
  | .chargeTimerExpiry _ _ => true
  | .doneTimerExpiry _ _ => true
  | .cooldownExpiry _ _ => true
  | .auxPulseExpiry _ _ => true
  | _ => false

/-- Commands that no rule lets touch a roster state or an input level. -/
def Instr.keepsRoster : Instr → Bool
  | .estopAsserted _ => true
  | .estopReleased _ => true
  | .frameSent _ _ => true
  | .actuatorFramePlace _ => true
  | .responsePlace _ => true
  | .noticeFrameBuild _ => true
  | .supervisorCommandResend _ => true
  | .marker _ _ _ _ => true
  | .trap _ _ _ _ => true
  | .berth _ _ _ _ _ => true
  | .weight _ _ _ _ _ => true
  | .tag _ _ _ _ => true
  | .boosterReady _ _ _ => true
  | .boosterDone _ _ _ => true
  | .watchExpiry _ _ => true
  | .chargeTimerExpiry _ _ => true
  | .doneTimerExpiry _ _ => true
  | .cooldownExpiry _ _ => true
  | .auxPulseExpiry _ _ => true
  | .checkItem _ => true
  | _ => false

namespace Machine

/-- The command of a node record that came from a source address; a report or result code outside its values has none. -/
def NodeRecord.toCommand (t src : Nat) : NodeRecord → Option Instr
  | .marker sensor edge => some (.marker t src sensor edge)
  | .trap pair interval => some (.trap t src pair interval)
  | .berth presence latch button => some (.berth t src presence latch button)
  | .weight scale kg flag => some (.weight t src scale kg (flagOf flag))
  | .tag reader number => some (.tag t src reader number)
  | .booster num 0 => some (.boosterReady t src num)
  | .booster num 1 => some (.boosterDone t src num)
  | .booster _ _ => none
  | .heartbeat inputs => some (.heartbeat t src inputs)
  | .hello kind => some (.hello t src kind)
  | .limitAck => some (.limitAck t src)
  | .ack num tagNo 0 => some (.ackAccepted t src num tagNo)
  | .ack num tagNo 1 => some (.ackRefused t src num tagNo)
  | .ack _ _ _ => none

/-- The command of a management record; a MODE or RESET value outside its values has none. -/
def MgmtRecord.toCommand (t : Nat) (last : Bool) : MgmtRecord → Option Instr
  | .selectTable table => some (.selectTable t last table)
  | .selectIndex index => some (.selectIndex t last index)
  | .write image => some (.write t last image)
  | .read => some (.read t last)
  | .mode 0 => some (.modeConfig t last)
  | .mode 1 => some (.modeRun t last)
  | .mode 2 => some (.modeHold t last)
  | .mode 3 => some (.modeResume t last)
  | .mode 4 => some (.modeStop t last)
  | .mode _ => none
  | .placeBoat boat cls zone route => some (.placeBoat t last boat cls zone route)
  | .retireBoat boat => some (.retireBoat t last boat)
  | .setRoute boat route => some (.setRoute t last boat route)
  | .clearZone zone => some (.clearZone t last zone)
  | .injectTrigger channel => some (.injectTrigger t last channel)
  | .clearCounters => some (.clearCounters t last)
  | .noticeMask mask => some (.noticeMask t last mask)
  | .status => some (.status t last)
  | .reset 0 => some (.resetRuntime t last)
  | .reset 1 => some (.resetFull t last)
  | .reset _ => none

end Machine

end Sys2Proof
end

