-- ==== Sys2Proof/Certificates/Slice0/Obligations.lean ====
section
/-! DEFINITION. The statements for the provers, from the numbered rules of the manual. -/

open Sys2Proof Sys2Proof.Machine

/-! ### Steps, completion, and what every step keeps -/

/-- A step takes the command at the front of the queue and runs it with the rest left waiting; with nothing waiting the part
idles (the model's choice, log 3). -/
def Obligations.StepTakesFrontCommand : Prop :=
  (∀ c rest (s : State), step { s with pending := c :: rest } = exec c { s with pending := rest }) ∧
    ∀ (s : State), step { s with pending := [] } = .next { s with pending := [] }

/-- Every command completes from every state, leaves the queue alone and moves the clock to its own moment, never back
(log 1). -/
def Obligations.EveryCommandCompletes : Prop :=
  ∀ c (s : State), Completes c s fun u => u.pending = s.pending ∧ u.now = max s.now c.time

/-- Every invariant stated here holds right after power-on. -/
def Obligations.ResetIsSound : Prop :=
  State.reset.queuesBounded ∧ State.reset.numbersBounded ∧ State.reset.listUnique ∧ State.reset.modeSound ∧
    State.reset.occupancySound ∧ State.reset.sequencersSound ∧ State.reset.linesSound ∧ State.reset.actuatorsSound ∧
    State.reset.holdsSound ∧ State.reset.restSound ∧ State.reset.reservationsSound

/-- No step takes a queue of the part past its length, takes a tag or a counter out of its range, or puts two entries of one
actuator into the command list; the reservation queue keeps within its 24 entries, at most one for each boat, and a boat has one
exactly while it is REQUESTED (R43). -/
def Obligations.StepKeepsBounds : Prop :=
  (∀ s u : State, s.queuesBounded → step s = .next u → u.queuesBounded) ∧
  (∀ s u : State, s.numbersBounded → step s = .next u → u.numbersBounded) ∧
  (∀ s u : State, s.listUnique → step s = .next u → u.listUnique) ∧
  ∀ s u : State, s.reservationsSound → step s = .next u → u.reservationsSound

/-- Every step keeps STOP OUT with STOP and the check with CHECKING, and the launch sequencers IDLE in CONFIG, CHECKING and
STOP. -/
def Obligations.StepKeepsModeAndSequencersSound : Prop :=
  (∀ s u : State, s.modeSound → step s = .next u → u.modeSound) ∧
  ∀ s u : State, s.sequencersSound → step s = .next u → u.sequencersSound

/-- Every step keeps boats and zones in agreement. -/
def Obligations.StepKeepsOccupancySound : Prop := ∀ s u : State, s.occupancySound → step s = .next u → u.occupancySound

/-- Every step keeps the auxiliary lines at the levels of their users, and the NODE and USER holds as their rules give them. -/
def Obligations.StepKeepsLinesAndHoldsSound : Prop :=
  (∀ s u : State, s.linesSound → step s = .next u → u.linesSound) ∧
  ∀ s u : State, s.holdsSound → step s = .next u → u.holdsSound

/-- Every step keeps a commanded value of its own kind at every defined actuator. -/
def Obligations.StepKeepsActuatorsSound : Prop := ∀ s u : State, s.actuatorsSound → step s = .next u → u.actuatorsSound

/-- Every step keeps gates closed and fins engaged in CONFIG, CHECKING and STOP. -/
def Obligations.StepKeepsRestSound : Prop := ∀ s u : State, s.restSound → step s = .next u → u.restSound

/-! ### Frames: what groups of commands leave alone -/

/-- No command of the site touches a table, the line address and rate, the table pointer, the read holder, the request in
progress or the notice mask; and each group of commands leaves alone what no rule lets it touch. -/
def Obligations.SiteCommandsKeepTheirFrame : Prop :=
  (∀ c (s : State), c.atSite = true → Completes c s fun u => u.tab = s.tab ∧ u.addr = s.addr ∧ u.rate = s.rate ∧ u.ptr = s.ptr ∧
    u.holder = s.holder ∧ u.req = s.req ∧ u.mask = s.mask) ∧
  (∀ c (s : State), c.keepsMode = true → Completes c s fun u => u.mc = s.mc) ∧
  (∀ c (s : State), c.keepsRuns = true → Completes c s fun u => u.runs = s.runs) ∧
  ∀ c (s : State), c.keepsRoster = true → Completes c s fun u => u.inputs = s.inputs ∧
    ∀ n, (u.nodeS n).state = (s.nodeS n).state ∧ (u.nodeS n).lastHeard = (s.nodeS n).lastHeard ∧
      (u.nodeS n).localFault = (s.nodeS n).localFault

/-- Of the commands of the site only a MARKER moves a boat: every other leaves the occupants, and each boat's zone, class,
route and entry time, alone (R18). -/
def Obligations.OnlyMarkersMoveBoats : Prop :=
  ∀ c (s : State), c.atSite = true → (∀ t src sensor edge, c ≠ .marker t src sensor edge) → Completes c s fun u =>
    (∀ z, u.occupant z = s.occupant z) ∧
    ∀ b, (u.boatR b).map (fun x => (x.zone, x.cls, x.route, x.entryTime)) =
      (s.boatR b).map (fun x => (x.zone, x.cls, x.route, x.entryTime))

/-- No command of the site takes the ride out of STOP. -/
def Obligations.SiteCommandsKeepStop : Prop :=
  ∀ c (s : State), c.atSite = true → s.modeSound → s.mode = .stop → Completes c s fun u => u.mode = .stop

/-- A management record other than WRITE, with more to come in its frame, leaves tables, held inputs, the roster, address and
rate alone. -/
def Obligations.ManagementFrame : Prop :=
  ∀ c (s : State), c.isManagement = true → (∀ t last img, c ≠ .write t last img) → c.last = false → Completes c s fun u =>
    u.tab = s.tab ∧ u.inputs = s.inputs ∧ u.addr = s.addr ∧ u.rate = s.rate ∧ u.resendDue = s.resendDue ∧
    ∀ n, (u.nodeS n).state = (s.nodeS n).state ∧ (u.nodeS n).lastHeard = (s.nodeS n).lastHeard ∧
      (u.nodeS n).localFault = (s.nodeS n).localFault

/-! ### Supply and ESTOP -/

/-- POWER_ON with ESTOP released leaves every power-on value, with the straps sampled; with ESTOP asserted the mode goes on to
STOP. No other command changes address or rate. The model's own clock, queue and free choices go on (log 34). -/
def Obligations.PowerOnAndStraps : Prop :=
  (∀ t addr rate (s : State), exec (.powerOn t addr rate false) s = .next { State.reset with
    now := max s.now t, pending := s.pending, free := s.free, addr := 96 + addr % 4, rate := rate % 4 }) ∧
  (∀ t addr rate (s : State), Completes (.powerOn t addr rate true) s fun u =>
    u.mode = .stop ∧ u.mc.stopOut = true ∧ u.mc.estop = true ∧ u.mc.layoutChecked = false ∧ u.addr = 96 + addr % 4 ∧
    u.rate = rate % 4 ∧ u.tab = Tables.initial ∧ u.queue = [] ∧ u.cmds = [] ∧ (∀ b, u.boatR b = none) ∧
    u.carriesNotice (.modeChanged .stop .config .estop)) ∧
  ∀ c (s : State), (∀ t addr rate estop, c ≠ .powerOn t addr rate estop) → Completes c s fun u =>
    u.addr = s.addr ∧ u.rate = s.rate

/-- ESTOP asserted outside STOP brings STOP at once: STOP OUT, the notice, hold pending clear and layout checked kept; the
queue is empty, every reservation of a granted boat without a queue entry is returned, no boat is GRANTED, the sequencers are IDLE, gates are
commanded CLOSE, stages ENGAGE, boosters SAFE and SHARED actuators their safe values. In STOP it changes no mode; nor does a
release in any mode. -/
def Obligations.EstopBringsStop : Prop :=
  (∀ t (s : State), s.mode ≠ .stop → Completes (.estopAsserted t) s fun u =>
    u.mode = .stop ∧ u.mc.stopOut = true ∧ u.mc.estop = true ∧ u.mc.holdPending = false ∧ u.mc.check = none ∧
    u.mc.layoutChecked = s.mc.layoutChecked ∧ s.noticed u (.modeChanged .stop s.mode .estop) ∧ u.queue = [] ∧
    (∀ b x, u.boatR b = some x → x.state ≠ .granted) ∧
    (∀ b x z, s.boatR b = some x → x.state = .granted → s.queued b = false → z ∈ x.path → (u.zst z).reserved = none) ∧
    (∀ k, k < 2 → (u.seqS k).state = .idle) ∧
    (∀ z e a x, s.zoneE z = some e → e.gate = some a → s.authE a = some x → x.kind = .gate →
      (u.actS a).commanded = some .gateClose) ∧
    (∀ r e i x, s.runE r = some e → i < e.stages → s.authE (s.stageOf r i).fin = some x → x.kind = .fin →
      (u.actS (s.stageOf r i).fin).commanded = some .finEngage) ∧
    (∀ k e x, s.launchE k = some e → s.authE e.booster = some x → x.kind = .booster →
      (u.actS e.booster).commanded = some .boosterSafe) ∧
    (∀ a x, s.authE a = some x → x.owner = .shared → x.kind ≠ .lamp → x.kind ≠ .lock →
      (u.actS a).commanded = some x.kind.safe)) ∧
  (∀ t (s : State), s.mode = .stop → Completes (.estopAsserted t) s fun u => u.mc = { s.mc with estop := true }) ∧
  ∀ t (s : State), Completes (.estopReleased t) s fun u => u.mc = { s.mc with estop := false }

/-! ### The line -/

/-- A frame that fails the framing test advances the port's framing counter, one that fails the check its check counter, and
nothing else changes. That a source above 127 passes the framing test is the model's choice (log 46). -/
def Obligations.BadFramesAreCounted : Prop :=
  (∀ t p bytes bad (s : State), (bad = true ∨ bytes.length < 6 ∨ 128 ≤ frameDst bytes ∨ 240 < frameLen bytes ∨
      bytes.length ≠ 6 + frameLen bytes) →
    exec (.frameReceived t p bytes bad) s = .next ((s.at_ t).bump (framingCounter p))) ∧
  ∀ t p bytes (s : State), framingOk false bytes = true →
    checkCode (bytes.take (4 + frameLen bytes)) ≠ BitVec.ofNat 16 (wordAt bytes (4 + frameLen bytes)) →
    exec (.frameReceived t p bytes false) s = .next ((s.at_ t).bump (checkCounter p))

/-- A sound frame for another address that is no ACTUATOR_COMMAND and no MGMT_REQUEST goes on to the other port unchanged,
joining its forward queue where that has room, and is counted as received; behind a busy transmitter and 8 waiting frames it is
dropped and counted as an overrun (R164, R168). A chain that does not parse is counted as malformed and changes nothing of that;
addressed to the part on the downline port the frame is consumed (R163). A MGMT_REQUEST for another address goes on, a broadcast
one counted as foreign; addressed to the part, a frame of another kind or from another source is consumed and counted as foreign
(R164). That an ACTUATOR_COMMAND addressed to the part is such a frame, and that the sign of life comes first, is the model's reading
(log 12, 15). -/
def Obligations.FramesAreForwarded : Prop :=
  (∀ t bytes l (s : State), framingOk false bytes = true → checkOk bytes = true → parseFrame bytes = some l →
    frameDst bytes ≠ s.addr → frameKind bytes ≠ 2 → frameKind bytes ≠ 6 → s.dn.fwd.length < 8 →
    Completes (.frameReceived t .up bytes false) s fun u =>
      s.counted u .upReceived ∧ (⟨bytes, []⟩ ∈ u.dn.fwd ∨ u.dn.tx = some ⟨bytes, []⟩)) ∧
  (∀ t bytes l (s : State), framingOk false bytes = true → checkOk bytes = true → parseFrame bytes = some l →
    frameDst bytes ≠ s.addr → s.up.fwd.length < 8 →
    Completes (.frameReceived t .down bytes false) s fun u =>
      s.counted u .dnReceived ∧ (⟨bytes, []⟩ ∈ u.up.fwd ∨ u.up.tx = some ⟨bytes, []⟩)) ∧
  (∀ t bytes l f (s : State), framingOk false bytes = true → checkOk bytes = true → parseFrame bytes = some l →
    frameDst bytes ≠ s.addr → frameKind bytes ≠ 2 → frameKind bytes ≠ 6 → s.dn.fwd.length = 8 → s.dn.tx = some f →
    Completes (.frameReceived t .up bytes false) s fun u => s.counted u .dnOverrun ∧ u.dn.fwd = s.dn.fwd) ∧
  (∀ t bytes (s : State), framingOk false bytes = true → checkOk bytes = true → parseFrame bytes = none →
    frameDst bytes ≠ s.addr → frameKind bytes ≠ 2 → s.dn.fwd.length < 8 →
    Completes (.frameReceived t .up bytes false) s fun u =>
      s.counted u .upReceived ∧ s.counted u .malformed ∧ u.dn.forwards ⟨bytes, []⟩) ∧
  (∀ t bytes (s : State), framingOk false bytes = true → checkOk bytes = true → parseFrame bytes = none →
    frameDst bytes ≠ s.addr → s.up.fwd.length < 8 →
    Completes (.frameReceived t .down bytes false) s fun u =>
      s.counted u .dnReceived ∧ s.counted u .malformed ∧ u.up.forwards ⟨bytes, []⟩) ∧
  (∀ t bytes (s : State), framingOk false bytes = true → checkOk bytes = true → parseFrame bytes = none →
    frameDst bytes = s.addr →
    exec (.frameReceived t .down bytes false) s = .next
      ((State.event (fun s => s.heard (frameSrc bytes)) ((s.at_ t).bump .dnReceived)).bump .malformed)) ∧
  (∀ t bytes (s : State), framingOk false bytes = true → checkOk bytes = true → frameKind bytes = 6 →
    frameDst bytes ≠ s.addr → s.dn.fwd.length < 8 →
    Completes (.frameReceived t .up bytes false) s fun u => u.dn.forwards ⟨bytes, []⟩ ∧ u.req = s.req ∧ u.ptr = s.ptr ∧
      u.tab = s.tab ∧ (if frameDst bytes = 127 then s.counted u .foreign else u.counter .foreign = s.counter .foreign)) ∧
  (∀ t bytes l (s : State), framingOk false bytes = true → checkOk bytes = true → parseFrame bytes = some l →
    frameDst bytes = s.addr → (frameKind bytes ≠ 6 ∨ frameSrc bytes ≠ 1) →
    exec (.frameReceived t .up bytes false) s = .next
      ((State.event (fun s => s.heard (frameSrc bytes)) ((s.at_ t).bump .upReceived)).bump .foreign)) ∧
  ∀ t bytes l (s : State), framingOk false bytes = true → checkOk bytes = true → parseFrame bytes = some l →
    frameDst bytes = s.addr → frameKind bytes ≠ 1 → frameKind bytes ≠ 3 → frameKind bytes ≠ 4 →
    exec (.frameReceived t .down bytes false) s = .next
      ((State.event (fun s => s.heard (frameSrc bytes)) ((s.at_ t).bump .dnReceived)).bump .foreign)

/-- The forward rule of one port: the frame joins the tail while fewer than 8 wait, else it is dropped and counted; the
transmit arbiter takes the oldest frame out, and no step leaves more than 8. -/
def Obligations.ForwardQueueRule : Prop :=
  (∀ (s : State) (f : QFrame), s.up.fwd.length < 8 → s.forward .up f = ({ s with up := { s.up with fwd := s.up.fwd ++ [f] } } : State).pumpUp) ∧
  (∀ (s : State) (f : QFrame), s.dn.fwd.length < 8 → s.forward .down f = ({ s with dn := { s.dn with fwd := s.dn.fwd ++ [f] } } : State).pumpDn) ∧
  (∀ (s : State) (f : QFrame), 8 ≤ s.up.fwd.length → s.forward .up f = s.bump .upOverrun) ∧
  (∀ (s : State) (f : QFrame), 8 ≤ s.dn.fwd.length → s.forward .down f = s.bump .dnOverrun) ∧
  (∀ p : PortState, p.start.fwd = p.fwd ∨ ∃ f, p.fwd = f :: p.start.fwd ∧ p.tx = none ∧ p.start.tx = some f) ∧
  ∀ s u : State, s.queuesBounded → step s = .next u → u.up.fwd.length ≤ 8 ∧ u.dn.fwd.length ≤ 8

/-- A supervisor ACTUATOR_COMMAND frame, filtered record by record outside CONFIG: a record that names a CONTROLLER-owned
actuator, or stands in a broadcast, is removed, counted and reported; the others go on in their order in a frame rewritten where
one was removed, and as received where none was (R166). In CONFIG every record passes: the value of a LAMP, LOCK, SWITCH or
GENERIC actuator becomes its commanded value, unconfirmed, with its list entry removed; a GATE, FIN or BOOSTER actuator keeps its
own and is due to be handed it again when the frame has left (R167); SUPERVISOR and SHARED actuators keep their status. A chain
that does not parse is dropped and reported outside CONFIG and goes on in CONFIG (R163). An empty chain is dropped (the model's
reading, log 14). -/
def Obligations.SupervisorCommandsAreFiltered : Prop :=
  (∀ t bytes l f (s : State), framingOk false bytes = true → checkOk bytes = true → parseFrame bytes = some l →
    frameKind bytes = 2 → frameDst bytes ≠ s.addr → s.mode ≠ .config → s.numbersBounded → s.dn.tx = some f →
    Completes (.frameReceived t .up bytes false) s fun u =>
      u.counter .filtered = min (s.counter .filtered + (l.filter (s.removed (frameDst bytes))).length) 65535 ∧
      (∀ r ∈ l, s.removed (frameDst bytes) r = true →
        s.noticed u (.filteredAuthority (frameDst bytes) (byteAt r.body 0) s.mode)) ∧
      ((∀ r ∈ l, s.removed (frameDst bytes) r = true) → u.dn.fwd = s.dn.fwd)) ∧
  (∀ t bytes l (s : State), framingOk false bytes = true → checkOk bytes = true → parseFrame bytes = some l → l ≠ [] →
    frameKind bytes = 2 → frameDst bytes ≠ s.addr → s.mode ≠ .config → (∀ r ∈ l, s.removed (frameDst bytes) r = false) →
    s.dn.fwd.length < 8 →
    Completes (.frameReceived t .up bytes false) s fun u => u.dn.forwards ⟨bytes, []⟩) ∧
  (∀ t bytes l kept (s : State), framingOk false bytes = true → checkOk bytes = true → parseFrame bytes = some l →
    frameKind bytes = 2 → frameDst bytes ≠ s.addr → s.mode ≠ .config →
    kept = l.filter (fun r => !s.removed (frameDst bytes) r) → kept ≠ [] → kept ≠ l → s.dn.fwd.length < 8 →
    Completes (.frameReceived t .up bytes false) s fun u =>
      u.dn.forwards ⟨buildFrame (frameDst bytes) (frameSrc bytes) 2 (chainBytes kept), []⟩) ∧
  (∀ (s : State) dst r, s.removed dst r = true ↔ dst = 127 ∨ ∃ a e, a < 64 ∧ s.authE a = some e ∧
    e.num = byteAt r.body 0 ∧ e.owner = .controller ∧ s.nodeOfAddress dst = some e.node) ∧
  (∀ t bytes r a e v (s : State), framingOk false bytes = true → checkOk bytes = true → parseFrame bytes = some [r] →
    frameKind bytes = 2 → frameDst bytes ≠ s.addr → s.mode = .config → s.sequencersSound → s.dn.fwd.length < 8 →
    s.authE a = some e → e.num = byteAt r.body 0 → e.owner = .controller →
    (frameDst bytes = 127 ∨ s.nodeOfAddress (frameDst bytes) = some e.node) →
    ActValue.ofCode e.kind (byteAt r.body 2) (wordAt r.body 3) = some v →
    Completes (.frameReceived t .up bytes false) s fun u =>
      (e.kind = .lamp ∨ e.kind = .lock ∨ e.kind = .switch ∨ e.kind = .generic →
        u.actS a = ⟨some v, false⟩ ∧ ∀ c ∈ u.cmds, c.act ≠ a) ∧
      (e.kind = .gate ∨ e.kind = .fin ∨ e.kind = .booster → u.actS a = s.actS a) ∧
      ∃ l, u.dn.forwards ⟨bytes, l⟩ ∧ (a ∈ l ↔ e.kind = .gate ∨ e.kind = .fin ∨ e.kind = .booster)) ∧
  (∀ t bytes l a e (s : State), framingOk false bytes = true → checkOk bytes = true → parseFrame bytes = some l → l ≠ [] →
    frameKind bytes = 2 → frameDst bytes ≠ s.addr → s.mode = .config → s.quiet → s.sequencersSound → s.dn.fwd.length < 8 →
    s.authE a = some e → e.owner ≠ .controller →
    Completes (.frameReceived t .up bytes false) s fun u => u.actS a = s.actS a ∧ ∃ m, u.dn.forwards ⟨bytes, m⟩) ∧
  (∀ t bytes f (s : State), framingOk false bytes = true → checkOk bytes = true → parseFrame bytes = none →
    frameKind bytes = 2 → frameDst bytes ≠ s.addr → s.mode ≠ .config → s.dn.tx = some f →
    Completes (.frameReceived t .up bytes false) s fun u =>
      s.counted u .malformed ∧ s.noticed u (.filteredMalformed (frameDst bytes)) ∧ u.dn.fwd = s.dn.fwd) ∧
  (∀ t bytes (s : State), framingOk false bytes = true → checkOk bytes = true → parseFrame bytes = none →
    frameKind bytes = 2 → frameDst bytes ≠ s.addr → s.mode = .config → s.dn.fwd.length < 8 →
    Completes (.frameReceived t .up bytes false) s fun u => s.counted u .malformed ∧ u.dn.forwards ⟨bytes, []⟩) ∧
  ∀ t bytes f (s : State), framingOk false bytes = true → checkOk bytes = true → parseFrame bytes = some [] →
    frameKind bytes = 2 → frameDst bytes ≠ s.addr → s.dn.tx = some f →
    Completes (.frameReceived t .up bytes false) s fun u => u.dn.fwd = s.dn.fwd ∧ u.counter .filtered = s.counter .filtered

/-- A frame addressed to the part with one record is that record's command, taken in the state that the frame's sign of life
and its counter leave: node records on the downline port, management records on the upline port. That the two are the same is the
model's choice (log 4), that a management record's command then has `last` set too (log 5), and that the sign of life comes first,
as an event of its own, is the model's reading (log 12). -/
def Obligations.OneRecordFramesAreCommands : Prop :=
  (∀ t bytes raw r c (s : State), framingOk false bytes = true → checkOk bytes = true → parseFrame bytes = some [raw] →
    nodeRecord raw = some r → frameDst bytes = s.addr → frameKind bytes = 1 ∨ frameKind bytes = 3 ∨ frameKind bytes = 4 →
    r.toCommand t (frameSrc bytes) = some c →
    exec (.frameReceived t .down bytes false) s =
      exec c (State.event (fun s => s.heard (frameSrc bytes)) ((s.at_ t).bump .dnReceived))) ∧
  ∀ t bytes raw c (s : State), framingOk false bytes = true → checkOk bytes = true → parseFrame bytes = some [raw] →
    frameDst bytes = s.addr → frameKind bytes = 6 → frameSrc bytes = 1 → s.requestFree →
    (mgmtRecord raw).toCommand t true = some c →
    exec (.frameReceived t .up bytes false) s =
      exec c (State.event (fun s => s.heard (frameSrc bytes)) ((s.at_ t).bump .upReceived))

/-- A port that has sent its frame begins the oldest frame of the first class that has one: part frames of kind
ACTUATOR_COMMAND or NODE_LIMIT, then forwarded frames, then the part's other frames (R170). On the downline port the commands
a supervisor's frame carried become due to be handed again; that they are handed by a command of their own is the model's reading
(log 27). That FRAME_SENT at a port which sends nothing only lets the arbiter choose is the model's choice (log 28). -/
def Obligations.ArbiterTakesClassesInOrder : Prop :=
  (∀ t f (s : State), s.up.origin.find? QFrame.urgent = some f → Completes (.frameSent t .up) s fun u => u.up.tx = some f) ∧
  (∀ t f rest (s : State), s.up.origin.find? QFrame.urgent = none → s.up.fwd = f :: rest →
    Completes (.frameSent t .up) s fun u => u.up.tx = some f ∧ u.up.fwd = rest) ∧
  (∀ t f rest (s : State), s.up.origin.find? QFrame.urgent = none → s.up.fwd = [] → s.up.origin = f :: rest →
    Completes (.frameSent t .up) s fun u => u.up.tx = some f) ∧
  (∀ t f (s : State), s.dn.origin.find? QFrame.urgent = some f → Completes (.frameSent t .down) s fun u =>
    u.dn.tx = some f) ∧
  (∀ t (s : State), Completes (.frameSent t .down) s fun u =>
    u.resendDue = s.resendDue ++ ((s.dn.tx.map QFrame.resend).getD [])) ∧
  (∀ t f rest (s : State), s.dn.origin.find? QFrame.urgent = none → s.dn.fwd = f :: rest →
    Completes (.frameSent t .down) s fun u => u.dn.tx = some f ∧ u.dn.fwd = rest) ∧
  (∀ t f rest (s : State), s.dn.origin.find? QFrame.urgent = none → s.dn.fwd = [] → s.dn.origin = f :: rest →
    Completes (.frameSent t .down) s fun u => u.dn.tx = some f) ∧
  ∀ f : QFrame, f.urgent = true ↔ frameKind f.bytes = 2 ∨ frameKind f.bytes = 5

/-- With the port's transmitter busy and room in its origin queue: the actuator unit places a pending LIMIT record first, else
every unsent command of the oldest unsent command's node in one frame (R129); a held response is placed and held no longer
(R173); with none held up to 12 of the oldest notices leave in one frame (R171). -/
def Obligations.WaitingFramesArePlaced : Prop :=
  (∀ t n e f (s : State), s.dn.tx = some f → s.dn.room = true → s.nextLimit = some (n, e) →
    Completes (.actuatorFramePlace t) s fun u =>
      s.dn.origin ++ [⟨buildFrame e.address s.addr 5 (chainBytes [limitRecord e]), []⟩] <+: u.dn.origin) ∧
  (∀ t n e c f (s : State), s.dn.tx = some f → s.dn.room = true → s.nextLimit = none →
    s.cmds.find? (fun e => e.sent.isNone) = some c → s.actNode c.act = some n → s.nodeE n = some e →
    Completes (.actuatorFramePlace t) s fun u =>
      s.dn.origin ++ [⟨buildFrame e.address s.addr 2 (chainBytes ((s.unsentOf n).map fun c =>
        commandRecord (((s.authE c.act).map AuthEntry.num).getD 0) c.tag c.value)), []⟩] <+: u.dn.origin) ∧
  (∀ t f g (s : State), s.up.tx = some f → s.up.room = true → s.held = some g →
    Completes (.responsePlace t) s fun u => s.up.origin ++ [g] <+: u.up.origin ∧ u.held = none) ∧
  ∀ t f (s : State), s.up.tx = some f → s.up.room = true → s.held = none → s.notices ≠ [] → s.ev.holdNotices = false →
    Completes (.noticeFrameBuild t) s fun u =>
      s.up.origin ++ [⟨s.supervisorFrame 8 ((s.notices.take 12).map noticeRecord), []⟩] <+: u.up.origin

/-- What the supervisor's forwarded commands have left due is handed again in CONFIG: the actuator has its commanded value,
unconfirmed, and a list entry with it (R167). -/
def Obligations.SupervisorCommandsAreHandedBack : Prop :=
  ∀ t (s : State), s.mode = .config → s.sequencersSound → Completes (.supervisorCommandResend t) s fun u =>
    u.resendDue = [] ∧
    ∀ a e v, a ∈ s.resendDue → s.authE a = some e → (e.kind = .gate ∨ e.kind = .fin ∨ e.kind = .booster) →
      (s.nodeS e.node).state.present = true → (s.actS a).commanded = some v → v.kind = e.kind → v.inRange = true →
      u.actS a = ⟨some v, false⟩ ∧ ∃ c ∈ u.cmds, c.act = a ∧ c.value = v

/-- A record that matches nothing, or is malformed, only advances its counter (R25, R64, R77, R97, R92, R119, R130, R132, R185); an
ACK that is stale, or names an actuator above 15, is its node's sign of life besides (R118, R132). -/
def Obligations.UnusedRecordsAreCounted : Prop :=
  (∀ t src sensor edge (s : State), 7 < sensor ∨ 1 < edge →
    exec (.marker t src sensor edge) s = .next (State.event (fun s => s.bump .malformed) (s.at_ t))) ∧
  (∀ t src sensor (s : State), sensor ≤ 7 → exec (.marker t src sensor 1) s = .next (State.event id (s.at_ t))) ∧
  (∀ t src sensor (s : State), sensor ≤ 7 → ((s.nodeOfAddress src).bind fun n => s.zoneOfMarker n sensor) = none →
    exec (.marker t src sensor 0) s = .next (State.event (fun s => s.bump .unknownMarker) (s.at_ t))) ∧
  (∀ t src pair interval (s : State), 1 < pair →
    exec (.trap t src pair interval) s = .next (State.event (fun s => s.bump .malformed) (s.at_ t))) ∧
  (∀ t src pair interval (s : State), pair ≤ 1 → ((s.nodeOfAddress src).bind fun n => s.trapOf n pair) = none →
    exec (.trap t src pair interval) s = .next (State.event (fun s => s.bump .unmatchedTrap) (s.at_ t))) ∧
  (∀ t src p l x (s : State), s.berthOfSource src = none →
    exec (.berth t src p l x) s = .next (State.event (fun s => s.bump .unmatchedBerth) (s.at_ t))) ∧
  (∀ t src scale kg settled (s : State), (∀ b e, s.berthOfSource src = some (b, e) → e.role ≠ .pad ∨ e.scale ≠ some scale) →
    exec (.weight t src scale kg settled) s = .next (State.event (fun s => s.bump .unmatchedBerth) (s.at_ t))) ∧
  (∀ t src reader number b e (s : State), s.berthOfSource src = some (b, e) → e.role = .unload → e.reader ≠ some reader →
    exec (.tag t src reader number) s = .next (State.event (fun s => s.bump .unmatchedBerth) (s.at_ t))) ∧
  (∀ t src num (s : State), s.boosterMatch src num = none →
    exec (.boosterReady t src num) s = .next (State.event (fun s => s.bump .unmatchedBooster) (s.at_ t)) ∧
    exec (.boosterDone t src num) s = .next (State.event (fun s => s.bump .unmatchedBooster) (s.at_ t))) ∧
  (∀ t src num k (s : State), s.boosterMatch src num = some k → (s.seqS k).state ≠ .charging →
    exec (.boosterReady t src num) s = .next (State.event (fun s => s.bump .staleBooster) (s.at_ t))) ∧
  (∀ t src num k (s : State), s.boosterMatch src num = some k → (s.seqS k).state ≠ .charging → (s.seqS k).state ≠ .firing →
    exec (.boosterDone t src num) s = .next (State.event (fun s => s.bump .staleBooster) (s.at_ t))) ∧
  (∀ t src kind (s : State), 5 < kind →
    exec (.hello t src kind) s = .next (State.event (fun s => s.bump .malformed) (s.at_ t))) ∧
  (∀ t src kind (s : State), kind ≤ 5 → s.nodeOfAddress src = none →
    exec (.hello t src kind) s = .next (State.event (fun s => s.bump .unknownNode) (s.at_ t))) ∧
  (∀ t src num tagNo (s : State), s.nodeOfAddress src = none → num ≤ 15 →
    exec (.ackAccepted t src num tagNo) s = .next (State.event (fun s => s.bump .staleAck) (s.at_ t)) ∧
    exec (.ackRefused t src num tagNo) s = .next (State.event (fun s => s.bump .staleAck) (s.at_ t))) ∧
  (∀ t src num tagNo n (s : State), s.nodeOfAddress src = some n → num ≤ 15 →
    (∀ c ∈ s.cmds, ∀ x, s.authE c.act = some x → x.node = n → x.num = num → c.sent = none ∨ c.tag ≠ tagNo) →
    exec (.ackAccepted t src num tagNo) s = .next (State.event (fun s => (s.heard src).bump .staleAck) (s.at_ t)) ∧
    exec (.ackRefused t src num tagNo) s = .next (State.event (fun s => (s.heard src).bump .staleAck) (s.at_ t))) ∧
  ∀ t src num tagNo (s : State), 15 < num →
    exec (.ackAccepted t src num tagNo) s = .next (State.event (fun s => (s.heard src).bump .malformed) (s.at_ t)) ∧
    exec (.ackRefused t src num tagNo) s = .next (State.event (fun s => (s.heard src).bump .malformed) (s.at_ t))

/-! ### Passages, traps and brake runs -/

/-- Case 1 of a passage: the boat enters the first zone of its path (R27), with the trip fields cleared in a BERTH zone (R33);
no mode changes. -/
def Obligations.ExpectedPassageMovesBoat : Prop :=
  ∀ t src sensor n z b x rest (s : State), sensor ≤ 7 → s.nodeOfAddress src = some n → s.zoneOfMarker n sensor = some z →
    (s.zst z).reserved = some b → s.boatR b = some x → x.path = z :: rest → x.zone ≠ z → s.queued b = false →
    Completes (.marker t src sensor 0) s fun u =>
      u.occupant z = some b ∧ u.occupant x.zone = none ∧ (u.zst z).reserved = none ∧ (u.zst x.zone).watch = none ∧
      (∀ w, w ≠ z → w ≠ x.zone → u.occupant w = s.occupant w) ∧
      (∀ c, c ≠ b → (u.boatR c).map Boat.zone = (s.boatR c).map Boat.zone) ∧ u.mc = s.mc ∧
      ∃ y, u.boatR b = some y ∧ y.zone = z ∧ y.entryTime = max s.now t ∧ y.overdue = x.overdue ∧ y.cls = x.cls ∧
        y.route = x.route ∧ (rest ≠ [] → y.state = .moving ∧ y.path = rest) ∧
        (∀ e, s.zoneE z = some e → e.kind = .berth →
          y.weight = none ∧ y.lastSpeed = none ∧ y.band = none ∧ y.stageCount = none)

/-- Case 2 of a passage: the boat enters a later zone of its path; every zone passed over takes fault MISSED, loses its
reservation and is reported, and HOLD is asked for (R28). -/
def Obligations.SkippedPassageRaisesMissed : Prop :=
  ∀ t src sensor n z b x before rest (s : State), sensor ≤ 7 → s.nodeOfAddress src = some n → s.zoneOfMarker n sensor = some z →
    (s.zst z).reserved = some b → s.boatR b = some x → x.path = before ++ z :: rest → before ≠ [] → z ∉ before →
    x.zone ≠ z → s.queued b = false →
    Completes (.marker t src sensor 0) s fun u =>
      u.occupant z = some b ∧ u.occupant x.zone = none ∧ s.holdTaken u ∧
      (∀ w ∈ before, s.noticed u (.missed w b) ∧ ((s.zoneE w).isSome = true →
        (u.zst w).fault = some (mergeFault (s.zst w).fault .missed) ∧ (u.zst w).reserved = none)) ∧
      ∃ y, u.boatR b = some y ∧ y.zone = z ∧ y.entryTime = max s.now t ∧
        (rest ≠ [] → y.state = .moving ∧ y.path = rest)

/-- The other cases of a passage: a repeat within 500 ms only advances its counter (R29); a second boat later raises DOUBLE and
brings STOP (R30); a passage with no boat expected raises UNEXPECTED and asks for HOLD (R31). -/
def Obligations.UnmatchedPassagesRaiseFaults : Prop :=
  (∀ t src sensor n z b x (s : State), sensor ≤ 7 → s.nodeOfAddress src = some n → s.zoneOfMarker n sensor = some z →
    (s.zst z).reserved = none → s.occupant z = some b → s.boatR b = some x → max s.now t < x.entryTime + 500 →
    exec (.marker t src sensor 0) s = .next (State.event (fun s => s.bump .markerRepeat) (s.at_ t))) ∧
  (∀ t src sensor n z b x (s : State), sensor ≤ 7 → s.nodeOfAddress src = some n → s.zoneOfMarker n sensor = some z →
    (s.zst z).reserved = none → s.occupant z = some b → s.boatR b = some x → x.entryTime + 500 ≤ max s.now t →
    Completes (.marker t src sensor 0) s fun u =>
      (u.zst z).fault = some .double ∧ u.mode = .stop ∧ s.noticed u (.double z (some b)) ∧
      ∀ w, u.occupant w = s.occupant w) ∧
  ∀ t src sensor n z (s : State), sensor ≤ 7 → s.nodeOfAddress src = some n → s.zoneOfMarker n sensor = some z →
    (s.zst z).reserved = none → s.occupant z = none →
    Completes (.marker t src sensor 0) s fun u =>
      (u.zst z).fault = some (mergeFault (s.zst z).fault .unexpected) ∧ s.holdTaken u ∧
      s.noticed u (.unexpectedPassage z) ∧ ∀ w, u.occupant w = s.occupant w

/-- A speed at a trap is checked against the zone's limit (R99), recorded for the trap's boat (R100) and, at a launch trap,
handed to the section: held in FIRING, classified in MEASURING (R89), which ends in COOLDOWN, or in IDLE where the section's cooldown
is 0 (R91), from where a scan in RUN may grant the section a queued launch within the same event (R45, R85). That the
boat of the report is the one found before the record's own TRAP_DONE pulse, which may return a reservation, is the model's choice
(log 39). -/
def Obligations.TrapSpeedIsHandedOn : Prop :=
  ∀ t src pair interval n i e (s : State), pair ≤ 1 → s.nodeOfAddress src = some n → s.trapOf n pair = some (i, e) →
    0 < interval →
    Completes (.trap t src pair interval) s fun u =>
      (∀ b x, s.brakeOf e = none → s.occupant e.zone = some b → s.boatR b = some x →
        ∃ y, u.boatR b = some y ∧ y.lastSpeed = some (speedOf e.spacing interval, i)) ∧
      (∀ b x, s.brakeOf e = none → s.occupant e.zone = none → (s.zst e.zone).reserved = some b → s.boatR b = some x →
        ∃ y, u.boatR b = some y ∧ y.lastSpeed = some (speedOf e.spacing interval, i)) ∧
      (∀ z limit, s.zoneE e.zone = some z → z.speedLimit = some limit → limit < speedOf e.spacing interval →
        s.holdTaken u ∧
        s.noticed u (.overspeedLimit i e.zone (s.trapBoat e.zone) (speedOf e.spacing interval) limit)) ∧
      ((∀ z limit, s.zoneE e.zone = some z → z.speedLimit = some limit → speedOf e.spacing interval ≤ limit) →
        e.use = .check → u.mc = s.mc) ∧
      (∀ k l, e.use = .launch → s.launchE k = some l → l.trap = i → (s.seqS k).state = .firing →
        (u.seqS k).state = .firing ∧ (u.seqS k).held = some (speedOf e.spacing interval)) ∧
      ∀ k l b j, e.use = .launch → s.launchE k = some l → l.trap = i → (s.seqS k).state = .measuring →
        (s.seqS k).boat = some b → (s.seqS k).band = some j →
        s.noticed u (.launchResult k b j (s.bandTarget k j) (some (speedOf e.spacing interval))
          (classify (s.bandTarget k j) l.tolerance (speedOf e.spacing interval))) ∧
        (l.cooldown ≠ 0 → (u.seqS k).state = .cooldown ∧ (u.seqS k).cooldown = some (max s.now t)) ∧
        (l.cooldown = 0 → u.seqS k = .idle ∨ (s.mode = .run ∧ s.queue ≠ [] ∧ (u.seqS k).state = .charging))

/-- A stage selection: the run is SET for the boat with the chosen count, the boat carries it, the boat of the report carries
the speed (R100), each stage with a fin of its own is commanded ENGAGE up to the count and RETRACT above it, and each notice and request that applies is made (R107,
R108, R110). -/
def Obligations.BrakeSelectionSetsRun : Prop :=
  ∀ t src pair interval n i e r q b x (s : State), pair ≤ 1 → s.nodeOfAddress src = some n → s.trapOf n pair = some (i, e) →
    0 < interval → e.use = .brake → e.run = some r → s.runE r = some q → s.occupant q.zone = some b →
    ((s.runS r).state = .set → (s.runS r).boat = some b) → s.boatR b = some x →
    let v := speedOf e.spacing interval
    let force := q.required (s.massOf q x) v
    let k := s.chosenCount r q force v
    Completes (.trap t src pair interval) s fun u =>
      (u.runS r).state = .set ∧ (u.runS r).boat = some b ∧ (u.runS r).count = some k ∧
      (∃ y, u.boatR b = some y ∧ y.stageCount = some (r, k)) ∧
      (∀ c y, s.trapBoat e.zone = some c → s.boatR c = some y → ∃ y', u.boatR c = some y' ∧ y'.lastSpeed = some (v, i)) ∧
      s.noticed u (.brakeSet r b i v force k) ∧
      (q.maxEntry < v → s.holdTaken u ∧ s.noticed u (.overspeedEntry r b i v q.maxEntry)) ∧
      (s.capacity r q.stages < force → s.holdTaken u ∧
        s.noticed u (.brakeShortfall r b force (s.capacity r q.stages))) ∧
      ∀ j a, j < q.stages → s.authE (s.stageOf r j).fin = some a → a.kind = .fin →
        (∀ l, l < q.stages → (s.stageOf r l).fin = (s.stageOf r j).fin → l = j) →
        (u.actS (s.stageOf r j).fin).commanded = some (if j < k then .finEngage else .finRetract)

/-- An interval of 0 sets the run with every stage, each fin commanded ENGAGE, with no speed and no request (R98, R108); a report with no occupant in the
run's zone, or for a run SET for another boat, is unexpected and leaves the run alone (R110). -/
def Obligations.BrakeReportsWithoutSelection : Prop :=
  (∀ t src pair n i e r q b x (s : State), pair ≤ 1 → s.nodeOfAddress src = some n → s.trapOf n pair = some (i, e) →
    e.use = .brake → e.run = some r → s.runE r = some q → s.occupant q.zone = some b →
    ((s.runS r).state = .set → (s.runS r).boat = some b) → s.boatR b = some x →
    Completes (.trap t src pair 0) s fun u =>
      s.counted u .malformed ∧ (u.runS r).state = .set ∧ (u.runS r).boat = some b ∧
      (u.runS r).count = some q.stages ∧ s.noticed u (.trapInvalid i r b) ∧ u.mc = s.mc ∧
      (∀ j a, j < q.stages → s.authE (s.stageOf r j).fin = some a → a.kind = .fin →
        (u.actS (s.stageOf r j).fin).commanded = some .finEngage) ∧
      ∃ y, u.boatR b = some y ∧ y.stageCount = some (r, q.stages) ∧ y.lastSpeed = x.lastSpeed) ∧
  ∀ t src pair interval n i e r q (s : State), pair ≤ 1 → s.nodeOfAddress src = some n → s.trapOf n pair = some (i, e) →
    e.use = .brake → e.run = some r → s.runE r = some q →
    (s.occupant q.zone = none ∨ (s.runS r).state = .set ∧ (s.runS r).boat ≠ s.occupant q.zone) →
    Completes (.trap t src pair interval) s fun u =>
      s.holdTaken u ∧ s.noticed u (.unexpectedTrap q.zone i) ∧ u.runS r = s.runS r ∧
      ((s.zoneE q.zone).isSome = true → (u.zst q.zone).fault = some (mergeFault (s.zst q.zone).fault .unexpected))

/-- The arithmetic of the brake runs: speeds (R98), stage forces (R103), masses (R104), decelerations rounded up, capped and
relieved of the water's share (R105), forces rounded up (R106), the smallest sufficient count (R107) and the cases in which it
is N (R108). -/
def Obligations.BrakeArithmetic : Prop :=
  (∀ spacing, speedOf spacing 65535 = 0) ∧
  (∀ spacing interval, 0 < interval → interval < 65535 →
    speedOf spacing interval = min (spacing * 100000 / interval) 20000) ∧
  (∀ e : StageEntry, -16 ≤ e.trim → e.trim ≤ 15 →
    (e.force : Int) * 64 ≤ e.nominal * (64 + e.trim) ∧ e.nominal * (64 + e.trim) < ((e.force : Int) + 1) * 64) ∧
  (∀ (s : State) e a, s.authE e.fin = some a → s.available e = if s.nodeActive a.node then e.force else 0) ∧
  (∀ (s : State) q x, s.massOf q x = min ((match x.weight with | some w => w | none => (s.clsE x.cls).max) + q.water) 3000) ∧
  (∀ (q : RunEntry) v, v ≤ q.exit → q.decel v = 0) ∧
  (∀ (q : RunEntry) v, q.exit < v → 0 < q.length → ∃ a, q.decel v = min a 100000 - q.passive ∧
    v * v - q.exit * q.exit ≤ a * (2 * q.length) ∧ a * (2 * q.length) < v * v - q.exit * q.exit + 2 * q.length) ∧
  (∀ (q : RunEntry) m v, m * q.decel v ≤ q.required m v * 1000 ∧ q.required m v * 1000 < m * q.decel v + 1000) ∧
  (∀ (q : RunEntry) m v, m ≤ 3000 → q.required m v ≤ 300000) ∧
  (∀ (s : State) r q force v k, s.mode = .run ∨ s.mode = .hold → v ≤ q.maxEntry → max q.minStages 1 ≤ k → k ≤ q.stages →
    force ≤ s.capacity r k → (∀ j, max q.minStages 1 ≤ j → j < k → s.capacity r j < force) →
    s.chosenCount r q force v = k) ∧
  ∀ (s : State) r q force v, (s.mode = .config ∨ s.mode = .checking ∨ s.mode = .stop ∨ q.maxEntry < v ∨
      (∀ k, max q.minStages 1 ≤ k → k ≤ q.stages → s.capacity r k < force)) →
    s.chosenCount r q force v = q.stages

/-! ### Berths -/

/-- A BERTH record's presence and latch become the berth's readings, whatever else it does (R64), and its lamp and lock actuators
are commanded what the berth wants (R63). A boat that stands in an EMPTY berth makes it OCCUPIED, at a PAD with closed latch and
confirmed lock SECURED (R66); a latch closing in OCCUPIED wants LOCK and secures the berth once the lock is confirmed (R67); a latch
opening in OCCUPIED, SECURED or REQUESTED leaves it OCCUPIED, with the request withdrawn (R67, R71); RELEASED, FAULT and EMPTY stay
over lost presence (R66, R72, R75). That an UNLOAD or LOAD berth is not secured at an arrival is the model's reading (log 22). -/
def Obligations.BerthRecordMovesState : Prop :=
  (∀ t src p l x b e (s : State), s.berthOfSource src = some (b, e) → Completes (.berth t src p l x) s fun u =>
    (u.berthS b).presence = p ∧ (u.berthS b).latch = l) ∧
  (∀ t src p l x b e a (s : State), s.berthOfSource src = some (b, e) → s.authE e.lamp = some a → a.kind = .lamp →
    (∀ c f, c ≠ b → s.berthE c = some f → f.lamp ≠ e.lamp) → Completes (.berth t src p l x) s fun u =>
      (u.actS e.lamp).commanded = some (u.berthS b).lamp.value) ∧
  (∀ t src p l x b e a (s : State), s.berthOfSource src = some (b, e) → s.authE e.lock = some a → a.kind = .lock →
    (∀ c f, c ≠ b → s.berthE c = some f → f.lock ≠ e.lock) → Completes (.berth t src p l x) s fun u =>
      (u.actS e.lock).commanded = some (u.berthS b).lock.value) ∧
  (∀ t src b e n (s : State), s.berthOfSource src = some (b, e) → (s.berthS b).state = .empty → (s.berthS b).presence = false →
    s.occupant e.zone = some n → Completes (.berth t src true (s.berthS b).latch false) s fun u =>
      (u.berthS b).weight = none ∧ (u.berthS b).pending = false ∧
      (e.role ≠ .pad → (u.berthS b).state = .occupied ∧ (u.berthS b).lock = .unlock ∧ (u.berthS b).lamp = .off) ∧
      (e.role = .pad → (u.berthS b).lock = .lock ∧
        ((s.berthS b).latch = true ∧ s.lockConfirmed e = true → (u.berthS b).state = .secured ∧ (u.berthS b).lamp = .on) ∧
        (¬ ((s.berthS b).latch = true ∧ s.lockConfirmed e = true) →
          (u.berthS b).state = .occupied ∧ (u.berthS b).lamp = .off))) ∧
  (∀ t src b e (s : State), s.berthOfSource src = some (b, e) → (s.berthS b).state = .empty → (s.berthS b).presence = false →
    s.occupant e.zone = none → ∀ l, Completes (.berth t src true l false) s fun u => (u.berthS b).state = .empty) ∧
  (∀ t src b e (s : State), s.berthOfSource src = some (b, e) → (s.berthS b).state = .occupied → (s.berthS b).latch = false →
    Completes (.berth t src (s.berthS b).presence true false) s fun u => (u.berthS b).lock = .lock ∧
      (s.lockConfirmed e = true → (u.berthS b).state = .secured ∧ (u.berthS b).lamp = .on) ∧
      (s.lockConfirmed e = false → (u.berthS b).state = .occupied ∧ (u.berthS b).lamp = (s.berthS b).lamp)) ∧
  (∀ t src b e (s : State), s.berthOfSource src = some (b, e) → (s.berthS b).latch = true →
    ((s.berthS b).state = .occupied ∨ (s.berthS b).state = .secured ∨ (s.berthS b).state = .requested) →
    Completes (.berth t src (s.berthS b).presence false false) s fun u =>
      (u.berthS b).state = .occupied ∧ (u.berthS b).pending = false ∧
      (u.berthS b).lock = (if e.role = .pad then .lock else .unlock) ∧
      ((s.berthS b).state ≠ .occupied → (u.berthS b).lamp = .off) ∧ u.mc = s.mc ∧
      ∀ n, (s.berthS b).state = .requested → s.occupant e.zone = some n → s.queued n = true →
        u.queued n = false ∧ ∀ y, u.boatR n = some y → y.state = .waiting) ∧
  (∀ t src b e (s : State), s.berthOfSource src = some (b, e) → (s.berthS b).presence = true → s.queue = [] →
    (∀ k, k < 2 → (s.seqS k).state ≠ .charging) →
    ((s.berthS b).state = .released ∨ (s.berthS b).state = .fault ∨ (s.berthS b).state = .empty) →
    Completes (.berth t src false (s.berthS b).latch false) s fun u =>
      (u.berthS b).state = (s.berthS b).state ∧ (u.berthS b).presence = false ∧ u.mc = s.mc) ∧
  ∀ t src b e (s : State), s.berthOfSource src = some (b, e) → ((s.berthS b).state = .fault ∨ (s.berthS b).state = .empty) →
    (s.berthS b).latch = true → Completes (.berth t src (s.berthS b).presence false false) s fun u =>
      (u.berthS b).state = (s.berthS b).state ∧ u.mc = s.mc

/-- Presence lost in OCCUPIED, SECURED or REQUESTED takes the berth to FAULT with its notice and a request for HOLD, and in
REQUESTED withdraws the entry (R74); a latch opening in RELEASED sends its notice and brings STOP (R73). What reaches a berth from
its zone: the boat's passage out and its retirement leave every state but FAULT EMPTY (R72, R71, R75), a grant makes REQUESTED
RELEASED (R72), returned reservations make RELEASED SECURED with lamp BLINK where latch and lock hold, and derived otherwise (R73), a
withdrawal by the mode makes REQUESTED SECURED with lamp BLINK (R71), CLEAR_ZONE derives a FAULT berth (R76), and what is derived
follows the occupant and the sensors (R65). After an event a lamp or lock is commanded where the wanted value differs from the
commanded one, and only there (R63). -/
def Obligations.BerthStatesFollowZone : Prop :=
  (∀ t src l b e (s : State), s.berthOfSource src = some (b, e) → (s.berthS b).presence = true → (s.berthS b).latch = l →
    ((s.berthS b).state = .occupied ∨ (s.berthS b).state = .secured ∨ (s.berthS b).state = .requested) →
    Completes (.berth t src false l false) s fun u =>
      (u.berthS b).state = .fault ∧ (u.berthS b).reason = .presenceLost ∧ (u.berthS b).lamp = .blink ∧ s.holdTaken u ∧
      s.noticed u (.berthAlarm b e.zone .presenceLost) ∧
      ∀ n, (s.berthS b).state = .requested → s.occupant e.zone = some n → s.queued n = true →
        u.queued n = false ∧ ∀ y, u.boatR n = some y → y.state = .waiting) ∧
  (∀ t src p b e (s : State), s.berthOfSource src = some (b, e) → (s.berthS b).presence = p → (s.berthS b).latch = true →
    (s.berthS b).state = .released →
    Completes (.berth t src p false false) s fun u =>
      u.mode = .stop ∧ s.noticed u (.berthAlarm b e.zone .latchOpen)) ∧
  (∀ b e (s : State), s.berthE b = some e →
    ((s.berthDerive b).berthS b).state = (if s.occupant e.zone = none ∨ (s.berthS b).presence = false then .empty
      else if (s.berthS b).latch = true ∧ s.lockConfirmed e = true then .secured else .occupied) ∧
    ((s.berthDerive b).berthS b).pending = false ∧ ((s.berthDerive b).berthS b).reason = .none ∧
    ((s.berthDerive b).berthS b).lamp = (if ((s.berthDerive b).berthS b).state = .secured then .on else .off) ∧
    ((s.berthDerive b).berthS b).lock = (if ((s.berthDerive b).berthS b).state = .occupied ∧ e.role ≠ .pad ∧
      (s.berthS b).latch = false then .unlock else .lock)) ∧
  (∀ b (s : State), b < 6 →
    ((s.berthS b).state ≠ .fault → ((s.berthLeft b).berthS b).state = .empty ∧ ((s.berthLeft b).berthS b).lamp = .off ∧
      ((s.berthLeft b).berthS b).lock = .lock ∧ ((s.berthRetired b).berthS b).state = .empty) ∧
    ((s.berthS b).state = .fault → (s.berthLeft b).berthS b = s.berthS b ∧ (s.berthRetired b).berthS b = s.berthS b)) ∧
  (∀ b (s : State), b < 6 →
    ((s.berthS b).state = .requested → (s.berthGranted b).berthS b =
      { s.berthS b with state := .released, lamp := .on, lock := .lock }) ∧
    ((s.berthS b).state ≠ .requested → (s.berthGranted b).berthS b = s.berthS b)) ∧
  (∀ b e (s : State), s.berthE b = some e →
    ((s.berthS b).state ≠ .released → (s.berthReturned b).berthS b = s.berthS b) ∧
    ((s.berthS b).state = .released → (s.berthS b).latch = true ∧ s.lockConfirmed e = true →
      (s.berthReturned b).berthS b = { s.berthS b with state := .secured, lamp := .blink, lock := .lock }) ∧
    ((s.berthS b).state = .released → ¬ ((s.berthS b).latch = true ∧ s.lockConfirmed e = true) →
      (s.berthReturned b).berthS b = (s.berthDerive b).berthS b)) ∧
  (∀ b e (s : State), s.berthE b = some e →
    ((s.actS e.lamp).commanded = some (s.berthS b).lamp.value → (s.actS e.lock).commanded = some (s.berthS b).lock.value →
      s.settleBerth b = s) ∧
    (∀ a, s.authE e.lamp = some a → a.kind = .lamp → (s.actS e.lamp).commanded ≠ some (s.berthS b).lamp.value →
      (s.settleBerth b).actS e.lamp = ⟨some (s.berthS b).lamp.value, false⟩ ∧ ((s.settleBerth b).berthS b).lampDone = false) ∧
    ∀ a, s.authE e.lock = some a → a.kind = .lock → (s.actS e.lock).commanded ≠ some (s.berthS b).lock.value →
      (s.settleBerth b).actS e.lock = ⟨some (s.berthS b).lock.value, false⟩ ∧ ((s.settleBerth b).berthS b).lockDone = false) ∧
  (∀ t src sensor n z b x rest c f (s : State), sensor ≤ 7 → s.nodeOfAddress src = some n → s.zoneOfMarker n sensor = some z →
    (s.zst z).reserved = some b → s.boatR b = some x → x.path = z :: rest → x.zone ≠ z →
    s.berthOfZone x.zone = some (c, f) → (∀ g, s.berthOfZone z ≠ some (c, g)) → (s.berthS c).state ≠ .fault →
    Completes (.marker t src sensor 0) s fun u => (u.berthS c).state = .empty ∧ (u.berthS c).lamp = .off ∧
      (u.berthS c).lock = .lock) ∧
  (∀ t src sensor n z b x rest c f (s : State), sensor ≤ 7 → s.nodeOfAddress src = some n → s.zoneOfMarker n sensor = some z →
    (s.zst z).reserved = some b → s.boatR b = some x → x.path = z :: rest → x.zone ≠ z →
    s.berthOfZone z = some (c, f) → f.zone = z → (∀ g, s.berthOfZone x.zone ≠ some (c, g)) → (s.berthS c).state = .empty →
    (s.berthS c).presence = true → (f.role ≠ .pad ∨ (s.berthS c).latch = false) →
    Completes (.marker t src sensor 0) s fun u => (u.berthS c).state = .occupied ∧ (u.berthS c).lamp = .off ∧
      (u.berthS c).lock = (if f.role = .pad then .lock else .unlock) ∧ (u.berthS c).weight = none) ∧
  (∀ t q b e (s : State), s.mode ≠ .stop → q ∈ s.queue → s.berthOfZone q.origin = some (b, e) →
    (s.berthS b).state = .requested →
    Completes (.estopAsserted t) s fun u => (u.berthS b).state = .secured ∧ (u.berthS b).lamp = .blink) ∧
  (∀ t b x c f (s : State), s.requestFree → (s.mode = .config ∨ s.mode = .hold) → s.boatR b = some x → x.state = .waiting →
    s.berthOfZone x.zone = some (c, f) → (s.berthS c).state ≠ .fault →
    Completes (.retireBoat t false b) s fun u => (u.berthS c).state = .empty) ∧
  ∀ t z b e (s : State), s.requestFree → s.berthOfZone z = some (b, e) → (s.berthS b).state = .fault →
    Completes (.clearZone t false z) s fun u => (u.berthS b).reason = .none ∧
      (u.berthS b).state = (if s.occupant e.zone = none ∨ (s.berthS b).presence = false then .empty
        else if (s.berthS b).latch = true ∧ s.lockConfirmed e = true then .secured else .occupied)

/-- A press taken in HOLD at a SECURED berth with its lock confirmed: at an UNLOAD or LOAD berth the request joins the queue
and the berth is REQUESTED, or is refused with the path's notice and the lamp blinks (R69, R41, R42); at a PAD a failed
pre-check is reported and nothing is requested, and a passed one is requested with its band recorded (R70, R83). In RUN the
request waits while its path is blocked, and is granted at once where it is free: the berth is RELEASED (R45, R72). In CONFIG,
CHECKING and STOP, where the sequencers are IDLE (R94), it is refused (R42, R69); that the lamp blinks at a PAD whose zone has no
defined launch section is the model's choice (log 21). A press in SECURED without a confirmed lock, or in OCCUPIED with a closed
latch, is kept pending; elsewhere it is discarded (R68). -/
def Obligations.BerthPressMakesRequest : Prop :=
  (∀ t src b e n x path (s : State), s.berthOfSource src = some (b, e) → (s.berthS b).state = .secured → s.lockConfirmed e = true →
    s.mode = .hold → (∀ k, k < 2 → (s.seqS k).state ≠ .charging) → e.role ≠ .pad → s.occupant e.zone = some n →
    s.boatR n = some x → x.state = .waiting → s.stoppable x.zone = true → s.walk x.zone x.route = .ok path →
    Completes (.berth t src (s.berthS b).presence (s.berthS b).latch true) s fun u =>
      u.queue = s.queue ++ [⟨n, x.zone, path, s.reqSeq⟩] ∧ (u.berthS b).state = .requested ∧
      (u.berthS b).lamp = .blink ∧ ∃ y, u.boatR n = some y ∧ y.state = .requested) ∧
  (∀ t src b e n x reason (s : State), s.berthOfSource src = some (b, e) → (s.berthS b).state = .secured →
    s.lockConfirmed e = true → s.mode = .hold → (∀ k, k < 2 → (s.seqS k).state ≠ .charging) → e.role ≠ .pad →
    s.occupant e.zone = some n → s.boatR n = some x → x.state = .waiting → s.stoppable x.zone = true →
    s.walk x.zone x.route = .error reason →
    Completes (.berth t src (s.berthS b).presence (s.berthS b).latch true) s fun u =>
      u.queue = s.queue ∧ (u.berthS b).state = .secured ∧ (u.berthS b).lamp = .blink ∧
      s.noticed u (.path n x.zone reason)) ∧
  (∀ t src b e n x k reason (s : State), s.berthOfSource src = some (b, e) → (s.berthS b).state = .secured →
    s.lockConfirmed e = true → s.mode = .hold → (∀ k, k < 2 → (s.seqS k).state ≠ .charging) → e.role = .pad →
    s.occupant e.zone = some n → s.boatR n = some x → s.sectionOfZone e.zone = some k → (s.launchE k).isSome = true →
    s.preCheck k x = .error reason →
    Completes (.berth t src (s.berthS b).presence (s.berthS b).latch true) s fun u =>
      u.queue = s.queue ∧ (u.berthS b).state = .secured ∧ (u.berthS b).lamp = .blink ∧
      s.noticed u (.launchRefused k n reason)) ∧
  (∀ t src b e n x k i path (s : State), s.berthOfSource src = some (b, e) → (s.berthS b).state = .secured →
    s.lockConfirmed e = true → s.mode = .hold → (∀ k, k < 2 → (s.seqS k).state ≠ .charging) → e.role = .pad →
    s.occupant e.zone = some n → s.boatR n = some x → s.sectionOfZone e.zone = some k → (s.launchE k).isSome = true →
    s.preCheck k x = .ok i → (∀ c, s.chanE c ≠ some (.berthButton b)) → x.state = .waiting → s.stoppable x.zone = true →
    s.walk x.zone x.route = .ok path →
    Completes (.berth t src (s.berthS b).presence (s.berthS b).latch true) s fun u =>
      u.queue = s.queue ++ [⟨n, x.zone, path, s.reqSeq⟩] ∧ (u.berthS b).state = .requested ∧ (u.berthS b).lamp = .blink ∧
      u.boatR n = some { x with state := .requested, band := some (k, i) }) ∧
  (∀ t src b e n x path z (s : State), s.quiet → s.berthOfSource src = some (b, e) → (s.berthS b).state = .secured →
    s.lockConfirmed e = true → s.mode = .run → e.role ≠ .pad → s.occupant e.zone = some n → s.boatR n = some x →
    x.state = .waiting → s.stoppable x.zone = true → s.walk x.zone x.route = .ok path →
    (∀ c, s.chanE c ≠ some (.berthButton b)) → s.queue = [] → z ∈ path → s.zoneFree z = false →
    Completes (.berth t src (s.berthS b).presence (s.berthS b).latch true) s fun u =>
      u.queue = [⟨n, x.zone, path, s.reqSeq⟩] ∧ (u.berthS b).state = .requested ∧ (u.berthS b).lamp = .blink ∧
      u.boatR n = some { x with state := .requested }) ∧
  (∀ t src b e n x path f a y (s : State), s.quiet → s.berthOfSource src = some (b, e) → (s.berthS b).state = .secured →
    s.lockConfirmed e = true → s.mode = .run → e.role ≠ .pad → s.occupant e.zone = some n → s.boatR n = some x →
    x.state = .waiting → x.zone = e.zone → s.walk x.zone x.route = .ok path →
    (∀ c, s.chanE c ≠ some (.berthButton b)) → s.queue = [] → (∀ z ∈ path, s.zoneFree z = true) →
    s.zoneE e.zone = some f → f.kind = .berth → f.berth = some b → f.gate = some a → s.authE a = some y → y.kind = .gate →
    Completes (.berth t src (s.berthS b).presence (s.berthS b).latch true) s fun u =>
      u.queue = [] ∧ (u.berthS b).state = .released ∧ (u.berthS b).lamp = .on ∧ u.actS a = ⟨some .gateOpen, false⟩ ∧
      u.boatR n = some { x with state := .granted, path := path } ∧ ∀ z ∈ path, (u.zst z).reserved = some n) ∧
  (∀ t src b e n x (s : State), s.berthOfSource src = some (b, e) → (s.berthS b).state = .secured →
    s.lockConfirmed e = true → (s.mode = .config ∨ s.mode = .checking ∨ s.mode = .stop) → s.sequencersSound →
    s.occupant e.zone = some n → s.boatR n = some x →
    Completes (.berth t src (s.berthS b).presence (s.berthS b).latch true) s fun u =>
      u.queue = s.queue ∧ (u.berthS b).state = .secured ∧ (u.berthS b).lamp = .blink) ∧
  (∀ t src b e (s : State), s.berthOfSource src = some (b, e) →
    (((s.berthS b).state = .secured ∧ s.lockConfirmed e = false) ∨
      ((s.berthS b).state = .occupied ∧ (s.berthS b).latch = true)) →
    Completes (.berth t src (s.berthS b).presence (s.berthS b).latch true) s fun u =>
      (u.berthS b).pending = true ∧ (u.berthS b).state = (s.berthS b).state ∧ u.mc = s.mc) ∧
  ∀ t src b e (s : State), s.berthOfSource src = some (b, e) →
    ((s.berthS b).state = .empty ∨ (s.berthS b).state = .requested ∨ (s.berthS b).state = .released ∨
      (s.berthS b).state = .fault ∨ ((s.berthS b).state = .occupied ∧ (s.berthS b).latch = false)) →
    s.mode = .hold → (∀ k, k < 2 → (s.seqS k).state ≠ .charging) →
    Completes (.berth t src (s.berthS b).presence (s.berthS b).latch true) s fun u =>
      (u.berthS b).pending = (s.berthS b).pending ∧ (u.berthS b).state = (s.berthS b).state ∧ u.queue = s.queue

/-- A settled weight from the PAD's scale is clamped to 0 to 4095 kg and captured, for the boat too when the berth is SECURED
(R77, R78); a moving scale changes no weight. A tag that is not the occupant's takes the UNLOAD berth to FAULT and its zone to
UNEXPECTED and asks for HOLD (R38, R75); the occupant's own tag does not. -/
def Obligations.WeightAndTagAreTaken : Prop :=
  (∀ kg, (clampWeight kg : Int) = max 0 (min 4095 kg)) ∧
  (∀ t src scale kg b e (s : State), s.berthOfSource src = some (b, e) → e.role = .pad → e.scale = some scale →
    Completes (.weight t src scale kg true) s fun u => (u.berthS b).weight = some (clampWeight kg) ∧ u.mc = s.mc ∧
      (∀ n x, (s.berthS b).state = .secured → s.occupant e.zone = some n → s.boatR n = some x →
        ∃ y, u.boatR n = some y ∧ y.weight = some (clampWeight kg)) ∧
      ((s.berthS b).state ≠ .secured → ∀ n, (u.boatR n).map Boat.weight = (s.boatR n).map Boat.weight)) ∧
  (∀ t src scale kg b e (s : State), s.berthOfSource src = some (b, e) → e.role = .pad → e.scale = some scale →
    Completes (.weight t src scale kg false) s fun u => (u.berthS b).weight = (s.berthS b).weight ∧ u.mc = s.mc ∧
      ∀ n, (u.boatR n).map Boat.weight = (s.boatR n).map Boat.weight) ∧
  (∀ t src reader number b e (s : State), s.berthOfSource src = some (b, e) → e.role = .unload → e.reader = some reader →
    s.occupant e.zone ≠ some number →
    Completes (.tag t src reader number) s fun u =>
      (u.berthS b).state = .fault ∧ (u.berthS b).reason = .tag ∧ (u.berthS b).lamp = .blink ∧ s.holdTaken u ∧
      s.noticed u (.tagMismatch b e.zone number (s.occupant e.zone)) ∧
      ((s.zoneE e.zone).isSome = true → (u.zst e.zone).fault = some (mergeFault (s.zst e.zone).fault .unexpected))) ∧
  ∀ t src reader number b e (s : State), s.berthOfSource src = some (b, e) → e.role = .unload → e.reader = some reader →
    s.occupant e.zone = some number →
    Completes (.tag t src reader number) s fun u => u.mc = s.mc ∧ ∀ z, (u.zst z).fault = (s.zst z).fault

/-! ### Launch sequencers -/

/-- READY in CHARGING: with the four re-checks passed FIRE is commanded and the DONE timer runs, else the launch is aborted
with the first reason: MODE, then LATCH_OPEN, then RESERVATION, then BRAKE_CAPACITY (R86). -/
def Obligations.BoosterReadyFiresOrAborts : Prop :=
  (∀ t src num k e (s : State), s.boosterMatch src num = some k → s.launchE k = some e → (s.seqS k).state = .charging →
    s.recheck k e = none →
    Completes (.boosterReady t src num) s fun u =>
      u.seqS k = { s.seqS k with state := .firing, charge := none, done := some (max s.now t) } ∧
      ∀ a, s.authE e.booster = some a → a.kind = .booster →
        (∀ j l, j ≠ k → s.launchE j = some l → l.booster ≠ e.booster) →
        (u.actS e.booster).commanded = some .boosterFire) ∧
  (∀ t src num k e b reason (s : State), s.boosterMatch src num = some k → s.launchE k = some e →
    (s.seqS k).state = .charging → (s.seqS k).boat = some b → s.recheck k e = some reason →
    Completes (.boosterReady t src num) s fun u =>
      s.noticed u (.launchAborted k b reason) ∧ (s.mode ≠ .run → (u.seqS k).state = .idle)) ∧
  (∀ k e b i (s : State), (s.seqS k).boat = some b → (s.seqS k).band = some i → (s.recheck k e = none ↔
    s.mode = .run ∧ (∃ n f, s.berthOfZone e.zone = some (n, f) ∧ (s.berthS n).latch = true) ∧
    (∃ x, s.boatR b = some x ∧ x.state = .granted ∧ ∀ z ∈ x.path, (s.zst z).reserved = some b) ∧
    ∃ x w, s.boatR b = some x ∧ x.weight = some w ∧ s.predictBand k i w = true)) ∧
  (∀ k e (s : State), s.recheck k e = some .mode ↔ s.mode ≠ .run) ∧
  (∀ k e (s : State), s.recheck k e = some .latchOpen ↔
    s.mode = .run ∧ ∀ n f, s.berthOfZone e.zone = some (n, f) → (s.berthS n).latch = false) ∧
  (∀ k e b (s : State), (s.seqS k).boat = some b → (s.recheck k e = some .reservation ↔
    s.mode = .run ∧ (∃ n f, s.berthOfZone e.zone = some (n, f) ∧ (s.berthS n).latch = true) ∧
    ∀ x, s.boatR b = some x → x.state = .granted → ∃ z ∈ x.path, (s.zst z).reserved ≠ some b)) ∧
  ∀ k e b i (s : State), (s.seqS k).boat = some b → (s.seqS k).band = some i → (s.recheck k e = some .brakeCapacity ↔
    s.mode = .run ∧ (∃ n f, s.berthOfZone e.zone = some (n, f) ∧ (s.berthS n).latch = true) ∧
    ∃ x, s.boatR b = some x ∧ x.state = .granted ∧ (∀ z ∈ x.path, (s.zst z).reserved = some b) ∧
      ∀ w, x.weight = some w → s.predictBand k i w = false)

/-- DONE in FIRING goes to MEASURING (R88), and on to COOLDOWN with its result where a speed is held (R89) or the boat's path is
empty (R90), or straight to IDLE where the section's cooldown is 0 (R91), from where a scan in RUN may grant the section a
queued launch within the same event (R45, R85); DONE in CHARGING is a firing without FIRE: SAFE, a BOOSTER_FAULT notice, HOLD (R92). -/
def Obligations.BoosterDoneEndsFiring : Prop :=
  (∀ t src num k (s : State), s.boosterMatch src num = some k → (s.seqS k).state = .firing → (s.seqS k).held = none →
    (∀ b, (s.seqS k).boat = some b → s.pathOf b ≠ []) → (s.seqS k).boat ≠ none →
    Completes (.boosterDone t src num) s fun u =>
      u.seqS k = { s.seqS k with state := .measuring, done := none }) ∧
  (∀ t src num k e b i v (s : State), s.boosterMatch src num = some k → s.launchE k = some e → (s.seqS k).state = .firing →
    (s.seqS k).boat = some b → (s.seqS k).band = some i → (s.seqS k).held = some v →
    Completes (.boosterDone t src num) s fun u =>
      s.noticed u (.launchResult k b i (s.bandTarget k i) (some v) (classify (s.bandTarget k i) e.tolerance v)) ∧
      (classify (s.bandTarget k i) e.tolerance v = .strong → s.holdTaken u) ∧
      (e.cooldown ≠ 0 → (u.seqS k).state = .cooldown ∧ (u.seqS k).cooldown = some (max s.now t) ∧
        (u.seqS k).held = none) ∧
      (e.cooldown = 0 → u.seqS k = .idle ∨ (s.mode = .run ∧ s.queue ≠ [] ∧ (u.seqS k).state = .charging))) ∧
  (∀ t src num k e b i (s : State), s.boosterMatch src num = some k → s.launchE k = some e → (s.seqS k).state = .firing →
    (s.seqS k).boat = some b → (s.seqS k).band = some i → (s.seqS k).held = none → s.pathOf b = [] →
    Completes (.boosterDone t src num) s fun u =>
      s.noticed u (.launchResult k b i (s.bandTarget k i) none .none) ∧
      (e.cooldown ≠ 0 → (u.seqS k).state = .cooldown ∧ (u.seqS k).cooldown = some (max s.now t)) ∧
      (e.cooldown = 0 → u.seqS k = .idle ∨ (s.mode = .run ∧ s.queue ≠ [] ∧ (u.seqS k).state = .charging))) ∧
  (∀ t src num k b (s : State), s.boosterMatch src num = some k → (s.seqS k).state = .charging → (s.seqS k).boat = some b →
    Completes (.boosterDone t src num) s fun u =>
      (u.seqS k).state = .measuring ∧ s.holdTaken u ∧ s.noticed u (.boosterFault k b .uncommanded) ∧
      ∀ e a, s.launchE k = some e → s.authE e.booster = some a → a.kind = .booster →
        (u.actS e.booster).commanded = some .boosterSafe) ∧
  ∀ target tolerance v, (classify target tolerance v = .weak ↔ v < target * (100 - tolerance) / 100) ∧
    (classify target tolerance v = .strong ↔ ¬ v < target * (100 - tolerance) / 100 ∧
      target * (100 + tolerance) / 100 < v)

/-! ### Nodes and acknowledgements -/

/-- A HEARTBEAT moves last heard, makes a SILENT node ACTIVE and sets the inputs of an AUX_NODE (R118, R121, R150); a HELLO of
the table's kind begins a join, whose LIMIT record is placed and starts the join timer where the downline port has room and waits,
with the timer stopped, where it has none (R119, R120; in JOINING with the timer running: log 44), of another kind is reported; a LIMIT_ACK
makes a JOINING node ACTIVE, is reported, and the node's CONTROLLER actuators are commanded again (R120, R134). -/
def Obligations.NodeRecordsMoveRoster : Prop :=
  (∀ t src inputs n e (s : State), s.nodeOfAddress src = some n → s.nodeE n = some e →
    Completes (.heartbeat t src inputs) s fun u =>
      (u.nodeS n).lastHeard = some (max s.now t) ∧
      (u.nodeS n).state = (if (s.nodeS n).state = .silent then .active else (s.nodeS n).state) ∧
      u.inputS n = (if e.kind = .aux then inputs else s.inputS n) ∧ ∀ m, m ≠ n → u.inputS m = s.inputS m) ∧
  (∀ t src n e (s : State), s.nodeOfAddress src = some n → s.nodeE n = some e →
    Completes (.hello t src e.kind.code) s fun u =>
      (u.nodeS n).state = .joining ∧ (u.nodeS n).localFault = false ∧ u.mc = s.mc) ∧
  (∀ t src n e (s : State), s.quiet → s.nodeOfAddress src = some n → s.nodeE n = some e → s.dn.room = true →
    s.nextLimit = none → Completes (.hello t src e.kind.code) s fun u =>
      (u.nodeS n).join = some (max s.now t) ∧ (u.nodeS n).limitPending = false ∧
      (u.dn.tx = some ⟨buildFrame e.address s.addr 5 (chainBytes [limitRecord e]), []⟩ ∨
        ⟨buildFrame e.address s.addr 5 (chainBytes [limitRecord e]), []⟩ ∈ u.dn.origin)) ∧
  (∀ t src n e f (s : State), s.nodeOfAddress src = some n → s.nodeE n = some e → s.dn.room = false → s.dn.tx = some f →
    Completes (.hello t src e.kind.code) s fun u =>
      (u.nodeS n).join = none ∧ (u.nodeS n).limitPending = true ∧ u.dn.origin = s.dn.origin) ∧
  (∀ t src n e k (s : State), s.nodeOfAddress src = some n → s.nodeE n = some e → k ≠ e.kind →
    Completes (.hello t src (NodeKind.code k)) s fun u =>
      (u.nodeS n).state = (s.nodeS n).state ∧ s.noticed u (.nodeKindMismatch n e.address e.kind k)) ∧
  (∀ t src n (s : State), s.nodeOfAddress src = some n → (s.nodeS n).state = .joining →
    Completes (.limitAck t src) s fun u =>
      (u.nodeS n).state = .active ∧ (u.nodeS n).lastHeard = some (max s.now t) ∧
      s.noticed u (.nodeState n .active .none)) ∧
  ∀ t src n a x v (s : State), s.nodeOfAddress src = some n → (s.nodeS n).state = .joining → s.mode ≠ .run →
    (∀ k, k < 2 → (s.seqS k).state ≠ .charging) → s.authE a = some x → x.node = n → x.owner = .controller →
    x.kind ≠ .lamp → x.kind ≠ .lock → (s.actS a).commanded = some v → v.kind = x.kind → v.inRange = true →
    Completes (.limitAck t src) s fun u =>
      u.actS a = ⟨some v, false⟩ ∧ ∃ c ∈ u.cmds, c.act = a ∧ c.value = v

/-- A matched acknowledgement removes its list entry and confirms its actuator (R130); it ends the awaiting of an ENGAGE (R111);
a switch command for a throw then opens the gate in RUN and undoes the grant in HOLD (R52). A gate's OPEN confirms the release: the
watch of the zone its granted boat occupies starts (R34, R48). A lamp's or lock's completion is the berth's (R63), and a LOCK with
the latch closed secures an OCCUPIED berth (R67) and lets a pending press be taken (R68). That a berth which wants UNLOCK is not
secured, and that a re-sent OPEN confirms again, is the model's reading (log 22, 31), and that an acknowledged ENGAGE serves every
stage that names the fin its choice (log 47). -/
def Obligations.AckAcceptedCompletesCommand : Prop :=
  (∀ t src num tagNo c x (s : State), num ≤ 15 → s.ackMatch src num tagNo = some c → s.mode ≠ .run →
    (∀ k, k < 2 → (s.seqS k).state ≠ .charging) → s.authE c.act = some x → x.kind ≠ .lamp → x.kind ≠ .lock →
    Completes (.ackAccepted t src num tagNo) s fun u =>
      u.actS c.act = { s.actS c.act with confirmed := true } ∧ ∀ d ∈ u.cmds, d.act ≠ c.act) ∧
  (∀ t src num tagNo c (s : State), num ≤ 15 → s.ackMatch src num tagNo = some c → c.value = .finEngage →
    Completes (.ackAccepted t src num tagNo) s fun u =>
      (∀ r q i, s.runE r = some q → i < q.stages → i < 8 → (s.stageOf r i).fin = c.act →
        (u.runS r).awaiting[i]? = some false) ∧
      ∀ r q, s.runE r = some q → (s.runS r).state = .restoring →
        (∀ i, i < 8 → (s.runS r).awaiting[i]? = some true → i < q.stages ∧ (s.stageOf r i).fin = c.act) →
        (u.runS r).state = .ready) ∧
  (∀ t src num tagNo c b q z g x (s : State), num ≤ 15 → s.ackMatch src num tagNo = some c → s.mode = .run →
    (c.value = .switchMain ∨ c.value = .switchAlt) → s.throwsOn c.act = [b] → s.release b = some ⟨q, .throw c.act⟩ →
    q.boat = b → s.queued b = false → (∀ k, k < 2 → (s.seqS k).state ≠ .charging) → s.zoneE q.origin = some z →
    z.gate = some g → s.authE g = some x → x.kind = .gate →
    Completes (.ackAccepted t src num tagNo) s fun u =>
      (u.actS g).commanded = some .gateOpen ∧ u.release b = some ⟨q, .gate⟩) ∧
  (∀ t src num tagNo c b q x (s : State), num ≤ 15 → s.ackMatch src num tagNo = some c → s.mode = .hold →
    (c.value = .switchMain ∨ c.value = .switchAlt) → s.throwsOn c.act = [b] → s.release b = some ⟨q, .throw c.act⟩ →
    q.boat = b → s.boatR b = some x → x.state = .granted → (∀ k, k < 2 → (s.seqS k).state ≠ .charging) →
    Completes (.ackAccepted t src num tagNo) s fun u =>
      u.release b = none ∧ q ∈ u.queue ∧ (∀ z ∈ x.path, (u.zst z).reserved = none) ∧
      ∃ y, u.boatR b = some y ∧ y.state = .requested ∧ y.path = []) ∧
  (∀ t src num tagNo c x (s : State), s.quiet → num ≤ 15 → s.ackMatch src num tagNo = some c →
    (∀ n, s.nodeOfAddress src = some n → (s.nodeS n).state ≠ .silent) → s.authE c.act = some x → x.kind = c.value.kind →
    x.kind ≠ .lamp → x.kind ≠ .lock →
    Completes (.ackAccepted t src num tagNo) s fun u =>
      u.actS c.act = { s.actS c.act with confirmed := true } ∧ ∀ d ∈ u.cmds, d.act ≠ c.act) ∧
  (∀ t src num tagNo c z e b r (s : State), s.quiet → num ≤ 15 → s.ackMatch src num tagNo = some c → c.value = .gateOpen →
    (∀ n, s.nodeOfAddress src = some n → (s.nodeS n).state ≠ .silent) → s.zoneE z = some e → e.gate = some c.act →
    s.occupant z = some b → s.release b = some r → r.entry.origin = z → r.stage = .gate → (s.mode = .run ∨ s.mode = .hold) →
    Completes (.ackAccepted t src num tagNo) s fun u =>
      (u.zst z).watch = some (max s.now t) ∧ u.release b = some r ∧ u.occupant z = some b) ∧
  (∀ t src num tagNo c x b e (s : State), s.quiet → num ≤ 15 → s.ackMatch src num tagNo = some c → c.value.kind = .lamp →
    (∀ n, s.nodeOfAddress src = some n → (s.nodeS n).state ≠ .silent) → s.authE c.act = some x → x.kind = .lamp →
    s.berthE b = some e → e.lamp = c.act → (∀ d f, d ≠ b → s.berthE d = some f → f.lamp ≠ c.act) →
    (s.actS c.act).commanded = some (s.berthS b).lamp.value →
    Completes (.ackAccepted t src num tagNo) s fun u =>
      (u.berthS b).lampDone = true ∧ (u.berthS b).state = (s.berthS b).state ∧
      u.actS c.act = { s.actS c.act with confirmed := true } ∧ ∀ d ∈ u.cmds, d.act ≠ c.act) ∧
  (∀ t src num tagNo c x b e (s : State), s.quiet → num ≤ 15 → s.ackMatch src num tagNo = some c → c.value.kind = .lock →
    (∀ n, s.nodeOfAddress src = some n → (s.nodeS n).state ≠ .silent) → s.authE c.act = some x → x.kind = .lock →
    s.berthE b = some e → e.lock = c.act → (∀ d f, d ≠ b → s.berthE d = some f → f.lock ≠ c.act) →
    (s.actS c.act).commanded = some (s.berthS b).lock.value → (s.berthS b).pending = false →
    Completes (.ackAccepted t src num tagNo) s fun u =>
      (u.berthS b).lockDone = true ∧ u.actS c.act = { s.actS c.act with confirmed := true } ∧ (∀ d ∈ u.cmds, d.act ≠ c.act) ∧
      ((s.berthS b).state = .occupied → (s.berthS b).latch = true → (s.berthS b).lock = .lock →
        (u.berthS b).state = .secured ∧ (u.berthS b).lamp = .on) ∧
      (((s.berthS b).state ≠ .occupied ∨ (s.berthS b).latch = false ∨ (s.berthS b).lock = .unlock) →
        (u.berthS b).state = (s.berthS b).state)) ∧
  ∀ t src num tagNo c x b e n y path (s : State), s.quiet → s.mode = .hold → num ≤ 15 → s.ackMatch src num tagNo = some c →
    c.value = .lockLock → (∀ m, s.nodeOfAddress src = some m → (s.nodeS m).state ≠ .silent) → s.authE c.act = some x →
    x.kind = .lock → s.berthE b = some e → e.lock = c.act → (∀ d f, d ≠ b → s.berthE d = some f → f.lock ≠ c.act) →
    (s.actS c.act).commanded = some .lockLock → (s.berthS b).pending = true → (s.berthS b).lock = .lock →
    ((s.berthS b).state = .secured ∨ ((s.berthS b).state = .occupied ∧ (s.berthS b).latch = true)) → e.role ≠ .pad →
    s.occupant e.zone = some n → s.boatR n = some y → y.state = .waiting → s.stoppable y.zone = true →
    s.walk y.zone y.route = .ok path →
    Completes (.ackAccepted t src num tagNo) s fun u =>
      (u.berthS b).pending = false ∧ (u.berthS b).state = .requested ∧ (u.berthS b).lamp = .blink ∧
      u.queue = s.queue ++ [⟨n, y.zone, path, s.reqSeq⟩]

/-- A refused command, or one unacknowledged for 50 ms, is reported with its reason, makes its node LOST with the local fault
flag set, leaves no list entry on that node and takes RUN to HOLD; a switch command's throw fails with its notice (R131, R133,
R53, R122). Before 50 ms the timer does nothing (log 2). -/
def Obligations.ActuatorFailureLosesNode : Prop :=
  (∀ t src num tagNo c n (s : State), num ≤ 15 → s.ackMatch src num tagNo = some c → s.actNode c.act = some n →
    (s.nodeS n).state.present = true →
    Completes (.ackRefused t src num tagNo) s fun u =>
      (u.nodeS n).state = .lost ∧ (u.nodeS n).localFault = true ∧ (∀ d ∈ u.cmds, s.actNode d.act ≠ some n) ∧
      s.noticed u (.actuatorFault c.act n c.value .refused) ∧ s.noticed u (.nodeState n .lost .actuator) ∧
      (s.mode = .run → u.mode = .hold) ∧ (s.mode ≠ .run → u.mc = s.mc) ∧
      ∀ b r, (c.value = .switchMain ∨ c.value = .switchAlt) → s.throwsOn c.act = [b] → s.release b = some r →
        s.noticed u (.throwFailed r.entry.origin b)) ∧
  (∀ t a c start n (s : State), s.cmds.find? (fun c => c.act == a) = some c → c.sent = some start → start + 50 ≤ max s.now t →
    s.actNode a = some n → (s.nodeS n).state.present = true →
    Completes (.ackTimerExpiry t a) s fun u =>
      (u.nodeS n).state = .lost ∧ (u.nodeS n).localFault = true ∧ (∀ d ∈ u.cmds, s.actNode d.act ≠ some n) ∧
      s.noticed u (.actuatorFault a n c.value .timeout) ∧ s.noticed u (.nodeState n .lost .actuator) ∧
      (s.mode = .run → u.mode = .hold) ∧ (s.mode ≠ .run → u.mc = s.mc) ∧
      ∀ b r, (c.value = .switchMain ∨ c.value = .switchAlt) → s.throwsOn a = [b] → s.release b = some r →
        s.noticed u (.throwFailed r.entry.origin b)) ∧
  ∀ t a c start (s : State), s.cmds.find? (fun c => c.act == a) = some c → c.sent = some start → max s.now t < start + 50 →
    exec (.ackTimerExpiry t a) s = .next (State.event id (s.at_ t))

/-- The node timers: a join unanswered for 50 ms (R120), 60 ms of silence in ACTIVE, 200 ms in SILENT (R121), with the notices,
the NODE holds (R12), the aborted charges (R87) and, for LOST in RUN, the HOLD (R122). That a NODE_SILENT before its 60 ms does nothing is the model's choice
(log 2). -/
def Obligations.NodeTimersMoveRoster : Prop :=
  (∀ t n start (s : State), (s.nodeS n).state = .joining → (s.nodeS n).join = some start → start + 50 ≤ max s.now t →
    Completes (.joinTimerExpiry t n) s fun u =>
      (u.nodeS n).state = .absent ∧ s.noticed u (.nodeState n .absent .joinTimeout) ∧
      ∀ z e, s.zoneE z = some e → n ∈ e.depends → (u.zst z).nodeHold = true) ∧
  (∀ t n heard (s : State), (s.nodeS n).state = .active → (s.nodeS n).lastHeard = some heard → heard + 60 ≤ max s.now t →
    Completes (.nodeSilent t n) s fun u =>
      (u.nodeS n).state = .silent ∧ (∀ z e, s.zoneE z = some e → n ∈ e.depends → (u.zst z).nodeHold = true) ∧
      ∀ k b, (s.launchE k).isSome = true → s.boosterNode k = some n → (s.seqS k).state = .charging →
        (s.seqS k).boat = some b → s.noticed u (.launchAborted k b .nodeLost)) ∧
  (∀ t n heard (s : State), (s.nodeS n).state = .silent → (s.nodeS n).lastHeard = some heard → heard + 200 ≤ max s.now t →
    Completes (.nodeLostSilence t n) s fun u =>
      (u.nodeS n).state = .lost ∧ s.noticed u (.nodeState n .lost .silence) ∧
      (∀ d ∈ u.cmds, s.actNode d.act ≠ some n) ∧ (s.mode = .run → u.mode = .hold) ∧ (s.mode ≠ .run → u.mc = s.mc) ∧
      ∀ z e, s.zoneE z = some e → n ∈ e.depends → (u.zst z).nodeHold = true) ∧
  ∀ t n heard (s : State), (s.nodeS n).state = .active → (s.nodeS n).lastHeard = some heard → max s.now t < heard + 60 →
    exec (.nodeSilent t n) s = .next (State.event id (s.at_ t))

/-! ### Timers -/

/-- A watch that has run for the zone's transit limit stops, flags the occupant overdue, raises OVERDUE, sends the notice and
asks for HOLD; that an expiry before that, or with no watch, does nothing is the model's choice (log 2). A passage into the next
zone stops the watch, and leaves the boat's flag and the fault of the zone it left (R35, R36). A watch starts, with the present
moment, where a boat enters a zone that is not stoppable, at the completion of a gate OPEN for the granted occupant, at a launch's
release while its boat is the occupant, and at a CLEAR_ZONE of an overdue boat's zone; in CONFIG and CHECKING none starts (R34). -/
def Obligations.WatchStartsAndExpires : Prop :=
  (∀ t z e start (s : State), s.zoneE z = some e → (s.zst z).watch = some start → start + e.transit ≤ max s.now t →
    Completes (.watchExpiry t z) s fun u =>
      (u.zst z).watch = none ∧ (u.zst z).fault = some (mergeFault (s.zst z).fault .overdue) ∧ s.holdTaken u ∧
      s.noticed u (.overdue z (s.occupant z)) ∧ u.occupant z = s.occupant z ∧
      ∀ b x, s.occupant z = some b → s.boatR b = some x → ∃ y, u.boatR b = some y ∧ y.overdue = true) ∧
  (∀ t z (s : State), (∀ e start, s.zoneE z = some e → (s.zst z).watch = some start → max s.now t < start + e.transit) →
    exec (.watchExpiry t z) s = .next (State.event id (s.at_ t))) ∧
  (∀ t src sensor n z b x rest (s : State), sensor ≤ 7 → s.nodeOfAddress src = some n → s.zoneOfMarker n sensor = some z →
    (s.zst z).reserved = some b → s.boatR b = some x → x.path = z :: rest → x.zone ≠ z → s.queued b = false →
    Completes (.marker t src sensor 0) s fun u =>
      (u.zst x.zone).watch = none ∧ (u.zst x.zone).fault = (s.zst x.zone).fault ∧
      ∃ y, u.boatR b = some y ∧ y.zone = z ∧ y.overdue = x.overdue) ∧
  (∀ b z x rest e (s : State), s.zoneE z = some e → x.zone ≠ z → ((s.moveBoat b z x rest).zst z).watch =
    if e.kind.stoppable = false ∧ s.mode.watchesStart = true then some s.now else (s.zst z).watch) ∧
  (∀ a z e b r (s : State), s.zoneE z = some e → e.gate = some a → s.occupant z = some b → s.release b = some r →
    r.entry.origin = z → r.stage = .gate →
    ((s.gateOpened a).zst z).watch = if s.mode.watchesStart then some s.now else (s.zst z).watch) ∧
  (∀ k e b (s : State), (s.seqS k).boat = some b → s.occupant e.zone = some b →
    ((s.launchReleased k e).zst e.zone).watch = if s.mode.watchesStart then some s.now else (s.zst e.zone).watch) ∧
  (∀ k e (s : State), s.occupant e.zone ≠ (s.seqS k).boat → s.launchReleased k e = s) ∧
  (∀ z e b x (s : State), s.zoneE z = some e → s.occupant z = some b → s.boatR b = some x →
    ((s.clearDefined z).zst z).watch =
      if x.overdue = true ∧ s.mode.watchesStart = true then some s.now else (s.zst z).watch) ∧
  ∀ m : Mode, m.watchesStart = true ↔ m = .run ∨ m = .hold ∨ m = .stop

/-- The launch timers: a charge that is not READY in time is aborted (R87); a FIRE without DONE in 500 ms is made safe, reported
and held (R88); the end of cooldown makes the sequencer IDLE (R91). -/
def Obligations.LaunchTimersExpire : Prop :=
  (∀ t k e b start (s : State), s.launchE k = some e → (s.seqS k).state = .charging → (s.seqS k).boat = some b →
    (s.seqS k).charge = some start → start + e.charge ≤ max s.now t →
    Completes (.chargeTimerExpiry t k) s fun u =>
      s.noticed u (.launchAborted k b .chargeTimeout) ∧ u.mc = s.mc ∧ (s.queue = [] → (u.seqS k).state = .idle ∧
        ∀ a, s.authE e.booster = some a → a.kind = .booster → (u.actS e.booster).commanded = some .boosterSafe)) ∧
  (∀ t k e b start (s : State), s.launchE k = some e → (s.seqS k).state = .firing → (s.seqS k).boat = some b →
    (s.seqS k).done = some start → start + 500 ≤ max s.now t →
    Completes (.doneTimerExpiry t k) s fun u =>
      s.holdTaken u ∧ s.noticed u (.boosterFault k b .doneTimeout) ∧
      (∀ a, s.authE e.booster = some a → a.kind = .booster → (u.actS e.booster).commanded = some .boosterSafe) ∧
      ((s.seqS k).held = none → s.pathOf b ≠ [] → (∀ j, j ≠ k → (s.seqS j).state ≠ .charging) →
        (u.seqS k).state = .measuring)) ∧
  ∀ t k e start (s : State), s.launchE k = some e → (s.seqS k).state = .cooldown → (s.seqS k).cooldown = some start →
    start + e.cooldown ≤ max s.now t →
    Completes (.cooldownExpiry t k) s fun u => u.mc = s.mc ∧ (s.queue = [] → u.seqS k = .idle)

/-- A pulse timer that has run out stops, and its line falls unless the user follows a high level (R154). INJECT_TRIGGER
delivers one pulse to the users of the channel: AUX lines pulse, latching HOLD users set their zone's latch, NOTICE users send
their notices, a charge of an inhibited section is aborted; a channel above 11 is refused with VALUE (R153 to R158). A TRAP_DONE pulse aborts an
inhibited section's charge with INHIBITED whatever its record asks for afterwards (R97, R157; its place in the event: log 39).
A level generator whose level ends an event changed gives each user of its channel a rise or a fall: a RISING or FALLING AUX user
acts on its own edge alone and starts its pulse, a FOLLOW line takes the level, a RISING or FALLING HOLD user sets its zone's latch
and a FOLLOW one gives the zone its USER hold, a NOTICE user reports the edge it acts on, and an inhibit that has become high aborts
a charge (R150, R153 to R157, R93). A level that ends the event as it began it starts no pulse. A HEARTBEAT of an AUX_NODE is such an event for its inputs (R150). -/
def Obligations.PulsesReachUsers : Prop :=
  (∀ t x stop (s : State), s.pulses[x]? = some (some stop) → stop ≤ max s.now t → Completes (.auxPulseExpiry t x) s fun u =>
    u.pulses[x]? = some none ∧ u.lines[x]? = some ((s.userE x).mode == .follow && s.userLevel x)) ∧
  (∀ t c (s : State), s.requestFree → c ≤ 11 → Completes (.injectTrigger t false c) s fun u =>
    u.answered (.plain .ok) ∧
    (∀ x, x < 8 → (s.userE x).chan = c + 1 → u.pulses[x]? = some (some (max s.now t + (s.userE x).param))) ∧
    (∀ x, 8 ≤ x → x < 16 → (s.userE x).chan = c + 1 → (s.userE x).mode ≠ .follow →
      (s.zoneE (s.userE x).param).isSome = true → (u.zst (s.userE x).param).latch = true) ∧
    (∀ x, 16 ≤ x → x < 20 → (s.userE x).chan = c + 1 → (s.userE x).mode ≠ .follow →
      s.noticed u (.trigger x c (s.chanE c) .pulse .injected)) ∧
    (∀ x, 16 ≤ x → x < 20 → (s.userE x).chan = c + 1 → (s.userE x).mode = .follow →
      s.noticed u (.trigger x c (s.chanE c) .rise .injected) ∧ s.noticed u (.trigger x c (s.chanE c) .fall .injected)) ∧
    ∀ x b, x = 20 ∨ x = 21 → (s.userE x).chan = c + 1 → (s.launchE (s.userE x).param).isSome = true →
      (s.seqS (s.userE x).param).state = .charging → (s.seqS (s.userE x).param).boat = some b →
      s.noticed u (.launchAborted (s.userE x).param b .inhibited)) ∧
  (∀ t c (s : State), s.requestFree → 12 ≤ c → Completes (.injectTrigger t false c) s fun u =>
    u.answered (.plain .value) ∧ u.pulses = s.pulses) ∧
  (∀ t src pair interval n i e c x b (s : State), pair ≤ 1 → s.nodeOfAddress src = some n → s.trapOf n pair = some (i, e) →
    s.chanE c = some (.trapDone i) → (x = 20 ∨ x = 21) → (s.userE x).chan = c + 1 → (s.launchE (s.userE x).param).isSome = true →
    (s.seqS (s.userE x).param).state = .charging → (s.seqS (s.userE x).param).boat = some b →
    Completes (.trap t src pair interval) s fun u => s.noticed u (.launchAborted (s.userE x).param b .inhibited)) ∧
  (∀ (f : State → State) c x (s : State), (f s).chanE c = s.chanE c → c < 12 → s.chanLevel c = false → (f s).chanLevel c = true →
    ((f s).userE x).chan = c + 1 →
    (x < 8 → ((f s).userE x).mode = .rising →
      (State.event f s).pulses[x]? = some (some ((f s).now + ((f s).userE x).param))) ∧
    (x < 8 → ((f s).userE x).mode ≠ .rising → (State.event f s).pulses[x]? = (f s).pulses[x]?) ∧
    (x < 8 → ((f s).userE x).mode = .follow → (State.event f s).lines[x]? = some true) ∧
    (8 ≤ x → x < 16 → ((f s).userE x).mode = .rising → ((f s).zoneE ((f s).userE x).param).isSome = true →
      ((State.event f s).zst ((f s).userE x).param).latch = true) ∧
    (8 ≤ x → x < 16 → ((f s).userE x).mode = .follow → ((f s).zoneE ((f s).userE x).param).isSome = true →
      ((State.event f s).zst ((f s).userE x).param).userHold = true) ∧
    (16 ≤ x → x < 20 → ((f s).userE x).mode ≠ .falling →
      (f s).noticed (State.event f s) (.trigger x c (s.chanE c) .rise .generated)) ∧
    ∀ b, x = 20 ∨ x = 21 → ((f s).launchE ((f s).userE x).param).isSome = true →
      ((f s).seqS ((f s).userE x).param).state = .charging → ((f s).seqS ((f s).userE x).param).boat = some b →
      (f s).noticed (State.event f s) (.launchAborted ((f s).userE x).param b .inhibited)) ∧
  (∀ (f : State → State) c x (s : State), (f s).chanE c = s.chanE c → c < 12 → s.chanLevel c = true → (f s).chanLevel c = false →
    ((f s).userE x).chan = c + 1 →
    (x < 8 → ((f s).userE x).mode = .falling →
      (State.event f s).pulses[x]? = some (some ((f s).now + ((f s).userE x).param))) ∧
    (x < 8 → ((f s).userE x).mode ≠ .falling → (State.event f s).pulses[x]? = (f s).pulses[x]?) ∧
    (x < 8 → ((f s).userE x).mode = .follow → (f s).pulses[x]? = some none → (State.event f s).lines[x]? = some false) ∧
    (8 ≤ x → x < 16 → ((f s).userE x).mode = .falling → ((f s).zoneE ((f s).userE x).param).isSome = true →
      ((State.event f s).zst ((f s).userE x).param).latch = true) ∧
    (16 ≤ x → x < 20 → ((f s).userE x).mode ≠ .rising →
      (f s).noticed (State.event f s) (.trigger x c (s.chanE c) .fall .generated))) ∧
  (∀ (f : State → State) c x (s : State), ((f s).userE x).chan = c + 1 → (f s).chanLevel c = s.chanLevel c → x < 8 →
    (State.event f s).pulses[x]? = (f s).pulses[x]?) ∧
  (∀ t src inputs n e c x i (s : State), s.nodeOfAddress src = some n → s.nodeE n = some e → e.kind = .aux → i < 4 →
    s.chanE c = some (.nodeInput n i) → (s.inputS n).getLsbD i = false → inputs.getLsbD i = true → (s.userE x).chan = c + 1 →
    Completes (.heartbeat t src inputs) s fun u =>
      (x < 8 → (s.userE x).mode = .rising → u.pulses[x]? = some (some (max s.now t + (s.userE x).param))) ∧
      (8 ≤ x → x < 16 → (s.userE x).mode = .rising → (s.zoneE (s.userE x).param).isSome = true →
        (u.zst (s.userE x).param).latch = true) ∧
      (16 ≤ x → x < 20 → (s.userE x).mode ≠ .falling → s.noticed u (.trigger x c (s.chanE c) .rise .generated)) ∧
      ∀ b, x = 20 ∨ x = 21 → (s.launchE (s.userE x).param).isSome = true → (s.seqS (s.userE x).param).state = .charging →
        (s.seqS (s.userE x).param).boat = some b → s.noticed u (.launchAborted (s.userE x).param b .inhibited)) ∧
  ∀ t src inputs n e c x i (s : State), s.nodeOfAddress src = some n → s.nodeE n = some e → e.kind = .aux → i < 4 →
    s.chanE c = some (.nodeInput n i) → (s.inputS n).getLsbD i = true → inputs.getLsbD i = false → (s.userE x).chan = c + 1 →
    Completes (.heartbeat t src inputs) s fun u =>
      (x < 8 → (s.userE x).mode = .falling → u.pulses[x]? = some (some (max s.now t + (s.userE x).param))) ∧
      (8 ≤ x → x < 16 → (s.userE x).mode = .falling → (s.zoneE (s.userE x).param).isSome = true →
        (u.zst (s.userE x).param).latch = true) ∧
      (16 ≤ x → x < 20 → (s.userE x).mode ≠ .rising → s.noticed u (.trigger x c (s.chanE c) .fall .generated))

/-- The table check: the first failing entry ends it in CONFIG with its result (R146, R147); an item that passes hands on to the
next; after item 10 the mode becomes RUN, or HOLD where a hold is pending or a defined zone has a fault. -/
def Obligations.CheckItemEndsOrGoesOn : Prop :=
  (∀ t c f (s : State), s.mc.check = some c → s.checkNth c.item = some f → Completes (.checkItem t) s fun u =>
    u.mode = .config ∧ u.mc.check = none ∧ u.mc.layoutChecked = false ∧
    u.mc.result = ⟨.failed, some c.item, some f.table, some f.index, some f.reason, f.subject⟩ ∧
    s.noticed u (.modeChanged .config s.mode .checkFailed)) ∧
  (∀ t c (s : State), s.mc.check = some c → s.checkNth c.item = none → c.item < 10 → Completes (.checkItem t) s fun u =>
    u.mc = { s.mc with check := some { c with item := c.item + 1 } }) ∧
  (∀ t c (s : State), s.mc.check = some c → s.checkNth c.item = none → 10 ≤ c.item → s.mc.holdPending = false →
    s.anyFault = false → Completes (.checkItem t) s fun u =>
      u.mode = .run ∧ u.mc.check = none ∧ u.mc.layoutChecked = true ∧
      u.mc.result = { CheckResult.empty with outcome := .passed } ∧
      s.noticed u (.modeChanged .run s.mode .checkPassed)) ∧
  ∀ t c (s : State), s.mc.check = some c → s.checkNth c.item = none → 10 ≤ c.item →
    (s.mc.holdPending = true ∨ s.anyFault = true) → Completes (.checkItem t) s fun u =>
      u.mode = .hold ∧ u.mc.check = none ∧ u.mc.layoutChecked = true ∧ u.mc.holdPending = false ∧
      u.mc.result = { CheckResult.empty with outcome := .passed } ∧
      s.noticed u (.modeChanged .hold s.mode .checkHeld)

/-- What the items of the table check ask, and what a failing entry is reported as: the first failing zone of items 1 to 4 with
its reason; the back references, zone kinds and trap uses of item 5; the bands of item 6; the path end of item 7; the authority
entries of item 8; the ACTIVE nodes of item 9; the boats' zones of item 10 (R146, R147). Which number is the subject,
which of the tests on one entry comes first, and that a BRAKE trap naming an undefined run fails item 5, is the model's choice
(log 25). -/
def Obligations.CheckItemsExamineTables : Prop :=
  (∀ i (s : State), 1 ≤ i → i ≤ 4 → (s.checkNth i = none ↔ ∀ z e, s.zoneE z = some e → s.zonePasses i z e)) ∧
  (∀ i f (s : State), 1 ≤ i → i ≤ 4 → s.checkNth i = some f → f.table = .zone ∧
    (∃ e, s.zoneE f.index = some e ∧ ¬ s.zonePasses i f.index e) ∧
    ∀ z e, z < f.index → s.zoneE z = some e → s.zonePasses i z e) ∧
  (∀ f (s : State), s.checkNth 1 = some f → ∃ e y, s.zoneE f.index = some e ∧ (y = e.main ∨ e.alt = some y) ∧
    f.subject = some y ∧ ((f.reason = .undefinedSuccessor ∧ s.zoneE y = none) ∨ (f.reason = .selfSuccessor ∧ y = f.index))) ∧
  (∀ f (s : State), (s.checkNth 2 = some f → f.reason = .switchPair) ∧ (s.checkNth 3 = some f → f.reason = .gate)) ∧
  (∀ f (s : State), s.checkNth 4 = some f → ∃ r x, s.walk f.index r = .error x ∧
    f.reason = (if x = .loop then .pathLoop else .pathLength)) ∧
  (∀ s : State, s.checkNth 5 = none ↔ s.backReferencesPass) ∧
  (∀ f (s : State), s.checkNth 5 = some f →
    f.reason = .backReference ∨ f.reason = .zoneKind ∨ (f.reason = .trapUse ∧ (f.table = .launch ∨ f.table = .trap)) ∨
      (f.reason = .runTrapCount ∧ f.table = .run)) ∧
  (∀ s : State, s.checkNth 6 = none ↔ (∀ k e, s.launchE k = some e → ∃ i, i < 8 ∧ (s.band k i).isSome = true) ∧
    ∀ k i j x y, k < 2 → i < j → j < 8 → s.band k i = some x → s.band k j = some y → x.upper < y.upper) ∧
  (∀ f (s : State), s.checkNth 6 = some f →
    (f.table = .launch ∧ f.reason = .noBand ∧ ∀ i, i < 8 → s.band f.index i = none) ∨
    (f.table = .band ∧ f.reason = .bandOrder ∧ ∃ y, s.bandE f.index = some y)) ∧
  (∀ s : State, s.checkNth 7 = none ↔ ∀ k e, s.launchE k = some e →
    ∃ p r, s.walk e.zone .main = .ok p ∧ s.runE e.run = some r ∧ p.getLast? = some r.zone) ∧
  (∀ f (s : State), s.checkNth 7 = some f → f.table = .launch ∧ f.reason = .pathEnd) ∧
  (∀ s : State, s.checkNth 8 = none ↔ (∀ t i a k, s.names t i a k → ∃ e, s.authE a = some e ∧ e.kind = k ∧ e.owner = .controller) ∧
    ∀ t i t' i' a k k', s.names t i a k → s.names t' i' a k' → t = t' ∧ i = i' ∧ k = k') ∧
  (∀ f (s : State), s.checkNth 8 = some f → ∃ a k, s.names f.table f.index a k ∧ f.subject = some a ∧
    ((f.reason = .authorityUndefined ∧ s.authE a = none) ∨
     (∃ e, f.reason = .authorityKind ∧ s.authE a = some e ∧ e.kind ≠ k) ∨
     (∃ e, f.reason = .authorityOwner ∧ s.authE a = some e ∧ e.kind = k ∧ e.owner ≠ .controller) ∨
     (∃ e, f.reason = .authorityShared ∧ s.authE a = some e ∧ e.kind = k ∧ e.owner = .controller))) ∧
  (∀ s : State, s.checkNth 9 = none ↔
    (∀ z e n, s.zoneE z = some e → (n = e.markerNode ∨ n ∈ e.depends) → s.nodeActive n = true) ∧
    (∀ b e, s.berthE b = some e → s.nodeActive e.node = true) ∧ (∀ i e, s.trapE i = some e → s.nodeActive e.node = true) ∧
    ∀ t i a k e, s.names t i a k → s.authE a = some e → s.nodeActive e.node = true) ∧
  (∀ f (s : State), s.checkNth 9 = some f → f.reason = .nodeNotActive ∧ ∃ n, f.subject = some n ∧ s.nodeActive n = false) ∧
  (∀ s : State, s.checkNth 10 = none ↔ ∀ b x, s.boatR b = some x → s.stoppable x.zone = true) ∧
  ∀ f (s : State), s.checkNth 10 = some f → f.table = .boat ∧ f.reason = .boatZone ∧
    ∃ x, s.boatR (f.index + 1) = some x ∧ f.subject = some x.zone ∧ s.stoppable x.zone = false

/-! ### Management records -/

/-- SELECT_TABLE waits for its SELECT_INDEX; the pair gets one result twice and moves the pointer only with OK; a SELECT_INDEX
alone gets SEQUENCE (R175). -/
def Obligations.SelectionMovesPointer : Prop :=
  (∀ t table (s : State), s.requestFree → Completes (.selectTable t false table) s fun u =>
    u.req = some ⟨[], some table, none, false, false⟩ ∧ u.ptr = s.ptr) ∧
  (∀ t table index (s : State), s.req = some ⟨[], some table, none, false, false⟩ →
    Completes (.selectIndex t false index) s fun u =>
      (Table.ofCode table = none → u.ptr = s.ptr ∧
        u.req = some ⟨[.plain .table, .plain .table], none, none, false, false⟩) ∧
      (∀ k, Table.ofCode table = some k → k.entries ≤ index → u.ptr = s.ptr ∧
        u.req = some ⟨[.plain .index, .plain .index], none, none, false, false⟩) ∧
      ∀ k, Table.ofCode table = some k → index < k.entries → u.ptr = (k, index) ∧
        u.req = some ⟨[.plain .ok, .plain .ok], none, none, false, false⟩) ∧
  (∀ t index (s : State), s.requestFree → Completes (.selectIndex t false index) s fun u =>
    u.answered (.plain .sequence) ∧ u.ptr = s.ptr) ∧
  ∀ table, (Table.ofCode table).isSome = true ↔ table ≤ 18

/-- A WRITE is tested in order: READ_ONLY, BUSY, MODE, VALUE (shown on TRAP, on a ZONE without the gate its kind requires, and on
a CLASS), CONFLICT (shown on TRAP and ZONE); a refused one leaves tables and pointer, a taken one stores the entry, clamped, and
moves the pointer on (shown on STAGE, CLASS, BAND, NODE and AUTHORITY, with the effects on node and actuator status) (R176, R2, R187,
R9, R81, R96, R16, R102, R123, R126). That a CLASS number coded all ones is absent, and so VALUE, is the model's reading (log 37). -/
def Obligations.WriteIsTestedAndStored : Prop :=
  (∀ t img (s : State), s.requestFree → 12 ≤ s.ptr.1.code → Completes (.write t false img) s fun u =>
    u.answered (.plain .readOnly) ∧ u.tab = s.tab ∧ u.ptr = s.ptr) ∧
  (∀ t img (s : State), s.requestFree → s.ptr.1.code < 10 → s.mode = .checking → Completes (.write t false img) s fun u =>
    u.answered (.plain .busy) ∧ u.tab = s.tab ∧ u.ptr = s.ptr) ∧
  (∀ t img (s : State), s.requestFree → s.ptr.1.code < 10 → s.ptr.1 ≠ .stage →
    (s.mode = .run ∨ s.mode = .hold ∨ s.mode = .stop) → Completes (.write t false img) s fun u =>
      u.answered (.plain .mode) ∧ u.tab = s.tab ∧ u.ptr = s.ptr) ∧
  (∀ t img (s : State), s.requestFree → s.ptr.1 = .stage → (s.mode = .run ∨ s.mode = .hold ∨ s.mode = .stop) →
    (byteAt img 0 ≠ (s.stageE s.ptr.2).fin ∨ wordAt img 1 ≠ (s.stageE s.ptr.2).nominal) →
    Completes (.write t false img) s fun u => u.answered (.plain .mode) ∧ u.tab = s.tab ∧ u.ptr = s.ptr) ∧
  (∀ t img (s : State), s.requestFree → s.ptr.1 = .stage → s.ptr.2 < 16 → s.mode ≠ .checking →
    byteAt img 0 = (s.stageE s.ptr.2).fin → byteAt img 0 ≤ 63 → wordAt img 1 = (s.stageE s.ptr.2).nominal →
    wordAt img 1 ≤ 20000 → -16 ≤ signed1 (byteAt img 3) → signed1 (byteAt img 3) ≤ 15 →
    Completes (.write t false img) s fun u => u.answered (.plain .ok) ∧
      u.stageE s.ptr.2 = { s.stageE s.ptr.2 with trim := signed1 (byteAt img 3) } ∧ u.ptr = (.stage, (s.ptr.2 + 1) % 16)) ∧
  (∀ t img i (s : State), s.requestFree → s.mode = .config → s.ptr = (.cls, i) → i < 4 →
    wordAt img 0 ≠ 65535 → wordAt img 2 ≠ 65535 →
    Completes (.write t false img) s fun u =>
      u.clsE i = ⟨clamp 100 800 (wordAt img 0), clamp (clamp 100 800 (wordAt img 0)) 1500 (wordAt img 2)⟩ ∧
      u.ptr = (.cls, (i + 1) % 4) ∧
      u.answered (.plain (if u.clsE i = ⟨wordAt img 0, wordAt img 2⟩ then .ok else .okClamped))) ∧
  (∀ t img i x clamped (s : State), s.requestFree → s.mode = .config → s.ptr = (.band, i) → i < 16 →
    decodeBand img = some (x, clamped) →
    Completes (.write t false img) s fun u => u.bandE i = x ∧ u.ptr = (.band, (i + 1) % 16) ∧
      u.answered (.plain (if clamped then .okClamped else .ok))) ∧
  (∀ t img i (s : State), s.requestFree → s.mode = .config → s.ptr = (.cls, i) → wordAt img 0 = 65535 ∨ wordAt img 2 = 65535 →
    Completes (.write t false img) s fun u => u.answered (.plain .value) ∧ u.tab = s.tab ∧ u.ptr = s.ptr) ∧
  (∀ t img i (s : State), s.requestFree → s.mode = .config → s.ptr = (.zone, i) → byteAt img 0 = 1 →
    byteAt img 1 = 0 ∨ byteAt img 1 = 2 ∨ byteAt img 1 = 5 ∨ byteAt img 1 = 6 → byteAt img 7 = 255 →
    Completes (.write t false img) s fun u => u.answered (.plain .value) ∧ u.tab = s.tab ∧ u.ptr = s.ptr) ∧
  (∀ t img i (s : State), s.requestFree → s.mode = .config → s.ptr = (.trap, i) → decodeTrap img = none →
    Completes (.write t false img) s fun u => u.answered (.plain .value) ∧ u.tab = s.tab ∧ u.ptr = s.ptr) ∧
  (∀ t img i x clamped j y (s : State), s.requestFree → s.mode = .config → s.ptr = (.trap, i) → decodeTrap img = some (some x, clamped) →
    j ≠ i → s.trapE j = some y → y.node = x.node → y.pair = x.pair →
    Completes (.write t false img) s fun u => u.answered (.plain .conflict) ∧ u.tab = s.tab ∧ u.ptr = s.ptr) ∧
  (∀ t img i clamped (s : State), s.requestFree → s.mode = .config → s.ptr = (.zone, i) → decodeZone img = some (none, clamped) →
    ((s.occupant i).isSome = true ∨ (s.zst i).reserved.isSome = true) →
    Completes (.write t false img) s fun u => u.answered (.plain .conflict) ∧ u.tab = s.tab ∧ u.ptr = s.ptr) ∧
  (∀ t img i x clamped (s : State), s.requestFree → s.mode = .config → s.ptr = (.node, i) → i < 48 →
    decodeNode img = some (some x, clamped) → (∀ j y, j ≠ i → s.nodeE j = some y → y.address ≠ x.address) →
    Completes (.write t false img) s fun u => u.nodeE i = some x ∧ u.ptr = (.node, (i + 1) % 48) ∧
      ((∀ y, s.nodeE i = some y → y.address ≠ x.address ∨ y.kind ≠ x.kind) →
        (u.nodeS i).state = .absent ∧ u.inputS i = 0)) ∧
  ∀ t img i x clamped (s : State), s.requestFree → s.mode = .config → s.sequencersSound → s.ptr = (.authority, i) → i < 64 →
    decodeAuth img = some (some x, clamped) → (∀ j y, j ≠ i → s.authE j = some y → y.node = x.node → y.num ≠ x.num) →
    Completes (.write t false img) s fun u => u.authE i = some x ∧ u.ptr = (.authority, (i + 1) % 64) ∧
      (x.kind ≠ .lamp → x.kind ≠ .lock →
        (∀ y, s.authE i = some y → y.node ≠ x.node ∨ y.num ≠ x.num ∨ y.kind ≠ x.kind) →
        u.actS i = ⟨some x.kind.safe, false⟩ ∧ ∀ c ∈ u.cmds, c.act ≠ i)

/-- What a taken WRITE to the other tables stores, and what it does to status: ZONE keeps the zone's status but for its holds,
evaluated afresh, and closes a named gate, or clears the status of an entry made undefined (R16, R142); TRAP and LAUNCH store the
entry (R80, R96); RUN and STAGE restore the run from the entry as stored (R114); BERTH derives the berth's state, keeping its readings
only with its node, and hands both values, shown where no other berth names the actuators (R61); CHANNEL and USER
move FOLLOW users, lines and holds without an edge, and an INHIBIT level that has become high aborts a charge (R149, R152, R159).
Each of them moves the pointer on (R176), and clamps the numbers of its image (R6, R80, R81, R96, R101, R102, R152, R187). That a
required number coded all ones is absent, and so VALUE, is the model's reading (log 37), and that parameter bytes an entry does not
use are ignored, and that a rewritten berth keeps its weight with its node in every state, its choice (log 45, 48). -/
def Obligations.WritesTakeEffect : Prop :=
  (∀ t img i x clamped (s : State), s.requestFree → s.mode = .config → s.sequencersSound → s.ptr = (.zone, i) → i < 64 →
    decodeZone img = some (some x, clamped) →
    (∀ j y, j ≠ i → s.zoneE j = some y → y.markerNode = x.markerNode → y.markerSensor ≠ x.markerSensor) →
    Completes (.write t false img) s fun u => u.zoneE i = some x ∧ u.ptr = (.zone, (i + 1) % 64) ∧
      u.answered (.plain (if clamped then .okClamped else .ok)) ∧
      u.zst i = { s.zst i with nodeHold := s.wantsNodeHold x, userHold := (s.zst i).latch || s.followHolds.contains i } ∧
      ∀ a y, x.gate = some a → s.authE a = some y → y.kind = .gate → (u.actS a).commanded = some .gateClose) ∧
  (∀ t img i clamped (s : State), s.requestFree → s.mode = .config → s.sequencersSound → s.ptr = (.zone, i) → i < 64 →
    decodeZone img = some (none, clamped) → s.occupant i = none → (s.zst i).reserved = none →
    Completes (.write t false img) s fun u => u.zoneE i = none ∧ u.zst i = .clear ∧ u.ptr = (.zone, (i + 1) % 64)) ∧
  (∀ t img i x clamped (s : State), s.requestFree → s.mode = .config → s.ptr = (.trap, i) → i < 8 →
    decodeTrap img = some (some x, clamped) → (∀ j y, j ≠ i → s.trapE j = some y → y.node = x.node → y.pair ≠ x.pair) →
    Completes (.write t false img) s fun u => u.trapE i = some x ∧ u.ptr = (.trap, (i + 1) % 8) ∧
      u.answered (.plain (if clamped then .okClamped else .ok))) ∧
  (∀ t img i x clamped (s : State), s.requestFree → s.mode = .config → s.ptr = (.launch, i) → i < 2 →
    decodeLaunch img = some (some x, clamped) →
    (∀ j y, j ≠ i → s.launchE j = some y → y.zone ≠ x.zone ∧ y.booster ≠ x.booster ∧ y.trap ≠ x.trap) →
    Completes (.write t false img) s fun u => u.launchE i = some x ∧ u.ptr = (.launch, (i + 1) % 2) ∧
      u.answered (.plain (if clamped then .okClamped else .ok))) ∧
  (∀ t img i x clamped (s : State), s.requestFree → s.mode = .config → s.ptr = (.run, i) → i < 2 →
    decodeRun img = some (some x, clamped) → (∀ j y, j ≠ i → s.runE j = some y → y.zone ≠ x.zone) →
    Completes (.write t false img) s fun u => u.runE i = some x ∧ u.ptr = (.run, (i + 1) % 2) ∧
      u.answered (.plain (if clamped then .okClamped else .ok)) ∧ (u.runS i).boat = none ∧ (u.runS i).count = none ∧
      (u.runS i).state ≠ .set ∧ ((u.runS i).state = .restoring ↔ ∃ j : Nat, (u.runS i).awaiting[j]? = some true) ∧
      ∀ j a, j < x.stages → s.authE (s.stageOf i j).fin = some a → a.kind = .fin →
        (u.actS (s.stageOf i j).fin).commanded = some .finEngage) ∧
  (∀ t img i clamped (s : State), s.requestFree → s.mode = .config → s.ptr = (.run, i) → i < 2 →
    decodeRun img = some (none, clamped) →
    Completes (.write t false img) s fun u => u.runE i = none ∧ u.runS i = .ready) ∧
  (∀ t img i x clamped (s : State), s.requestFree → s.mode = .config → s.ptr = (.stage, i) → i < 16 →
    decodeStage img = some (x, clamped) →
    Completes (.write t false img) s fun u => u.stageE i = x ∧ u.ptr = (.stage, (i + 1) % 16) ∧
      u.answered (.plain (if clamped then .okClamped else .ok)) ∧
      ∀ e a, s.runE (i / 8) = some e → i % 8 < e.stages → s.authE x.fin = some a → a.kind = .fin →
        (u.runS (i / 8)).boat = none ∧ (u.runS (i / 8)).count = none ∧ (u.actS x.fin).commanded = some .finEngage) ∧
  (∀ t img i x clamped (s : State), s.requestFree → s.mode = .config → s.sequencersSound → s.ptr = (.berth, i) → i < 6 →
    decodeBerth img = some (some x, clamped) → (∀ j y, j ≠ i → s.berthE j = some y → y.zone ≠ x.zone ∧ y.node ≠ x.node) →
    Completes (.write t false img) s fun u => u.berthE i = some x ∧ u.ptr = (.berth, (i + 1) % 6) ∧
      ((∃ y, s.berthE i = some y ∧ y.node = x.node) → (u.berthS i).presence = (s.berthS i).presence ∧
        (u.berthS i).latch = (s.berthS i).latch ∧ (u.berthS i).weight = (s.berthS i).weight) ∧
      ((∀ y, s.berthE i = some y → y.node ≠ x.node) → (u.berthS i).presence = false ∧
        (u.berthS i).latch = false ∧ (u.berthS i).weight = none) ∧
      (u.berthS i).pending = false ∧ (u.berthS i).reason = .none ∧
      (u.berthS i).lampDone = false ∧ (u.berthS i).lockDone = false ∧
      (u.berthS i).state = (if s.occupant x.zone = none ∨ (u.berthS i).presence = false then .empty
        else if (u.berthS i).latch = true ∧ s.lockConfirmed x = true then .secured else .occupied) ∧
      (∀ a, s.authE x.lamp = some a → a.kind = .lamp → (∀ j y, j ≠ i → s.berthE j = some y → y.lamp ≠ x.lamp) →
        u.actS x.lamp = ⟨some (u.berthS i).lamp.value, false⟩) ∧
      ∀ a, s.authE x.lock = some a → a.kind = .lock → (∀ j y, j ≠ i → s.berthE j = some y → y.lock ≠ x.lock) →
        u.actS x.lock = ⟨some (u.berthS i).lock.value, false⟩) ∧
  (∀ t img i clamped (s : State), s.requestFree → s.mode = .config → s.sequencersSound → s.ev = Ev.none →
    s.ptr = (.berth, i) → i < 6 → decodeBerth img = some (none, clamped) →
    Completes (.write t false img) s fun u => u.berthE i = none ∧ u.berthS i = .initial ∧ u.acts = s.acts ∧ u.cmds = s.cmds) ∧
  (∀ t img i g (s : State), s.requestFree → s.ptr = (.channel, i) → i < 12 → decodeChannel i img = some g →
    Completes (.write t false img) s fun u => u.chanE i = g ∧ u.ptr = (.channel, (i + 1) % 12) ∧ u.answered (.plain .ok) ∧
      u.pulses = s.pulses ∧ u.mc = s.mc ∧ (∀ x, x < 8 → u.lines[x]? = some (u.auxLine x)) ∧
      (∀ z e, s.zoneE z = some e → (u.zst z).latch = (s.zst z).latch ∧
        (u.zst z).userHold = ((u.zst z).latch || u.followHolds.contains z)) ∧
      ∀ x k b, x = 20 ∨ x = 21 → (s.userE x).param = k → u.userLevel x = true → (s.launchE k).isSome = true →
        (s.seqS k).state = .charging → (s.seqS k).boat = some b → s.noticed u (.launchAborted k b .inhibited)) ∧
  (∀ t img i e clamped (s : State), s.requestFree → s.ptr = (.user, i) → i < 22 → decodeUser i img = some (e, clamped) →
    Completes (.write t false img) s fun u => u.userE i = e ∧ u.ptr = (.user, (i + 1) % 22) ∧
      u.answered (.plain (if clamped then .okClamped else .ok)) ∧
      u.pulses = s.pulses ∧ u.mc = s.mc ∧ (∀ x, x < 8 → u.lines[x]? = some (u.auxLine x)) ∧
      (∀ z e, s.zoneE z = some e → (u.zst z).latch = (s.zst z).latch ∧
        (u.zst z).userHold = ((u.zst z).latch || u.followHolds.contains z)) ∧
      ∀ x k b, x = 20 ∨ x = 21 → (u.userE x).param = k → u.userLevel x = true → (s.launchE k).isSome = true →
        (s.seqS k).state = .charging → (s.seqS k).boat = some b → s.noticed u (.launchAborted k b .inhibited)) ∧
  (∀ img e c, decodeZone img = some (some e, c) → e.fits ∧ e.transit = clamp 100 60000 (wordAt img 8) ∧
    (wordAt img 10 = 65535 → e.speedLimit = none) ∧
    (wordAt img 10 ≠ 65535 → e.speedLimit = some (clamp 500 20000 (wordAt img 10))) ∧
    (c = true ↔ e.transit ≠ wordAt img 8 ∨ ∃ v, e.speedLimit = some v ∧ v ≠ wordAt img 10)) ∧
  (∀ img e c, decodeTrap img = some (some e, c) → e.fits ∧ e.spacing = clamp 50 2000 (wordAt img 3) ∧
    (c = true ↔ e.spacing ≠ wordAt img 3)) ∧
  (∀ img e c, decodeLaunch img = some (some e, c) → e.fits ∧ e.charge = clamp 100 5000 (wordAt img 5) ∧
    e.cooldown = clamp 0 30000 (wordAt img 7) ∧ e.tolerance = clamp 0 25 (byteAt img 9) ∧
    (c = true ↔ e.charge ≠ wordAt img 5 ∨ e.cooldown ≠ wordAt img 7 ∨ e.tolerance ≠ byteAt img 9)) ∧
  (∀ img e c, decodeBand img = some (some e, c) → e.fits ∧ e.upper = clamp 0 4095 (wordAt img 1) ∧
    e.target = clamp 500 15000 (wordAt img 3) ∧ e.drop = clamp 0 20000 (wordAt img 5) ∧
    (c = true ↔ e.upper ≠ wordAt img 1 ∨ e.target ≠ wordAt img 3 ∨ e.drop ≠ wordAt img 5)) ∧
  (∀ img e c, decodeRun img = some (some e, c) → e.fits ∧ e.length = clamp 1000 60000 (wordAt img 2) ∧
    e.exit = clamp 0 5000 (wordAt img 4) ∧ e.passive = clamp 0 20000 (wordAt img 6) ∧ e.maxEntry = clamp 0 20000 (wordAt img 8) ∧
    e.water = clamp 0 200 (byteAt img 10) ∧ e.stages = clamp 1 8 (byteAt img 11) ∧ e.minStages = clamp 0 e.stages (byteAt img 12) ∧
    (c = true ↔ e.length ≠ wordAt img 2 ∨ e.exit ≠ wordAt img 4 ∨ e.passive ≠ wordAt img 6 ∨ e.maxEntry ≠ wordAt img 8 ∨
      e.water ≠ byteAt img 10 ∨ e.stages ≠ byteAt img 11 ∨ e.minStages ≠ byteAt img 12)) ∧
  (∀ img e c, decodeStage img = some (e, c) → e.fits ∧ e.nominal = clamp 0 20000 (wordAt img 1) ∧
    e.trim = max (-16) (min 15 (signed1 (byteAt img 3))) ∧
    (c = true ↔ e.nominal ≠ wordAt img 1 ∨ e.trim ≠ signed1 (byteAt img 3))) ∧
  (∀ u img e c, u < 8 → decodeUser u img = some (e, c) → e.fits u ∧ e.param = clamp 1 2000 (wordAt img 2) ∧
    (c = true ↔ e.param ≠ wordAt img 2)) ∧
  ∀ img, byteAt img 0 = 1 → wordAt img 8 = 65535 → decodeZone img = none

/-- Every table entry within its values reads back as the image a WRITE takes for it, unclamped: decoding the image of an entry gives
the entry, for every table the supervisor writes (R176, R177, R186). -/
def Obligations.EntryImagesDecodeBack : Prop :=
  (∀ i (s : State), (∀ e, s.zoneE i = some e → e.fits) → decodeZone (s.entryImage .zone i) = some (s.zoneE i, false)) ∧
  (∀ i (s : State), (s.clsE i).fits → decodeClass (s.entryImage .cls i) = some (s.clsE i, false)) ∧
  (∀ i (s : State), (∀ e, s.nodeE i = some e → e.fits) → decodeNode (s.entryImage .node i) = some (s.nodeE i, false)) ∧
  (∀ i (s : State), (∀ e, s.authE i = some e → e.fits) → decodeAuth (s.entryImage .authority i) = some (s.authE i, false)) ∧
  (∀ i (s : State), (∀ e, s.trapE i = some e → e.fits) → decodeTrap (s.entryImage .trap i) = some (s.trapE i, false)) ∧
  (∀ i (s : State), (∀ e, s.launchE i = some e → e.fits) → decodeLaunch (s.entryImage .launch i) = some (s.launchE i, false)) ∧
  (∀ i (s : State), (∀ e, s.bandE i = some e → e.fits) → decodeBand (s.entryImage .band i) = some (s.bandE i, false)) ∧
  (∀ i (s : State), (∀ e, s.runE i = some e → e.fits) → decodeRun (s.entryImage .run i) = some (s.runE i, false)) ∧
  (∀ i (s : State), (s.stageE i).fits → decodeStage (s.entryImage .stage i) = some (s.stageE i, false)) ∧
  (∀ i (s : State), (∀ e, s.berthE i = some e → e.fits) → decodeBerth (s.entryImage .berth i) = some (s.berthE i, false)) ∧
  (∀ i (s : State), (∀ g, s.chanE i = some g → g.fits i) → decodeChannel i (s.entryImage .channel i) = some (s.chanE i)) ∧
  ∀ i (s : State), i < 22 → (s.userE i).fits i → decodeUser i (s.entryImage .user i) = some (s.userE i, false)

/-- The bytes of the images a READ answers, 26 each, and of the STATUS data: the fields in their order, numbers high byte
first, absent ones all ones, flags 0 or 1, elapsed times with a presence byte, the rest zero (R177, R178, R183, R186). The places and
codings that R183 and R186 leave open are the model's choice (log 17). -/
def Obligations.ImagesHaveStatedBytes : Prop :=
  (∀ t i (s : State), (s.entryImage t i).length = 26) ∧
  (∀ i e (s : State), s.zoneE i = some e → s.entryImage .zone i = bytes26 ([1, e.kind.code, e.main, e.alt.getD 255,
    e.switch.getD 255, e.markerNode, e.markerSensor, e.gate.getD 255] ++ hiLo e.transit ++ hiLo (e.speedLimit.getD 65535) ++
    [e.depends.length, e.depends.getD 0 0, e.depends.getD 1 0, e.depends.getD 2 0, e.depends.getD 3 0, e.berth.getD 255,
     e.sec.getD 255, e.run.getD 255])) ∧
  (∀ i (s : State), s.entryImage .cls i = bytes26 (hiLo (s.clsE i).empty ++ hiLo (s.clsE i).max)) ∧
  (∀ i e (s : State), s.nodeE i = some e → s.entryImage .node i =
    bytes26 ([1, e.address, e.kind.code] ++ hiLo e.limit1 ++ hiLo e.limit2)) ∧
  (∀ i e (s : State), s.authE i = some e → s.entryImage .authority i = bytes26 [1, e.node, e.num, e.kind.code, e.owner.code]) ∧
  (∀ i e (s : State), s.trapE i = some e → s.entryImage .trap i =
    bytes26 ([1, e.node, e.pair] ++ hiLo e.spacing ++ [e.zone, e.use.code, e.run.getD 255])) ∧
  (∀ i e (s : State), s.launchE i = some e → s.entryImage .launch i =
    bytes26 ([1, e.zone, e.booster, e.trap, e.run] ++ hiLo e.charge ++ hiLo e.cooldown ++ [e.tolerance])) ∧
  (∀ i e (s : State), s.bandE i = some e → s.entryImage .band i =
    bytes26 (1 :: hiLo e.upper ++ hiLo e.target ++ hiLo e.drop)) ∧
  (∀ i e (s : State), s.runE i = some e → s.entryImage .run i = bytes26 ([1, e.zone] ++ hiLo e.length ++ hiLo e.exit ++
    hiLo e.passive ++ hiLo e.maxEntry ++ [e.water, e.stages, e.minStages])) ∧
  (∀ i (s : State), s.entryImage .stage i = zeroFill 26 ([byteOf (s.stageE i).fin] ++ (hiLo (s.stageE i).nominal).map byteOf ++
    [BitVec.ofInt 8 (s.stageE i).trim])) ∧
  (∀ i e (s : State), s.berthE i = some e → s.entryImage .berth i =
    bytes26 [1, e.zone, e.node, e.role.code, e.lamp, e.lock, e.scale.getD 255, e.reader.getD 255]) ∧
  (∀ t i (s : State), (t = .zone ∧ s.zoneE i = none) ∨ (t = .node ∧ s.nodeE i = none) ∨ (t = .authority ∧ s.authE i = none) ∨
    (t = .trap ∧ s.trapE i = none) ∨ (t = .launch ∧ s.launchE i = none) ∨ (t = .band ∧ s.bandE i = none) ∨
    (t = .run ∧ s.runE i = none) ∨ (t = .berth ∧ s.berthE i = none) ∨ (t = .boat ∧ s.boatR (i + 1) = none) →
    s.entryImage t i = bytes26 []) ∧
  (∀ i (s : State), s.entryImage .channel i = bytes26 ([(genBytes (s.chanE i)).1, (genBytes (s.chanE i)).2.1,
    (genBytes (s.chanE i)).2.2, (s.chanLevel i).toNat])) ∧
  (∀ i (s : State), i < 22 → s.entryImage .user i = bytes26 ([(s.userE i).chan, (s.userE i).mode.code] ++
    (if i < 8 then hiLo (s.userE i).param ++ [(s.auxLine i).toNat] ++ (match s.pulses[i]?.join with
      | none => [0, 0, 0]
      | some stop => 1 :: hiLo (stop - s.now))
    else if 16 ≤ i ∧ i < 20 then [] else [(s.userE i).param]))) ∧
  (∀ i (s : State), s.entryImage .zoneStatus i = bytes26 ([(s.occupant i).getD 255, (s.zst i).reserved.getD 255,
    (s.zst i).nodeHold.toNat + 2 * (s.zst i).userHold.toNat + 4 * (s.zst i).fault.isSome.toNat, (s.zst i).latch.toNat,
    ((s.zst i).fault.map ZFault.code).getD 0] ++ elapsedBytes s.now (s.zst i).watch)) ∧
  (∀ i x (s : State), s.boatR (i + 1) = some x →
    (s.entryImage .boat i).take 5 = [1, i + 1, x.cls % 4 + 4 * x.route.code + 8 * x.state.code + 32 * x.overdue.toNat, x.zone,
      x.path.length].map byteOf ∧
    (s.entryImage .boat i).drop 17 = (hiLo (x.weight.getD 65535) ++ hiLo ((x.lastSpeed.map (·.1)).getD 65535) ++
      [(x.lastSpeed.map (·.2)).getD 255, (x.band.map fun p => p.1 * 8 + p.2).getD 255,
       (x.stageCount.map fun p => p.1 * 16 + p.2).getD 255] ++ hiLo (min (s.now - x.entryTime) 65535)).map byteOf ∧
    ∀ j, j < 16 → x.path.length ≤ 16 → (∀ z ∈ x.path, z < 64) →
      (((s.entryImage .boat i).drop 5).take 12).foldl (fun n b => n * 256 + b.toNat) 0 / 64 ^ (15 - j) % 64 = x.path.getD j 0) ∧
  (∀ n (s : State), s.entryImage .nodeStatus n = bytes26 ((s.nodeS n).state.code :: elapsedBytes s.now (s.nodeS n).lastHeard ++
    elapsedBytes s.now (s.nodeS n).join ++ [(s.nodeS n).limitPending.toNat, (s.nodeS n).localFault.toNat])) ∧
  (∀ a (s : State), s.entryImage .actuatorStatus a = bytes26 ([((s.actS a).commanded.map ActValue.code).getD 255,
    (s.actS a).confirmed.toNat] ++ match s.cmds.find? fun e => e.act == a with
      | none => [255, 255, 0, 0, 0, 0]
      | some e => [e.value.code, e.tag, e.sent.isSome.toNat] ++ elapsedBytes s.now e.sent)) ∧
  (∀ b e (s : State), s.berthE b = some e → s.entryImage .berthStatus b = bytes26 ([(s.berthS b).state.code,
    (s.berthS b).presence.toNat, (s.berthS b).latch.toNat, (s.lockConfirmed e).toNat, (s.berthS b).pending.toNat,
    (s.berthS b).lamp.code, (s.berthS b).lock.code, (s.berthS b).lampDone.toNat, (s.berthS b).lockDone.toNat] ++
    hiLo ((s.berthS b).weight.getD 65535) ++ [(s.berthS b).reason.code])) ∧
  (∀ c (s : State), s.numbersBounded → (c.place < 8 → wordAt (s.entryImage .counters 0) (2 * c.place) = s.counter c) ∧
    (8 ≤ c.place → wordAt (s.entryImage .counters 1) (2 * (c.place - 8)) = s.counter c)) ∧
  (∀ (s : State), s.entryImage .checkResult 0 = bytes26 [s.mc.result.outcome.code, s.mc.result.item.getD 255,
    (s.mc.result.table.map Table.code).getD 255, s.mc.result.index.getD 255,
    (s.mc.result.reason.map CheckReason.code).getD 255, s.mc.result.subject.getD 255]) ∧
  (∀ s : State, s.statusData = ([s.mode.code, s.mc.layoutChecked.toNat] ++ (match s.mc.check with
      | none => [0, 0, 0, 0]
      | some c => 1 :: hiLo (min (s.now - c.start) 65535) ++ [c.item]) ++
    [s.mc.estop.toNat, s.mc.stopOut.toNat, s.addr, s.rate, (s.seqS 0).state.code, (s.seqS 0).boat.getD 255,
     (s.seqS 1).state.code, (s.seqS 1).boat.getD 255, (s.runS 0).state.code, (s.runS 0).boat.getD 255, (s.runS 0).count.getD 255,
     (s.runS 1).state.code, (s.runS 1).boat.getD 255, (s.runS 1).count.getD 255,
     ((List.range 24).filter fun i => (s.boatR (i + 1)).isSome).length, s.queue.length, s.notices.length, s.ptr.1.code,
     s.ptr.2]).map byteOf) ∧
  [ZKind.berth, .launch, .queue, .channel, .drop, .brakeRun, .transfer].map ZKind.code = List.range 7 ∧
  [NodeKind.marker, .berth, .brake, .gate, .booster, .aux].map NodeKind.code = List.range 6 ∧
  [ActKind.gate, .fin, .lamp, .lock, .switch, .booster, .generic].map ActKind.code = List.range 7 ∧
  [Mode.config, .checking, .run, .hold, .stop].map Mode.code = List.range 5 ∧
  [Roster.absent, .joining, .active, .silent, .lost].map Roster.code = List.range 5 ∧
  [BerthState.empty, .occupied, .secured, .requested, .released, .fault].map BerthState.code = List.range 6 ∧
  [SeqState.idle, .charging, .firing, .measuring, .cooldown].map SeqState.code = List.range 5 ∧
  [Counter.upReceived, .upCheck, .upFraming, .upOverrun, .dnReceived, .dnCheck, .dnFraming, .dnOverrun, .malformed, .foreign,
   .filtered, .unknownNode, .unknownMarker, .markerRepeat, .staleAck, .unmatchedBerth, .unmatchedTrap, .unmatchedBooster,
   .staleBooster, .noticesDropped, .mgmtOverrun].map Counter.place = List.range 21

/-- READ answers what the holder held, then holds the pointed entry and moves the pointer on (R177); STATUS answers the summary
(R178); CLEAR_COUNTERS sets every counter to 0, but that a notice which its own event sends afterwards may be
counted as dropped, and in a quiet state none is (R179); NOTICE_MASK replaces the mask or is refused with VALUE (R180). -/
def Obligations.ReadStatusCountersAndMask : Prop :=
  (∀ t (s : State), s.requestFree → Completes (.read t false) s fun u =>
    u.answered (match s.holder with
      | none => ⟨.ok, 255, 0, [], false⟩
      | some h => ⟨.ok, h.table.code, h.index, h.image, false⟩) ∧
    u.holder = some ⟨s.ptr.1, s.ptr.2, (s.at_ t).entryImage s.ptr.1 s.ptr.2⟩ ∧
    u.ptr = (s.ptr.1, (s.ptr.2 + 1) % s.ptr.1.entries)) ∧
  (∀ t (s : State), s.requestFree → Completes (.status t false) s fun u =>
    u.answered ⟨.ok, 0, 0, (s.at_ t).statusData, false⟩ ∧ u.ptr = s.ptr ∧ u.holder = s.holder) ∧
  (∀ t (s : State), s.requestFree → Completes (.clearCounters t false) s fun u =>
    u.answered (.plain .ok) ∧ (∀ c, c ≠ .noticesDropped → u.counter c = 0) ∧
    (s.quiet → u.counter .noticesDropped = 0)) ∧
  (∀ t m (s : State), s.requestFree → m.getLsbD 22 = false → m.getLsbD 23 = false → Completes (.noticeMask t false m) s fun u =>
    u.answered (.plain .ok) ∧ u.mask = m.setWidth 22) ∧
  ∀ t m (s : State), s.requestFree → (m.getLsbD 22 = true ∨ m.getLsbD 23 = true) → Completes (.noticeMask t false m) s fun u =>
    u.answered (.plain .value) ∧ u.mask = s.mask

/-- Requests and their response: a record that is the last of its frame ends the request after its effect (log 5); the end builds
the response of the results in their order, a SELECT_TABLE left open with SEQUENCE, and places it as soon as there is room (R169,
R173, R175); a ninth record is not carried out and turns the response into a single FORMAT; a request frame's records are carried
out one after another, none of them where its chain does not parse or has more than eight, which gets a single FORMAT, and an
empty one gets a response without results (R163, R173); a record or a frame that comes while a response is held is counted as a
management overrun, not carried out and not answered (R173). That a record can come as a command of its own is the model's choice
(log 4, 5), and that a frame's sign of life comes first its reading (log 12). -/
def Obligations.RequestsAreAnswered : Prop :=
  (∀ m t c d (s : State), MgmtRecord.toCommand t true m = some c → MgmtRecord.toCommand t false m = some d →
    ∃ u, exec d s = .next u ∧ exec c s = .next u.closeRequest) ∧
  (∀ l (s : State), s.req = some ⟨l, none, none, false, false⟩ → (∀ r ∈ l, r.resetMode = false) →
    s.closeRequest.req = none ∧ s.closeRequest.responded l ∧ s.closeRequest.tab = s.tab ∧ s.closeRequest.mc = s.mc) ∧
  (∀ l table (s : State), s.req = some ⟨l, some table, none, false, false⟩ → (∀ r ∈ l, r.resetMode = false) →
    s.closeRequest.req = none ∧ s.closeRequest.responded (l ++ [.plain .sequence])) ∧
  (∀ r (s : State), s.req = some r → r.overfull = true → r.skip = false → r.reset = none →
    s.closeRequest.req = none ∧ s.closeRequest.responded [.plain .format]) ∧
  (∀ l f (s : State), s.req = some ⟨l, none, none, false, false⟩ → (∀ r ∈ l, r.resetMode = false) → s.up.tx = some f →
    s.up.room = true →
    s.up.origin ++ [⟨s.supervisorFrame 7 (l.map resultRecord), []⟩] <+: s.closeRequest.up.origin) ∧
  (∀ r (s : State), s.req = some r → r.skip = true → s.closeRequest = { s with req := none }) ∧
  (∀ m t d r (s : State), MgmtRecord.toCommand t false m = some d → s.req = some r → r.skip = false → 8 ≤ r.count →
    exec d s = .next (State.event (fun s => { s with req := some { r with overfull := true } }) (s.at_ t))) ∧
  (∀ m t d f (s : State), MgmtRecord.toCommand t false m = some d → s.req = none → s.held = some f →
    Completes d s fun u => s.counted u .mgmtOverrun ∧ u.req = some ⟨[], none, none, false, true⟩ ∧ u.tab = s.tab ∧
      u.ptr = s.ptr ∧ u.mask = s.mask ∧ u.mode = s.mode) ∧
  (∀ t bytes (s : State), framingOk false bytes = true → checkOk bytes = true → parseFrame bytes = none →
    frameDst bytes = s.addr → frameKind bytes = 6 → frameSrc bytes = 1 → s.requestFree →
    Completes (.frameReceived t .up bytes false) s fun u => s.counted u .malformed ∧ u.req = none ∧
      u.responded [.plain .format] ∧ u.tab = s.tab ∧ u.ptr = s.ptr ∧ u.mask = s.mask ∧ u.mode = s.mode) ∧
  (∀ t bytes l (s : State), framingOk false bytes = true → checkOk bytes = true → parseFrame bytes = some l → 8 < l.length →
    frameDst bytes = s.addr → frameKind bytes = 6 → frameSrc bytes = 1 → s.requestFree →
    Completes (.frameReceived t .up bytes false) s fun u => u.req = none ∧ u.responded [.plain .format] ∧ u.tab = s.tab ∧
      u.ptr = s.ptr ∧ u.mask = s.mask ∧ u.mode = s.mode) ∧
  (∀ t bytes (s : State), framingOk false bytes = true → checkOk bytes = true → parseFrame bytes = some [] →
    frameDst bytes = s.addr → frameKind bytes = 6 → frameSrc bytes = 1 → s.requestFree →
    Completes (.frameReceived t .up bytes false) s fun u => u.req = none ∧ u.responded []) ∧
  (∀ t bytes l cs (s : State), framingOk false bytes = true → checkOk bytes = true → parseFrame bytes = some l → l ≠ [] →
    l.length ≤ 8 → frameDst bytes = s.addr → frameKind bytes = 6 → frameSrc bytes = 1 → s.requestFree →
    l.map (fun r => (mgmtRecord r).toCommand t false) = cs.map some →
    exec (.frameReceived t .up bytes false) s = .next
      (((State.event (fun s => s.heard 1) ((s.at_ t).bump .upReceived)).afterAll cs).closeRequest)) ∧
  ∀ t bytes l f g (s : State), framingOk false bytes = true → checkOk bytes = true → parseFrame bytes = some l →
    frameDst bytes = s.addr → frameKind bytes = 6 → frameSrc bytes = 1 → s.req = none → s.held = some f → s.up.tx = some g →
    s.up.room = false →
    Completes (.frameReceived t .up bytes false) s fun u => s.counted u .mgmtOverrun ∧ u.req = none ∧ u.held = some f ∧
      u.up.origin = s.up.origin ∧ u.tab = s.tab ∧ u.ptr = s.ptr ∧ u.mask = s.mask ∧ u.mode = s.mode

/-- Each MODE record is answered, and leads to the mode, by the table of R138; a change of mode is reported with cause RECORD.
RUN in CONFIG begins a check (R145), HOLD in CHECKING sets hold pending, RESUME follows layout checked (R144). -/
def Obligations.ModeRecordsFollowTable : Prop :=
  (∀ t (s : State), s.requestFree → Completes (.modeConfig t false) s fun u =>
    u.answered (.plain (s.modeAnswer 0).1) ∧ u.mode = (s.modeAnswer 0).2 ∧
    ((s.modeAnswer 0).2 ≠ s.mode → s.noticed u (.modeChanged (s.modeAnswer 0).2 s.mode .record) ∧
      u.mc.layoutChecked = false)) ∧
  (∀ t (s : State), s.requestFree → Completes (.modeRun t false) s fun u =>
    u.answered (.plain (s.modeAnswer 1).1) ∧ u.mode = (s.modeAnswer 1).2 ∧
    ((s.modeAnswer 1).2 ≠ s.mode → s.noticed u (.modeChanged (s.modeAnswer 1).2 s.mode .record)) ∧
    (s.mode = .config → s.mc.estop = false → u.mc.check = some ⟨max s.now t, 1⟩ ∧ u.mc.holdPending = false ∧
      u.mc.result = { CheckResult.empty with outcome := .inProgress })) ∧
  (∀ t (s : State), s.requestFree → Completes (.modeHold t false) s fun u =>
    u.answered (.plain (s.modeAnswer 2).1) ∧ u.mode = (s.modeAnswer 2).2 ∧
    ((s.modeAnswer 2).2 ≠ s.mode → s.noticed u (.modeChanged (s.modeAnswer 2).2 s.mode .record)) ∧
    (s.mode = .checking → u.mc.holdPending = true)) ∧
  (∀ t (s : State), s.requestFree → Completes (.modeResume t false) s fun u =>
    u.answered (.plain (s.modeAnswer 3).1) ∧ u.mode = (s.modeAnswer 3).2 ∧
    ((s.modeAnswer 3).2 ≠ s.mode → s.noticed u (.modeChanged (s.modeAnswer 3).2 s.mode .record))) ∧
  ∀ t (s : State), s.requestFree → Completes (.modeStop t false) s fun u =>
    u.answered (.plain (s.modeAnswer 4).1) ∧ u.mode = .stop ∧
    (s.mode ≠ .stop → u.mc.stopOut = true ∧ s.noticed u (.modeChanged .stop s.mode .record))

/-- PLACE_BOAT, RETIRE_BOAT and SET_ROUTE: the first condition that applies gives the result, and OK alone adds or removes a
record or changes a route (R21, R22, R23). CLEAR_ZONE removes the fault and the user latch of a defined zone and its occupant's
overdue flag, and leaves occupant and mode; an undefined zone is refused with VALUE (R15). -/
def Obligations.BoatAndZoneRecords : Prop :=
  (∀ t b c z r (s : State), s.requestFree → s.mode = .checking → Completes (.placeBoat t false b c z r) s fun u =>
    u.answered (.plain .busy) ∧ ∀ n, (u.boatR n).isSome = (s.boatR n).isSome) ∧
  (∀ t b c z r (s : State), s.requestFree → (s.mode = .run ∨ s.mode = .hold ∨ s.mode = .stop) →
    Completes (.placeBoat t false b c z r) s fun u =>
      u.answered (.plain .mode) ∧ ∀ n, (u.boatR n).isSome = (s.boatR n).isSome) ∧
  (∀ t b c z r (s : State), s.requestFree → s.mode = .config →
    (b < 1 ∨ 24 < b ∨ 3 < c ∨ 1 < r ∨ s.stoppable z = false) →
    Completes (.placeBoat t false b c z r) s fun u =>
      u.answered (.plain .value) ∧ ∀ n, (u.boatR n).isSome = (s.boatR n).isSome) ∧
  (∀ t b c z r (s : State), s.requestFree → s.mode = .config → 1 ≤ b → b ≤ 24 → c ≤ 3 → r ≤ 1 → s.stoppable z = true →
    ((s.boatR b).isSome = true ∨ (s.occupant z).isSome = true ∨ (s.zst z).reserved.isSome = true) →
    Completes (.placeBoat t false b c z r) s fun u =>
      u.answered (.plain .conflict) ∧ ∀ n, (u.boatR n).isSome = (s.boatR n).isSome) ∧
  (∀ t b c z r (s : State), s.requestFree → s.mode = .config → 1 ≤ b → b ≤ 24 → c ≤ 3 → r ≤ 1 → s.stoppable z = true →
    s.boatR b = none → s.occupant z = none → (s.zst z).reserved = none →
    Completes (.placeBoat t false b c z r) s fun u => u.answered (.plain .ok) ∧ u.occupant z = some b ∧
      u.boatR b = some ⟨c, if r = 0 then .main else .bay, z, .waiting, false, [], none, none, none, none, max s.now t⟩) ∧
  (∀ t b x (s : State), s.requestFree → (s.mode = .config ∨ s.mode = .hold) → s.boatR b = some x → x.state = .waiting →
    Completes (.retireBoat t false b) s fun u =>
      u.answered (.plain .ok) ∧ u.boatR b = none ∧ u.occupant x.zone = none ∧ (u.zst x.zone).watch = none) ∧
  (∀ t b (s : State), s.requestFree → Completes (.retireBoat t false b) s fun u =>
    (s.mode = .checking → u.answered (.plain .busy) ∧ (u.boatR b).isSome = (s.boatR b).isSome) ∧
    (s.mode = .run ∨ s.mode = .stop → u.answered (.plain .mode) ∧ (u.boatR b).isSome = (s.boatR b).isSome) ∧
    (s.mode = .config ∨ s.mode = .hold → s.boatR b = none → u.answered (.plain .value)) ∧
    ∀ x, s.mode = .config ∨ s.mode = .hold → s.boatR b = some x → x.state ≠ .waiting →
      u.answered (.plain .conflict) ∧ (u.boatR b).isSome = true) ∧
  (∀ t b r x (s : State), s.requestFree → s.boatR b = some x → r ≤ 1 → Completes (.setRoute t false b r) s fun u =>
    u.answered (.plain .ok) ∧ (∃ y, u.boatR b = some y ∧ y.route = (if r = 0 then .main else .bay) ∧ y.zone = x.zone) ∧
    ∀ n, n ≠ b → (u.boatR n).map Boat.route = (s.boatR n).map Boat.route) ∧
  (∀ t b r (s : State), s.requestFree → (s.boatR b = none ∨ 1 < r) → Completes (.setRoute t false b r) s fun u =>
    u.answered (.plain .value) ∧ ∀ n, (u.boatR n).map Boat.route = (s.boatR n).map Boat.route) ∧
  (∀ t z (s : State), s.requestFree → (s.zoneE z).isSome = true → Completes (.clearZone t false z) s fun u =>
    u.answered (.plain .ok) ∧ (u.zst z).fault = none ∧ (u.zst z).latch = false ∧ u.occupant z = s.occupant z ∧
    u.mc = s.mc ∧ (∀ w, w ≠ z → (u.zst w).fault = (s.zst w).fault) ∧
    ∀ b x, s.occupant z = some b → s.boatR b = some x → ∃ y, u.boatR b = some y ∧ y.overdue = false) ∧
  ∀ t z (s : State), s.requestFree → s.zoneE z = none → Completes (.clearZone t false z) s fun u =>
    u.answered (.plain .value) ∧ ∀ w, (u.zst w).fault = (s.zst w).fault

/-- A RUNTIME reset keeps the tables, the pointer, the mask, the held inputs and the roster, empties the register, the queue, the
releases and the command list, clears every zone, derives NODE and USER holds and auxiliary lines afresh, hands every berth OFF and
LOCK, every booster SAFE, every stage ENGAGE and every gate CLOSE, which alone then stand in the list, and answers with the mode
CONFIG; with ESTOP asserted STOP follows at once and is the mode answered. A FULL reset leaves every power-on value but the ports
and the straps, and answers likewise (R17, R39, R58, R79, R95, R116, R136, R148, R160, R181). The model's clock, queue, free choices
and request order go on (log 35). -/
def Obligations.ResetsTakeEffect : Prop :=
  (∀ t (s : State), s.requestFree → s.mc.estop = false → Completes (.resetRuntime t true) s fun u =>
    u.mode = .config ∧ u.mc.layoutChecked = false ∧ u.mc.stopOut = false ∧ u.tab = s.tab ∧ u.ptr = s.ptr ∧
    u.mask = s.mask ∧ u.inputs = s.inputs ∧ u.addr = s.addr ∧ u.rate = s.rate ∧ u.queue = [] ∧ u.notices = [] ∧
    u.holder = none ∧ u.req = none ∧ (∀ b, u.boatR b = none ∧ u.release b = none) ∧
    (∀ k, u.seqS k = .idle) ∧ (∀ x : Nat, x < 8 → u.pulses[x]? = some none) ∧
    (∀ z, u.occupant z = none ∧ (u.zst z).reserved = none ∧ (u.zst z).fault = none ∧ (u.zst z).latch = false ∧
      (u.zst z).watch = none) ∧
    u.responded [⟨.ok, 0, 0, enc1 (Mode.code .config), true⟩]) ∧
  (∀ t (s : State), s.requestFree → s.mc.estop = false → Completes (.resetRuntime t true) s fun u =>
    (∀ n, (u.nodeS n).state = (s.nodeS n).state ∧ (u.nodeS n).lastHeard = (s.nodeS n).lastHeard ∧
      (u.nodeS n).localFault = (s.nodeS n).localFault) ∧
    u.linesSound ∧ u.holdsSound ∧
    (∀ c ∈ u.cmds, c.value = .lampOff ∨ c.value = .lockLock ∨ c.value = .boosterSafe ∨ c.value = .finEngage ∨
      c.value = .gateClose) ∧
    ∀ a v x, s.authE a = some x →
      (x.kind = .lamp ∧ v = .lampOff ∧ (∃ b e, s.berthE b = some e ∧ e.lamp = a)) ∨
      (x.kind = .lock ∧ v = .lockLock ∧ (∃ b e, s.berthE b = some e ∧ e.lock = a)) ∨
      (x.kind = .booster ∧ v = .boosterSafe ∧ (∃ k e, s.launchE k = some e ∧ e.booster = a)) ∨
      (x.kind = .fin ∧ v = .finEngage ∧ (∃ r e i, s.runE r = some e ∧ i < e.stages ∧ (s.stageOf r i).fin = a)) ∨
      (x.kind = .gate ∧ v = .gateClose ∧ (∃ z e, s.zoneE z = some e ∧ e.gate = some a)) →
      u.actS a = ⟨some v, false⟩ ∧
      ((s.nodeS x.node).state.present = true → ∃ c ∈ u.cmds, c.act = a ∧ c.value = v)) ∧
  (∀ t (s : State), s.requestFree → s.mc.estop = true → Completes (.resetRuntime t true) s fun u =>
    u.mode = .stop ∧ u.mc.stopOut = true ∧ u.tab = s.tab ∧ u.ptr = s.ptr ∧ u.mask = s.mask ∧ u.inputs = s.inputs ∧
    u.queue = [] ∧ u.holder = none ∧ u.req = none ∧ (∀ b, u.boatR b = none ∧ u.release b = none) ∧
    u.responded [⟨.ok, 0, 0, enc1 (Mode.code .stop), true⟩]) ∧
  (∀ t (s : State), s.requestFree → s.mc.estop = false → Completes (.resetFull t true) s fun u =>
    { u with now := 0, pending := [], free := 0, reqSeq := 0, addr := 96, rate := 0, up := .empty, dn := .empty,
             held := none } = State.reset ∧ u.addr = s.addr ∧ u.rate = s.rate ∧
    u.responded [⟨.ok, 0, 0, enc1 (Mode.code .config), true⟩]) ∧
  ∀ t (s : State), s.requestFree → s.mc.estop = true → Completes (.resetFull t true) s fun u =>
    u.mode = .stop ∧ u.mc.stopOut = true ∧ u.tab = Tables.initial ∧ u.addr = s.addr ∧ u.rate = s.rate ∧
    u.responded [⟨.ok, 0, 0, enc1 (Mode.code .stop), true⟩]

/-! ### Shared operations -/

/-- A notice of a masked kind is discarded; one of an enabled kind joins a queue of fewer than 16 and leaves as soon as there is
room; at 16 it is dropped and counted (R180, R171). A fault raised on a zone leaves the more severe of two (R14). -/
def Obligations.NoticeAndFaultRules : Prop :=
  (∀ (n : Notice) (s : State), s.mask.getLsbD n.kind = false → s.notice n = s) ∧
  (∀ (n : Notice) (s : State), s.mask.getLsbD n.kind = true → s.notices.length < 16 →
    s.notice n = ({ s with notices := s.notices ++ [n] } : State).pumpUp) ∧
  (∀ (n : Notice) (s : State), s.mask.getLsbD n.kind = true → 16 ≤ s.notices.length → s.notice n = s.bump .noticesDropped) ∧
  (∀ f, mergeFault none f = f) ∧
  (∀ f, mergeFault (some .double) f = .double ∧ mergeFault (some f) .double = .double) ∧
  (∀ f, f ≠ .double → mergeFault (some .unexpected) f = .unexpected ∧ mergeFault (some f) .unexpected = .unexpected) ∧
  (∀ f, f ≠ .double → f ≠ .unexpected → mergeFault (some .missed) f = .missed ∧ mergeFault (some f) .missed = .missed) ∧
  mergeFault (some .overdue) .overdue = .overdue ∧
  ∀ z f (s : State), (s.zoneE z).isSome = true → (s.raiseFault z f).zst z = { s.zst z with fault := some (mergeFault (s.zst z).fault f) }

/-- A handed command: discarded where the actuator is undefined, the value is not of its kind or a target is out of range;
otherwise the commanded value changes, unconfirmed, the older list entry goes, and for a present node a new entry with the next
tag joins the list (R128). -/
def Obligations.HandedCommandRule : Prop :=
  (∀ a v (s : State), (∀ e, s.authE a = some e → v.kind ≠ e.kind ∨ v.inRange = false) → s.handRaw a v = s) ∧
  (∀ a v e (s : State), s.authE a = some e → v.kind = e.kind → v.inRange = true → (s.nodeS e.node).state.present = true →
    (s.handRaw a v).actS a = ⟨some v, false⟩ ∧ (s.handRaw a v).tag = (s.tag + 1) % 16 ∧
    (s.handRaw a v).cmds = (s.cmds.filter fun c => c.act != a) ++ [⟨a, v, s.tag, none⟩]) ∧
  (∀ a v e (s : State), s.authE a = some e → v.kind = e.kind → v.inRange = true → (s.nodeS e.node).state.present = false →
    (s.handRaw a v).actS a = ⟨some v, false⟩ ∧ (s.handRaw a v).tag = s.tag ∧
    (s.handRaw a v).cmds = s.cmds.filter fun c => c.act != a) ∧
  (∀ a b v (s : State), b ≠ a → (s.handRaw a v).actS b = s.actS b) ∧
  (∀ r : Roster, r.present = true ↔ r = .active ∨ r = .silent) ∧ ∀ a v (s : State), s.hand a v = (s.handRaw a v).pumpDn

/-- A request is refused outside RUN and HOLD, ignored for a boat that is not WAITING, refused with a PATH notice where the walk
fails, and joins the tail of the queue otherwise (R42, R43). The walk starts at the successor of the route, goes on by main
successors through zones that are not stoppable, and ends at the first stoppable zone, at most 16 zones on (R3, R40); it fails
with UNDEFINED at an undefined zone, with LOOP at the origin, with LENGTH where a seventeenth zone would have to be added (R41),
and not otherwise. Which reason a seventeenth zone gives that is undefined or the origin is the model's reading (log 24). -/
def Obligations.RequestRule : Prop :=
  (∀ b (s : State), s.boatR b = none ∨ s.mode = .config ∨ s.mode = .checking ∨ s.mode = .stop → s.request b = (s, .refused)) ∧
  (∀ b x (s : State), s.boatR b = some x → s.mode = .run ∨ s.mode = .hold → x.state ≠ .waiting → s.request b = (s, .ignored)) ∧
  (∀ b x (s : State), s.boatR b = some x → s.mode = .run ∨ s.mode = .hold → x.state = .waiting → s.stoppable x.zone = false →
    s.request b = (s, .refused)) ∧
  (∀ b x reason (s : State), s.boatR b = some x → s.mode = .run ∨ s.mode = .hold → x.state = .waiting → s.stoppable x.zone = true →
    s.walk x.zone x.route = .error reason → s.request b = (s.notice (.path b x.zone reason), .refused)) ∧
  (∀ b x p (s : State), s.boatR b = some x → s.mode = .run ∨ s.mode = .hold → x.state = .waiting → s.stoppable x.zone = true →
    s.walk x.zone x.route = .ok p →
    (s.request b).2 = .accepted ∧ (s.request b).1.queue = s.queue ++ [⟨b, x.zone, p, s.reqSeq⟩] ∧
    (s.request b).1.boatR b = some { x with state := .requested } ∧ (s.request b).1.ev.scanDue = true) ∧
  (∀ e : ZoneEntry, ∀ r, e.successor r = match e.alt with
    | none => e.main
    | some a => if e.kind = .transfer ∧ r = .bay then a else e.main) ∧
  (∀ o r p (s : State), s.walk o r = .ok p → p ≠ [] ∧ p.length ≤ 16 ∧ o ∉ p ∧ (∀ z ∈ p, (s.zoneE z).isSome = true) ∧
    (∃ z, p.getLast? = some z ∧ s.stoppable z = true) ∧ ∀ z ∈ p.dropLast, s.stoppable z = false) ∧
  (∀ o r e (s : State), s.zoneE o = some e → s.zoneE (e.successor r) = none → s.walk o r = .error .undefined) ∧
  (∀ o r e p (s : State), s.zoneE o = some e → (s.walk o r = .ok p ↔ ∃ l y, p = l ++ [y] ∧ l.length < 16 ∧
    s.passesTo o (e.successor r) l y ∧ y ≠ o ∧ s.stoppable y = true)) ∧
  (∀ o r e (s : State), s.zoneE o = some e → (s.walk o r = .error .undefined ↔ ∃ l y, l.length ≤ 16 ∧
    s.passesTo o (e.successor r) l y ∧ s.zoneE y = none)) ∧
  (∀ o r e (s : State), s.zoneE o = some e → (s.walk o r = .error .loop ↔ ∃ l, l.length ≤ 16 ∧
    s.passesTo o (e.successor r) l o)) ∧
  ∀ o r e (s : State), s.zoneE o = some e → (s.walk o r = .error .length ↔ ∃ l y, l.length = 16 ∧
    s.passesTo o (e.successor r) l y ∧ y ≠ o ∧ (s.zoneE y).isSome = true)

/-- The grant arbiter: an entry can be granted in RUN when every zone of its path is FREE and the sequencer of a LAUNCH origin is
IDLE (R46); a scan outside RUN grants nothing, and in RUN passes over, oldest first, what cannot be granted (R45). A grant
reserves the path, takes the entry out, makes the boat GRANTED with the path, tells the berth, sends no notice (R47, R72) and
begins the release: a gate or exit drive is commanded OPEN (R48, R49), a switch is thrown with the gate left alone (R51), a launch
charges with the smaller of the band's target and the booster node's first limit, or is aborted at once, its pad's berth returned
to what latch and lock give (R50, R72, R73, R85). The end of a
cooldown grants the waiting entry (R45, R91). -/
def Obligations.GrantRule : Prop :=
  (∀ q (s : State), s.grantable q = true ↔ s.mode = .run ∧
    (∀ z ∈ q.path, s.occupant z = none ∧ (s.zst z).reserved = none ∧ (s.zst z).nodeHold = false ∧
      (s.zst z).userHold = false ∧ (s.zst z).fault = none) ∧
    ∀ e k, s.zoneE q.origin = some e → e.kind = .launch → e.sec = some k → (s.seqS k).state = .idle) ∧
  (∀ s : State, s.mode ≠ .run → s.scan = s) ∧
  (∀ before q rest (s : State), s.queue = before ++ q :: rest → (∀ x ∈ before, s.grantable x = false) → s.grantable q = true →
    s.scan = rest.foldl (fun t x => if t.grantable x then t.grant x else t) (s.grant q)) ∧
  (∀ q e x (s : State), s.zoneE q.origin = some e → e.kind ≠ .launch → s.boatR q.boat = some x →
    (∀ z, (s.grant q).zst z = if z ∈ q.path ∧ z < 64 then { s.zst z with reserved := some q.boat } else s.zst z) ∧
    (s.grant q).queue = s.queue.filter (fun y => y.boat != q.boat) ∧
    (s.grant q).boatR q.boat = some { x with path := q.path, state := .granted } ∧
    (s.grant q).notices = s.notices ∧ (s.grant q).up = s.up ∧
    ∀ b f, s.berthOfZone q.origin = some (b, f) → (s.berthS b).state = .requested →
      ((s.grant q).berthS b).state = .released ∧ ((s.grant q).berthS b).lamp = .on ∧ ((s.grant q).berthS b).lock = .lock) ∧
  (∀ q e x (s : State), s.zoneE q.origin = some e → (e.kind = .berth ∨ e.kind = .queue ∨ e.kind = .brakeRun) →
    s.boatR q.boat = some x →
    (s.grant q).release q.boat = some ⟨q, .gate⟩ ∧
    ∀ a y, e.gate = some a → s.authE a = some y → y.kind = .gate → (s.grant q).actS a = ⟨some .gateOpen, false⟩) ∧
  (∀ q e x a y (s : State), s.zoneE q.origin = some e → e.kind = .transfer → e.switch = some a → s.boatR q.boat = some x →
    s.authE a = some y → y.kind = .switch →
    (s.grant q).release q.boat = some ⟨q, .throw a⟩ ∧
    ((∃ z, e.alt = some z ∧ q.path.head? = some z) → (s.grant q).actS a = ⟨some .switchAlt, false⟩) ∧
    ((∀ z, e.alt = some z → q.path.head? ≠ some z) → (s.grant q).actS a = ⟨some .switchMain, false⟩) ∧
    ∀ g, e.gate = some g → g ≠ a → (s.grant q).actS g = s.actS g) ∧
  (∀ q e k l x m i y n (s : State), s.zoneE q.origin = some e → e.kind = .launch → e.sec = some k → s.launchE k = some l →
    s.boatR q.boat = some x → x.band = some (m, i) → s.inhibited k = false → s.authE l.booster = some y → y.kind = .booster →
    s.nodeActive y.node = true → s.nodeE y.node = some n → min (s.bandTarget k i) n.limit1 ≤ 15000 →
    (s.grant q).seqS k = ⟨.charging, some q.boat, some i, some (min (s.bandTarget k i) n.limit1), none, some s.now, none, none⟩ ∧
    (s.grant q).actS l.booster = ⟨some (.boosterRequest (min (s.bandTarget k i) n.limit1)), false⟩ ∧
    (s.grant q).release q.boat = some ⟨q, .launch⟩ ∧ (∀ z ∈ q.path, z < 64 → ((s.grant q).zst z).reserved = some q.boat) ∧
    (s.grant q).boatR q.boat = some { x with path := q.path, state := .granted } ∧
    (s.grant q).queue = s.queue.filter (fun y => y.boat != q.boat) ∧
    ∀ b f, s.berthOfZone q.origin = some (b, f) → (s.berthS b).state = .requested →
      ((s.grant q).berthS b).state = .released ∧ ((s.grant q).berthS b).lamp = .on ∧ ((s.grant q).berthS b).lock = .lock) ∧
  (∀ q e k l x (s : State), s.zoneE q.origin = some e → e.kind = .launch → e.sec = some k → s.launchE k = some l →
    s.boatR q.boat = some x → (s.inhibited k = true ∨ ∀ y, s.authE l.booster = some y → s.nodeActive y.node = false) →
    ((s.grant q).seqS k).state = .idle ∧ (∀ z ∈ q.path, ((s.grant q).zst z).reserved = none) ∧
    (∃ y, (s.grant q).boatR q.boat = some y ∧ y.state = .waiting ∧ y.path = []) ∧
    s.noticed (s.grant q) (.launchAborted k q.boat (if s.inhibited k then .inhibited else .nodeLost)) ∧
    ∀ b f, l.zone = q.origin → s.berthOfZone q.origin = some (b, f) → (s.berthS b).state = .requested → f.lock ≠ l.booster →
      s.occupant f.zone = some q.boat → (s.berthS b).presence = true →
      ((s.grant q).berthS b).state = (if (s.berthS b).latch = true ∧ s.lockConfirmed f = true then .secured else .occupied) ∧
      ((s.berthS b).latch = true → s.lockConfirmed f = true → ((s.grant q).berthS b).lamp = .blink)) ∧
  (∀ t k l start q e x (s : State), s.quiet → s.mode = .run → s.launchE k = some l → (s.seqS k).state = .cooldown →
    (s.seqS k).cooldown = some start → start + l.cooldown ≤ max s.now t → s.queue = [q] → (∀ z ∈ q.path, s.zoneFree z = true) →
    s.zoneE q.origin = some e → (e.kind = .berth ∨ e.kind = .queue ∨ e.kind = .brakeRun) → s.boatR q.boat = some x →
    Completes (.cooldownExpiry t k) s fun u => u.seqS k = .idle ∧ u.queue = [] ∧
      (∀ z ∈ q.path, z < 64 → (u.zst z).reserved = some q.boat) ∧ u.release q.boat = some ⟨q, .gate⟩ ∧
      u.boatR q.boat = some { x with path := q.path, state := .granted }) ∧
  ∀ t k l start q e x m i y n (s : State), s.quiet → s.mode = .run → s.launchE k = some l → (s.seqS k).state = .cooldown →
    (s.seqS k).cooldown = some start → start + l.cooldown ≤ max s.now t → s.queue = [q] → (∀ z ∈ q.path, s.zoneFree z = true) →
    s.zoneE q.origin = some e → e.kind = .launch → e.sec = some k → s.boatR q.boat = some x → x.band = some (m, i) →
    s.inhibited k = false → s.authE l.booster = some y → s.nodeActive y.node = true → s.nodeE y.node = some n →
    Completes (.cooldownExpiry t k) s fun u => u.queue = [] ∧ u.release q.boat = some ⟨q, .launch⟩ ∧
      u.seqS k = ⟨.charging, some q.boat, some i, some (min (s.bandTarget k i) n.limit1), none, some (max s.now t), none, none⟩
end

