-- ==== Sys2Proof/Laws/State.lean ====
section
/-! SUPPORT. One lemma for each field under each update of the state that leaves it alone, and the value an update gives
the field it is for. -/

namespace Sys2Proof.Machine

variable (s : State)

/-! ### at_ -/

@[simp] theorem atTime_pending (t : Nat) : (s.at_ t).pending = s.pending := rfl
@[simp] theorem atTime_addr (t : Nat) : (s.at_ t).addr = s.addr := rfl
@[simp] theorem atTime_rate (t : Nat) : (s.at_ t).rate = s.rate := rfl
@[simp] theorem atTime_up (t : Nat) : (s.at_ t).up = s.up := rfl
@[simp] theorem atTime_dn (t : Nat) : (s.at_ t).dn = s.dn := rfl
@[simp] theorem atTime_resendDue (t : Nat) : (s.at_ t).resendDue = s.resendDue := rfl
@[simp] theorem atTime_tab (t : Nat) : (s.at_ t).tab = s.tab := rfl
@[simp] theorem atTime_zs (t : Nat) : (s.at_ t).zs = s.zs := rfl
@[simp] theorem atTime_boats (t : Nat) : (s.at_ t).boats = s.boats := rfl
@[simp] theorem atTime_rel (t : Nat) : (s.at_ t).rel = s.rel := rfl
@[simp] theorem atTime_queue (t : Nat) : (s.at_ t).queue = s.queue := rfl
@[simp] theorem atTime_reqSeq (t : Nat) : (s.at_ t).reqSeq = s.reqSeq := rfl
@[simp] theorem atTime_berths (t : Nat) : (s.at_ t).berths = s.berths := rfl
@[simp] theorem atTime_seqs (t : Nat) : (s.at_ t).seqs = s.seqs := rfl
@[simp] theorem atTime_runs (t : Nat) : (s.at_ t).runs = s.runs := rfl
@[simp] theorem atTime_nodes (t : Nat) : (s.at_ t).nodes = s.nodes := rfl
@[simp] theorem atTime_inputs (t : Nat) : (s.at_ t).inputs = s.inputs := rfl
@[simp] theorem atTime_acts (t : Nat) : (s.at_ t).acts = s.acts := rfl
@[simp] theorem atTime_cmds (t : Nat) : (s.at_ t).cmds = s.cmds := rfl
@[simp] theorem atTime_tag (t : Nat) : (s.at_ t).tag = s.tag := rfl
@[simp] theorem atTime_mc (t : Nat) : (s.at_ t).mc = s.mc := rfl
@[simp] theorem atTime_pulses (t : Nat) : (s.at_ t).pulses = s.pulses := rfl
@[simp] theorem atTime_lines (t : Nat) : (s.at_ t).lines = s.lines := rfl
@[simp] theorem atTime_ptr (t : Nat) : (s.at_ t).ptr = s.ptr := rfl
@[simp] theorem atTime_holder (t : Nat) : (s.at_ t).holder = s.holder := rfl
@[simp] theorem atTime_held (t : Nat) : (s.at_ t).held = s.held := rfl
@[simp] theorem atTime_req (t : Nat) : (s.at_ t).req = s.req := rfl
@[simp] theorem atTime_notices (t : Nat) : (s.at_ t).notices = s.notices := rfl
@[simp] theorem atTime_mask (t : Nat) : (s.at_ t).mask = s.mask := rfl
@[simp] theorem atTime_counters (t : Nat) : (s.at_ t).counters = s.counters := rfl
@[simp] theorem atTime_free (t : Nat) : (s.at_ t).free = s.free := rfl
@[simp] theorem atTime_ev (t : Nat) : (s.at_ t).ev = s.ev := rfl

/-! ### putZs -/

@[simp] theorem putZs_now (z : Nat) (x : ZoneStatus) : (s.putZs z x).now = s.now := rfl
@[simp] theorem putZs_pending (z : Nat) (x : ZoneStatus) : (s.putZs z x).pending = s.pending := rfl
@[simp] theorem putZs_addr (z : Nat) (x : ZoneStatus) : (s.putZs z x).addr = s.addr := rfl
@[simp] theorem putZs_rate (z : Nat) (x : ZoneStatus) : (s.putZs z x).rate = s.rate := rfl
@[simp] theorem putZs_up (z : Nat) (x : ZoneStatus) : (s.putZs z x).up = s.up := rfl
@[simp] theorem putZs_dn (z : Nat) (x : ZoneStatus) : (s.putZs z x).dn = s.dn := rfl
@[simp] theorem putZs_resendDue (z : Nat) (x : ZoneStatus) : (s.putZs z x).resendDue = s.resendDue := rfl
@[simp] theorem putZs_tab (z : Nat) (x : ZoneStatus) : (s.putZs z x).tab = s.tab := rfl
@[simp] theorem putZs_boats (z : Nat) (x : ZoneStatus) : (s.putZs z x).boats = s.boats := rfl
@[simp] theorem putZs_rel (z : Nat) (x : ZoneStatus) : (s.putZs z x).rel = s.rel := rfl
@[simp] theorem putZs_queue (z : Nat) (x : ZoneStatus) : (s.putZs z x).queue = s.queue := rfl
@[simp] theorem putZs_reqSeq (z : Nat) (x : ZoneStatus) : (s.putZs z x).reqSeq = s.reqSeq := rfl
@[simp] theorem putZs_berths (z : Nat) (x : ZoneStatus) : (s.putZs z x).berths = s.berths := rfl
@[simp] theorem putZs_seqs (z : Nat) (x : ZoneStatus) : (s.putZs z x).seqs = s.seqs := rfl
@[simp] theorem putZs_runs (z : Nat) (x : ZoneStatus) : (s.putZs z x).runs = s.runs := rfl
@[simp] theorem putZs_nodes (z : Nat) (x : ZoneStatus) : (s.putZs z x).nodes = s.nodes := rfl
@[simp] theorem putZs_inputs (z : Nat) (x : ZoneStatus) : (s.putZs z x).inputs = s.inputs := rfl
@[simp] theorem putZs_acts (z : Nat) (x : ZoneStatus) : (s.putZs z x).acts = s.acts := rfl
@[simp] theorem putZs_cmds (z : Nat) (x : ZoneStatus) : (s.putZs z x).cmds = s.cmds := rfl
@[simp] theorem putZs_tag (z : Nat) (x : ZoneStatus) : (s.putZs z x).tag = s.tag := rfl
@[simp] theorem putZs_mc (z : Nat) (x : ZoneStatus) : (s.putZs z x).mc = s.mc := rfl
@[simp] theorem putZs_pulses (z : Nat) (x : ZoneStatus) : (s.putZs z x).pulses = s.pulses := rfl
@[simp] theorem putZs_lines (z : Nat) (x : ZoneStatus) : (s.putZs z x).lines = s.lines := rfl
@[simp] theorem putZs_ptr (z : Nat) (x : ZoneStatus) : (s.putZs z x).ptr = s.ptr := rfl
@[simp] theorem putZs_holder (z : Nat) (x : ZoneStatus) : (s.putZs z x).holder = s.holder := rfl
@[simp] theorem putZs_held (z : Nat) (x : ZoneStatus) : (s.putZs z x).held = s.held := rfl
@[simp] theorem putZs_req (z : Nat) (x : ZoneStatus) : (s.putZs z x).req = s.req := rfl
@[simp] theorem putZs_notices (z : Nat) (x : ZoneStatus) : (s.putZs z x).notices = s.notices := rfl
@[simp] theorem putZs_mask (z : Nat) (x : ZoneStatus) : (s.putZs z x).mask = s.mask := rfl
@[simp] theorem putZs_counters (z : Nat) (x : ZoneStatus) : (s.putZs z x).counters = s.counters := rfl
@[simp] theorem putZs_free (z : Nat) (x : ZoneStatus) : (s.putZs z x).free = s.free := rfl
@[simp] theorem putZs_ev (z : Nat) (x : ZoneStatus) : (s.putZs z x).ev = s.ev := rfl

/-! ### putBerth -/

@[simp] theorem putBerth_now (b : Nat) (x : BerthStatus) : (s.putBerth b x).now = s.now := rfl
@[simp] theorem putBerth_pending (b : Nat) (x : BerthStatus) : (s.putBerth b x).pending = s.pending := rfl
@[simp] theorem putBerth_addr (b : Nat) (x : BerthStatus) : (s.putBerth b x).addr = s.addr := rfl
@[simp] theorem putBerth_rate (b : Nat) (x : BerthStatus) : (s.putBerth b x).rate = s.rate := rfl
@[simp] theorem putBerth_up (b : Nat) (x : BerthStatus) : (s.putBerth b x).up = s.up := rfl
@[simp] theorem putBerth_dn (b : Nat) (x : BerthStatus) : (s.putBerth b x).dn = s.dn := rfl
@[simp] theorem putBerth_resendDue (b : Nat) (x : BerthStatus) : (s.putBerth b x).resendDue = s.resendDue := rfl
@[simp] theorem putBerth_tab (b : Nat) (x : BerthStatus) : (s.putBerth b x).tab = s.tab := rfl
@[simp] theorem putBerth_zs (b : Nat) (x : BerthStatus) : (s.putBerth b x).zs = s.zs := rfl
@[simp] theorem putBerth_boats (b : Nat) (x : BerthStatus) : (s.putBerth b x).boats = s.boats := rfl
@[simp] theorem putBerth_rel (b : Nat) (x : BerthStatus) : (s.putBerth b x).rel = s.rel := rfl
@[simp] theorem putBerth_queue (b : Nat) (x : BerthStatus) : (s.putBerth b x).queue = s.queue := rfl
@[simp] theorem putBerth_reqSeq (b : Nat) (x : BerthStatus) : (s.putBerth b x).reqSeq = s.reqSeq := rfl
@[simp] theorem putBerth_seqs (b : Nat) (x : BerthStatus) : (s.putBerth b x).seqs = s.seqs := rfl
@[simp] theorem putBerth_runs (b : Nat) (x : BerthStatus) : (s.putBerth b x).runs = s.runs := rfl
@[simp] theorem putBerth_nodes (b : Nat) (x : BerthStatus) : (s.putBerth b x).nodes = s.nodes := rfl
@[simp] theorem putBerth_inputs (b : Nat) (x : BerthStatus) : (s.putBerth b x).inputs = s.inputs := rfl
@[simp] theorem putBerth_acts (b : Nat) (x : BerthStatus) : (s.putBerth b x).acts = s.acts := rfl
@[simp] theorem putBerth_cmds (b : Nat) (x : BerthStatus) : (s.putBerth b x).cmds = s.cmds := rfl
@[simp] theorem putBerth_tag (b : Nat) (x : BerthStatus) : (s.putBerth b x).tag = s.tag := rfl
@[simp] theorem putBerth_mc (b : Nat) (x : BerthStatus) : (s.putBerth b x).mc = s.mc := rfl
@[simp] theorem putBerth_pulses (b : Nat) (x : BerthStatus) : (s.putBerth b x).pulses = s.pulses := rfl
@[simp] theorem putBerth_lines (b : Nat) (x : BerthStatus) : (s.putBerth b x).lines = s.lines := rfl
@[simp] theorem putBerth_ptr (b : Nat) (x : BerthStatus) : (s.putBerth b x).ptr = s.ptr := rfl
@[simp] theorem putBerth_holder (b : Nat) (x : BerthStatus) : (s.putBerth b x).holder = s.holder := rfl
@[simp] theorem putBerth_held (b : Nat) (x : BerthStatus) : (s.putBerth b x).held = s.held := rfl
@[simp] theorem putBerth_req (b : Nat) (x : BerthStatus) : (s.putBerth b x).req = s.req := rfl
@[simp] theorem putBerth_notices (b : Nat) (x : BerthStatus) : (s.putBerth b x).notices = s.notices := rfl
@[simp] theorem putBerth_mask (b : Nat) (x : BerthStatus) : (s.putBerth b x).mask = s.mask := rfl
@[simp] theorem putBerth_counters (b : Nat) (x : BerthStatus) : (s.putBerth b x).counters = s.counters := rfl
@[simp] theorem putBerth_free (b : Nat) (x : BerthStatus) : (s.putBerth b x).free = s.free := rfl
@[simp] theorem putBerth_ev (b : Nat) (x : BerthStatus) : (s.putBerth b x).ev = s.ev := rfl

/-! ### putSeq -/

@[simp] theorem putSeq_now (k : Nat) (x : Seq) : (s.putSeq k x).now = s.now := rfl
@[simp] theorem putSeq_pending (k : Nat) (x : Seq) : (s.putSeq k x).pending = s.pending := rfl
@[simp] theorem putSeq_addr (k : Nat) (x : Seq) : (s.putSeq k x).addr = s.addr := rfl
@[simp] theorem putSeq_rate (k : Nat) (x : Seq) : (s.putSeq k x).rate = s.rate := rfl
@[simp] theorem putSeq_up (k : Nat) (x : Seq) : (s.putSeq k x).up = s.up := rfl
@[simp] theorem putSeq_dn (k : Nat) (x : Seq) : (s.putSeq k x).dn = s.dn := rfl
@[simp] theorem putSeq_resendDue (k : Nat) (x : Seq) : (s.putSeq k x).resendDue = s.resendDue := rfl
@[simp] theorem putSeq_tab (k : Nat) (x : Seq) : (s.putSeq k x).tab = s.tab := rfl
@[simp] theorem putSeq_zs (k : Nat) (x : Seq) : (s.putSeq k x).zs = s.zs := rfl
@[simp] theorem putSeq_boats (k : Nat) (x : Seq) : (s.putSeq k x).boats = s.boats := rfl
@[simp] theorem putSeq_rel (k : Nat) (x : Seq) : (s.putSeq k x).rel = s.rel := rfl
@[simp] theorem putSeq_queue (k : Nat) (x : Seq) : (s.putSeq k x).queue = s.queue := rfl
@[simp] theorem putSeq_reqSeq (k : Nat) (x : Seq) : (s.putSeq k x).reqSeq = s.reqSeq := rfl
@[simp] theorem putSeq_berths (k : Nat) (x : Seq) : (s.putSeq k x).berths = s.berths := rfl
@[simp] theorem putSeq_runs (k : Nat) (x : Seq) : (s.putSeq k x).runs = s.runs := rfl
@[simp] theorem putSeq_nodes (k : Nat) (x : Seq) : (s.putSeq k x).nodes = s.nodes := rfl
@[simp] theorem putSeq_inputs (k : Nat) (x : Seq) : (s.putSeq k x).inputs = s.inputs := rfl
@[simp] theorem putSeq_acts (k : Nat) (x : Seq) : (s.putSeq k x).acts = s.acts := rfl
@[simp] theorem putSeq_cmds (k : Nat) (x : Seq) : (s.putSeq k x).cmds = s.cmds := rfl
@[simp] theorem putSeq_tag (k : Nat) (x : Seq) : (s.putSeq k x).tag = s.tag := rfl
@[simp] theorem putSeq_mc (k : Nat) (x : Seq) : (s.putSeq k x).mc = s.mc := rfl
@[simp] theorem putSeq_pulses (k : Nat) (x : Seq) : (s.putSeq k x).pulses = s.pulses := rfl
@[simp] theorem putSeq_lines (k : Nat) (x : Seq) : (s.putSeq k x).lines = s.lines := rfl
@[simp] theorem putSeq_ptr (k : Nat) (x : Seq) : (s.putSeq k x).ptr = s.ptr := rfl
@[simp] theorem putSeq_holder (k : Nat) (x : Seq) : (s.putSeq k x).holder = s.holder := rfl
@[simp] theorem putSeq_held (k : Nat) (x : Seq) : (s.putSeq k x).held = s.held := rfl
@[simp] theorem putSeq_req (k : Nat) (x : Seq) : (s.putSeq k x).req = s.req := rfl
@[simp] theorem putSeq_notices (k : Nat) (x : Seq) : (s.putSeq k x).notices = s.notices := rfl
@[simp] theorem putSeq_mask (k : Nat) (x : Seq) : (s.putSeq k x).mask = s.mask := rfl
@[simp] theorem putSeq_counters (k : Nat) (x : Seq) : (s.putSeq k x).counters = s.counters := rfl
@[simp] theorem putSeq_free (k : Nat) (x : Seq) : (s.putSeq k x).free = s.free := rfl
@[simp] theorem putSeq_ev (k : Nat) (x : Seq) : (s.putSeq k x).ev = s.ev := rfl

/-! ### putRun -/

@[simp] theorem putRun_now (r : Nat) (x : RunStatus) : (s.putRun r x).now = s.now := rfl
@[simp] theorem putRun_pending (r : Nat) (x : RunStatus) : (s.putRun r x).pending = s.pending := rfl
@[simp] theorem putRun_addr (r : Nat) (x : RunStatus) : (s.putRun r x).addr = s.addr := rfl
@[simp] theorem putRun_rate (r : Nat) (x : RunStatus) : (s.putRun r x).rate = s.rate := rfl
@[simp] theorem putRun_up (r : Nat) (x : RunStatus) : (s.putRun r x).up = s.up := rfl
@[simp] theorem putRun_dn (r : Nat) (x : RunStatus) : (s.putRun r x).dn = s.dn := rfl
@[simp] theorem putRun_resendDue (r : Nat) (x : RunStatus) : (s.putRun r x).resendDue = s.resendDue := rfl
@[simp] theorem putRun_tab (r : Nat) (x : RunStatus) : (s.putRun r x).tab = s.tab := rfl
@[simp] theorem putRun_zs (r : Nat) (x : RunStatus) : (s.putRun r x).zs = s.zs := rfl
@[simp] theorem putRun_boats (r : Nat) (x : RunStatus) : (s.putRun r x).boats = s.boats := rfl
@[simp] theorem putRun_rel (r : Nat) (x : RunStatus) : (s.putRun r x).rel = s.rel := rfl
@[simp] theorem putRun_queue (r : Nat) (x : RunStatus) : (s.putRun r x).queue = s.queue := rfl
@[simp] theorem putRun_reqSeq (r : Nat) (x : RunStatus) : (s.putRun r x).reqSeq = s.reqSeq := rfl
@[simp] theorem putRun_berths (r : Nat) (x : RunStatus) : (s.putRun r x).berths = s.berths := rfl
@[simp] theorem putRun_seqs (r : Nat) (x : RunStatus) : (s.putRun r x).seqs = s.seqs := rfl
@[simp] theorem putRun_nodes (r : Nat) (x : RunStatus) : (s.putRun r x).nodes = s.nodes := rfl
@[simp] theorem putRun_inputs (r : Nat) (x : RunStatus) : (s.putRun r x).inputs = s.inputs := rfl
@[simp] theorem putRun_acts (r : Nat) (x : RunStatus) : (s.putRun r x).acts = s.acts := rfl
@[simp] theorem putRun_cmds (r : Nat) (x : RunStatus) : (s.putRun r x).cmds = s.cmds := rfl
@[simp] theorem putRun_tag (r : Nat) (x : RunStatus) : (s.putRun r x).tag = s.tag := rfl
@[simp] theorem putRun_mc (r : Nat) (x : RunStatus) : (s.putRun r x).mc = s.mc := rfl
@[simp] theorem putRun_pulses (r : Nat) (x : RunStatus) : (s.putRun r x).pulses = s.pulses := rfl
@[simp] theorem putRun_lines (r : Nat) (x : RunStatus) : (s.putRun r x).lines = s.lines := rfl
@[simp] theorem putRun_ptr (r : Nat) (x : RunStatus) : (s.putRun r x).ptr = s.ptr := rfl
@[simp] theorem putRun_holder (r : Nat) (x : RunStatus) : (s.putRun r x).holder = s.holder := rfl
@[simp] theorem putRun_held (r : Nat) (x : RunStatus) : (s.putRun r x).held = s.held := rfl
@[simp] theorem putRun_req (r : Nat) (x : RunStatus) : (s.putRun r x).req = s.req := rfl
@[simp] theorem putRun_notices (r : Nat) (x : RunStatus) : (s.putRun r x).notices = s.notices := rfl
@[simp] theorem putRun_mask (r : Nat) (x : RunStatus) : (s.putRun r x).mask = s.mask := rfl
@[simp] theorem putRun_counters (r : Nat) (x : RunStatus) : (s.putRun r x).counters = s.counters := rfl
@[simp] theorem putRun_free (r : Nat) (x : RunStatus) : (s.putRun r x).free = s.free := rfl
@[simp] theorem putRun_ev (r : Nat) (x : RunStatus) : (s.putRun r x).ev = s.ev := rfl

/-! ### putNode -/

@[simp] theorem putNode_now (n : Nat) (x : NodeStatus) : (s.putNode n x).now = s.now := rfl
@[simp] theorem putNode_pending (n : Nat) (x : NodeStatus) : (s.putNode n x).pending = s.pending := rfl
@[simp] theorem putNode_addr (n : Nat) (x : NodeStatus) : (s.putNode n x).addr = s.addr := rfl
@[simp] theorem putNode_rate (n : Nat) (x : NodeStatus) : (s.putNode n x).rate = s.rate := rfl
@[simp] theorem putNode_up (n : Nat) (x : NodeStatus) : (s.putNode n x).up = s.up := rfl
@[simp] theorem putNode_dn (n : Nat) (x : NodeStatus) : (s.putNode n x).dn = s.dn := rfl
@[simp] theorem putNode_resendDue (n : Nat) (x : NodeStatus) : (s.putNode n x).resendDue = s.resendDue := rfl
@[simp] theorem putNode_tab (n : Nat) (x : NodeStatus) : (s.putNode n x).tab = s.tab := rfl
@[simp] theorem putNode_zs (n : Nat) (x : NodeStatus) : (s.putNode n x).zs = s.zs := rfl
@[simp] theorem putNode_boats (n : Nat) (x : NodeStatus) : (s.putNode n x).boats = s.boats := rfl
@[simp] theorem putNode_rel (n : Nat) (x : NodeStatus) : (s.putNode n x).rel = s.rel := rfl
@[simp] theorem putNode_queue (n : Nat) (x : NodeStatus) : (s.putNode n x).queue = s.queue := rfl
@[simp] theorem putNode_reqSeq (n : Nat) (x : NodeStatus) : (s.putNode n x).reqSeq = s.reqSeq := rfl
@[simp] theorem putNode_berths (n : Nat) (x : NodeStatus) : (s.putNode n x).berths = s.berths := rfl
@[simp] theorem putNode_seqs (n : Nat) (x : NodeStatus) : (s.putNode n x).seqs = s.seqs := rfl
@[simp] theorem putNode_runs (n : Nat) (x : NodeStatus) : (s.putNode n x).runs = s.runs := rfl
@[simp] theorem putNode_inputs (n : Nat) (x : NodeStatus) : (s.putNode n x).inputs = s.inputs := rfl
@[simp] theorem putNode_acts (n : Nat) (x : NodeStatus) : (s.putNode n x).acts = s.acts := rfl
@[simp] theorem putNode_cmds (n : Nat) (x : NodeStatus) : (s.putNode n x).cmds = s.cmds := rfl
@[simp] theorem putNode_tag (n : Nat) (x : NodeStatus) : (s.putNode n x).tag = s.tag := rfl
@[simp] theorem putNode_mc (n : Nat) (x : NodeStatus) : (s.putNode n x).mc = s.mc := rfl
@[simp] theorem putNode_pulses (n : Nat) (x : NodeStatus) : (s.putNode n x).pulses = s.pulses := rfl
@[simp] theorem putNode_lines (n : Nat) (x : NodeStatus) : (s.putNode n x).lines = s.lines := rfl
@[simp] theorem putNode_ptr (n : Nat) (x : NodeStatus) : (s.putNode n x).ptr = s.ptr := rfl
@[simp] theorem putNode_holder (n : Nat) (x : NodeStatus) : (s.putNode n x).holder = s.holder := rfl
@[simp] theorem putNode_held (n : Nat) (x : NodeStatus) : (s.putNode n x).held = s.held := rfl
@[simp] theorem putNode_req (n : Nat) (x : NodeStatus) : (s.putNode n x).req = s.req := rfl
@[simp] theorem putNode_notices (n : Nat) (x : NodeStatus) : (s.putNode n x).notices = s.notices := rfl
@[simp] theorem putNode_mask (n : Nat) (x : NodeStatus) : (s.putNode n x).mask = s.mask := rfl
@[simp] theorem putNode_counters (n : Nat) (x : NodeStatus) : (s.putNode n x).counters = s.counters := rfl
@[simp] theorem putNode_free (n : Nat) (x : NodeStatus) : (s.putNode n x).free = s.free := rfl
@[simp] theorem putNode_ev (n : Nat) (x : NodeStatus) : (s.putNode n x).ev = s.ev := rfl

/-! ### putInputs -/

@[simp] theorem putInputs_now (n : Nat) (x : BitVec 4) : (s.putInputs n x).now = s.now := rfl
@[simp] theorem putInputs_pending (n : Nat) (x : BitVec 4) : (s.putInputs n x).pending = s.pending := rfl
@[simp] theorem putInputs_addr (n : Nat) (x : BitVec 4) : (s.putInputs n x).addr = s.addr := rfl
@[simp] theorem putInputs_rate (n : Nat) (x : BitVec 4) : (s.putInputs n x).rate = s.rate := rfl
@[simp] theorem putInputs_up (n : Nat) (x : BitVec 4) : (s.putInputs n x).up = s.up := rfl
@[simp] theorem putInputs_dn (n : Nat) (x : BitVec 4) : (s.putInputs n x).dn = s.dn := rfl
@[simp] theorem putInputs_resendDue (n : Nat) (x : BitVec 4) : (s.putInputs n x).resendDue = s.resendDue := rfl
@[simp] theorem putInputs_tab (n : Nat) (x : BitVec 4) : (s.putInputs n x).tab = s.tab := rfl
@[simp] theorem putInputs_zs (n : Nat) (x : BitVec 4) : (s.putInputs n x).zs = s.zs := rfl
@[simp] theorem putInputs_boats (n : Nat) (x : BitVec 4) : (s.putInputs n x).boats = s.boats := rfl
@[simp] theorem putInputs_rel (n : Nat) (x : BitVec 4) : (s.putInputs n x).rel = s.rel := rfl
@[simp] theorem putInputs_queue (n : Nat) (x : BitVec 4) : (s.putInputs n x).queue = s.queue := rfl
@[simp] theorem putInputs_reqSeq (n : Nat) (x : BitVec 4) : (s.putInputs n x).reqSeq = s.reqSeq := rfl
@[simp] theorem putInputs_berths (n : Nat) (x : BitVec 4) : (s.putInputs n x).berths = s.berths := rfl
@[simp] theorem putInputs_seqs (n : Nat) (x : BitVec 4) : (s.putInputs n x).seqs = s.seqs := rfl
@[simp] theorem putInputs_runs (n : Nat) (x : BitVec 4) : (s.putInputs n x).runs = s.runs := rfl
@[simp] theorem putInputs_nodes (n : Nat) (x : BitVec 4) : (s.putInputs n x).nodes = s.nodes := rfl
@[simp] theorem putInputs_acts (n : Nat) (x : BitVec 4) : (s.putInputs n x).acts = s.acts := rfl
@[simp] theorem putInputs_cmds (n : Nat) (x : BitVec 4) : (s.putInputs n x).cmds = s.cmds := rfl
@[simp] theorem putInputs_tag (n : Nat) (x : BitVec 4) : (s.putInputs n x).tag = s.tag := rfl
@[simp] theorem putInputs_mc (n : Nat) (x : BitVec 4) : (s.putInputs n x).mc = s.mc := rfl
@[simp] theorem putInputs_pulses (n : Nat) (x : BitVec 4) : (s.putInputs n x).pulses = s.pulses := rfl
@[simp] theorem putInputs_lines (n : Nat) (x : BitVec 4) : (s.putInputs n x).lines = s.lines := rfl
@[simp] theorem putInputs_ptr (n : Nat) (x : BitVec 4) : (s.putInputs n x).ptr = s.ptr := rfl
@[simp] theorem putInputs_holder (n : Nat) (x : BitVec 4) : (s.putInputs n x).holder = s.holder := rfl
@[simp] theorem putInputs_held (n : Nat) (x : BitVec 4) : (s.putInputs n x).held = s.held := rfl
@[simp] theorem putInputs_req (n : Nat) (x : BitVec 4) : (s.putInputs n x).req = s.req := rfl
@[simp] theorem putInputs_notices (n : Nat) (x : BitVec 4) : (s.putInputs n x).notices = s.notices := rfl
@[simp] theorem putInputs_mask (n : Nat) (x : BitVec 4) : (s.putInputs n x).mask = s.mask := rfl
@[simp] theorem putInputs_counters (n : Nat) (x : BitVec 4) : (s.putInputs n x).counters = s.counters := rfl
@[simp] theorem putInputs_free (n : Nat) (x : BitVec 4) : (s.putInputs n x).free = s.free := rfl
@[simp] theorem putInputs_ev (n : Nat) (x : BitVec 4) : (s.putInputs n x).ev = s.ev := rfl

/-! ### putAct -/

@[simp] theorem putAct_now (a : Nat) (x : ActStatus) : (s.putAct a x).now = s.now := rfl
@[simp] theorem putAct_pending (a : Nat) (x : ActStatus) : (s.putAct a x).pending = s.pending := rfl
@[simp] theorem putAct_addr (a : Nat) (x : ActStatus) : (s.putAct a x).addr = s.addr := rfl
@[simp] theorem putAct_rate (a : Nat) (x : ActStatus) : (s.putAct a x).rate = s.rate := rfl
@[simp] theorem putAct_up (a : Nat) (x : ActStatus) : (s.putAct a x).up = s.up := rfl
@[simp] theorem putAct_dn (a : Nat) (x : ActStatus) : (s.putAct a x).dn = s.dn := rfl
@[simp] theorem putAct_resendDue (a : Nat) (x : ActStatus) : (s.putAct a x).resendDue = s.resendDue := rfl
@[simp] theorem putAct_tab (a : Nat) (x : ActStatus) : (s.putAct a x).tab = s.tab := rfl
@[simp] theorem putAct_zs (a : Nat) (x : ActStatus) : (s.putAct a x).zs = s.zs := rfl
@[simp] theorem putAct_boats (a : Nat) (x : ActStatus) : (s.putAct a x).boats = s.boats := rfl
@[simp] theorem putAct_rel (a : Nat) (x : ActStatus) : (s.putAct a x).rel = s.rel := rfl
@[simp] theorem putAct_queue (a : Nat) (x : ActStatus) : (s.putAct a x).queue = s.queue := rfl
@[simp] theorem putAct_reqSeq (a : Nat) (x : ActStatus) : (s.putAct a x).reqSeq = s.reqSeq := rfl
@[simp] theorem putAct_berths (a : Nat) (x : ActStatus) : (s.putAct a x).berths = s.berths := rfl
@[simp] theorem putAct_seqs (a : Nat) (x : ActStatus) : (s.putAct a x).seqs = s.seqs := rfl
@[simp] theorem putAct_runs (a : Nat) (x : ActStatus) : (s.putAct a x).runs = s.runs := rfl
@[simp] theorem putAct_nodes (a : Nat) (x : ActStatus) : (s.putAct a x).nodes = s.nodes := rfl
@[simp] theorem putAct_inputs (a : Nat) (x : ActStatus) : (s.putAct a x).inputs = s.inputs := rfl
@[simp] theorem putAct_cmds (a : Nat) (x : ActStatus) : (s.putAct a x).cmds = s.cmds := rfl
@[simp] theorem putAct_tag (a : Nat) (x : ActStatus) : (s.putAct a x).tag = s.tag := rfl
@[simp] theorem putAct_mc (a : Nat) (x : ActStatus) : (s.putAct a x).mc = s.mc := rfl
@[simp] theorem putAct_pulses (a : Nat) (x : ActStatus) : (s.putAct a x).pulses = s.pulses := rfl
@[simp] theorem putAct_lines (a : Nat) (x : ActStatus) : (s.putAct a x).lines = s.lines := rfl
@[simp] theorem putAct_ptr (a : Nat) (x : ActStatus) : (s.putAct a x).ptr = s.ptr := rfl
@[simp] theorem putAct_holder (a : Nat) (x : ActStatus) : (s.putAct a x).holder = s.holder := rfl
@[simp] theorem putAct_held (a : Nat) (x : ActStatus) : (s.putAct a x).held = s.held := rfl
@[simp] theorem putAct_req (a : Nat) (x : ActStatus) : (s.putAct a x).req = s.req := rfl
@[simp] theorem putAct_notices (a : Nat) (x : ActStatus) : (s.putAct a x).notices = s.notices := rfl
@[simp] theorem putAct_mask (a : Nat) (x : ActStatus) : (s.putAct a x).mask = s.mask := rfl
@[simp] theorem putAct_counters (a : Nat) (x : ActStatus) : (s.putAct a x).counters = s.counters := rfl
@[simp] theorem putAct_free (a : Nat) (x : ActStatus) : (s.putAct a x).free = s.free := rfl
@[simp] theorem putAct_ev (a : Nat) (x : ActStatus) : (s.putAct a x).ev = s.ev := rfl

/-! ### putPulse -/

@[simp] theorem putPulse_now (u : Nat) (x : Option Nat) : (s.putPulse u x).now = s.now := rfl
@[simp] theorem putPulse_pending (u : Nat) (x : Option Nat) : (s.putPulse u x).pending = s.pending := rfl
@[simp] theorem putPulse_addr (u : Nat) (x : Option Nat) : (s.putPulse u x).addr = s.addr := rfl
@[simp] theorem putPulse_rate (u : Nat) (x : Option Nat) : (s.putPulse u x).rate = s.rate := rfl
@[simp] theorem putPulse_up (u : Nat) (x : Option Nat) : (s.putPulse u x).up = s.up := rfl
@[simp] theorem putPulse_dn (u : Nat) (x : Option Nat) : (s.putPulse u x).dn = s.dn := rfl
@[simp] theorem putPulse_resendDue (u : Nat) (x : Option Nat) : (s.putPulse u x).resendDue = s.resendDue := rfl
@[simp] theorem putPulse_tab (u : Nat) (x : Option Nat) : (s.putPulse u x).tab = s.tab := rfl
@[simp] theorem putPulse_zs (u : Nat) (x : Option Nat) : (s.putPulse u x).zs = s.zs := rfl
@[simp] theorem putPulse_boats (u : Nat) (x : Option Nat) : (s.putPulse u x).boats = s.boats := rfl
@[simp] theorem putPulse_rel (u : Nat) (x : Option Nat) : (s.putPulse u x).rel = s.rel := rfl
@[simp] theorem putPulse_queue (u : Nat) (x : Option Nat) : (s.putPulse u x).queue = s.queue := rfl
@[simp] theorem putPulse_reqSeq (u : Nat) (x : Option Nat) : (s.putPulse u x).reqSeq = s.reqSeq := rfl
@[simp] theorem putPulse_berths (u : Nat) (x : Option Nat) : (s.putPulse u x).berths = s.berths := rfl
@[simp] theorem putPulse_seqs (u : Nat) (x : Option Nat) : (s.putPulse u x).seqs = s.seqs := rfl
@[simp] theorem putPulse_runs (u : Nat) (x : Option Nat) : (s.putPulse u x).runs = s.runs := rfl
@[simp] theorem putPulse_nodes (u : Nat) (x : Option Nat) : (s.putPulse u x).nodes = s.nodes := rfl
@[simp] theorem putPulse_inputs (u : Nat) (x : Option Nat) : (s.putPulse u x).inputs = s.inputs := rfl
@[simp] theorem putPulse_acts (u : Nat) (x : Option Nat) : (s.putPulse u x).acts = s.acts := rfl
@[simp] theorem putPulse_cmds (u : Nat) (x : Option Nat) : (s.putPulse u x).cmds = s.cmds := rfl
@[simp] theorem putPulse_tag (u : Nat) (x : Option Nat) : (s.putPulse u x).tag = s.tag := rfl
@[simp] theorem putPulse_mc (u : Nat) (x : Option Nat) : (s.putPulse u x).mc = s.mc := rfl
@[simp] theorem putPulse_lines (u : Nat) (x : Option Nat) : (s.putPulse u x).lines = s.lines := rfl
@[simp] theorem putPulse_ptr (u : Nat) (x : Option Nat) : (s.putPulse u x).ptr = s.ptr := rfl
@[simp] theorem putPulse_holder (u : Nat) (x : Option Nat) : (s.putPulse u x).holder = s.holder := rfl
@[simp] theorem putPulse_held (u : Nat) (x : Option Nat) : (s.putPulse u x).held = s.held := rfl
@[simp] theorem putPulse_req (u : Nat) (x : Option Nat) : (s.putPulse u x).req = s.req := rfl
@[simp] theorem putPulse_notices (u : Nat) (x : Option Nat) : (s.putPulse u x).notices = s.notices := rfl
@[simp] theorem putPulse_mask (u : Nat) (x : Option Nat) : (s.putPulse u x).mask = s.mask := rfl
@[simp] theorem putPulse_counters (u : Nat) (x : Option Nat) : (s.putPulse u x).counters = s.counters := rfl
@[simp] theorem putPulse_free (u : Nat) (x : Option Nat) : (s.putPulse u x).free = s.free := rfl
@[simp] theorem putPulse_ev (u : Nat) (x : Option Nat) : (s.putPulse u x).ev = s.ev := rfl

/-! ### modMc -/

@[simp] theorem modMc_now (f : ModeCtl → ModeCtl) : (s.modMc f).now = s.now := rfl
@[simp] theorem modMc_pending (f : ModeCtl → ModeCtl) : (s.modMc f).pending = s.pending := rfl
@[simp] theorem modMc_addr (f : ModeCtl → ModeCtl) : (s.modMc f).addr = s.addr := rfl
@[simp] theorem modMc_rate (f : ModeCtl → ModeCtl) : (s.modMc f).rate = s.rate := rfl
@[simp] theorem modMc_up (f : ModeCtl → ModeCtl) : (s.modMc f).up = s.up := rfl
@[simp] theorem modMc_dn (f : ModeCtl → ModeCtl) : (s.modMc f).dn = s.dn := rfl
@[simp] theorem modMc_resendDue (f : ModeCtl → ModeCtl) : (s.modMc f).resendDue = s.resendDue := rfl
@[simp] theorem modMc_tab (f : ModeCtl → ModeCtl) : (s.modMc f).tab = s.tab := rfl
@[simp] theorem modMc_zs (f : ModeCtl → ModeCtl) : (s.modMc f).zs = s.zs := rfl
@[simp] theorem modMc_boats (f : ModeCtl → ModeCtl) : (s.modMc f).boats = s.boats := rfl
@[simp] theorem modMc_rel (f : ModeCtl → ModeCtl) : (s.modMc f).rel = s.rel := rfl
@[simp] theorem modMc_queue (f : ModeCtl → ModeCtl) : (s.modMc f).queue = s.queue := rfl
@[simp] theorem modMc_reqSeq (f : ModeCtl → ModeCtl) : (s.modMc f).reqSeq = s.reqSeq := rfl
@[simp] theorem modMc_berths (f : ModeCtl → ModeCtl) : (s.modMc f).berths = s.berths := rfl
@[simp] theorem modMc_seqs (f : ModeCtl → ModeCtl) : (s.modMc f).seqs = s.seqs := rfl
@[simp] theorem modMc_runs (f : ModeCtl → ModeCtl) : (s.modMc f).runs = s.runs := rfl
@[simp] theorem modMc_nodes (f : ModeCtl → ModeCtl) : (s.modMc f).nodes = s.nodes := rfl
@[simp] theorem modMc_inputs (f : ModeCtl → ModeCtl) : (s.modMc f).inputs = s.inputs := rfl
@[simp] theorem modMc_acts (f : ModeCtl → ModeCtl) : (s.modMc f).acts = s.acts := rfl
@[simp] theorem modMc_cmds (f : ModeCtl → ModeCtl) : (s.modMc f).cmds = s.cmds := rfl
@[simp] theorem modMc_tag (f : ModeCtl → ModeCtl) : (s.modMc f).tag = s.tag := rfl
@[simp] theorem modMc_pulses (f : ModeCtl → ModeCtl) : (s.modMc f).pulses = s.pulses := rfl
@[simp] theorem modMc_lines (f : ModeCtl → ModeCtl) : (s.modMc f).lines = s.lines := rfl
@[simp] theorem modMc_ptr (f : ModeCtl → ModeCtl) : (s.modMc f).ptr = s.ptr := rfl
@[simp] theorem modMc_holder (f : ModeCtl → ModeCtl) : (s.modMc f).holder = s.holder := rfl
@[simp] theorem modMc_held (f : ModeCtl → ModeCtl) : (s.modMc f).held = s.held := rfl
@[simp] theorem modMc_req (f : ModeCtl → ModeCtl) : (s.modMc f).req = s.req := rfl
@[simp] theorem modMc_notices (f : ModeCtl → ModeCtl) : (s.modMc f).notices = s.notices := rfl
@[simp] theorem modMc_mask (f : ModeCtl → ModeCtl) : (s.modMc f).mask = s.mask := rfl
@[simp] theorem modMc_counters (f : ModeCtl → ModeCtl) : (s.modMc f).counters = s.counters := rfl
@[simp] theorem modMc_free (f : ModeCtl → ModeCtl) : (s.modMc f).free = s.free := rfl
@[simp] theorem modMc_ev (f : ModeCtl → ModeCtl) : (s.modMc f).ev = s.ev := rfl

/-! ### modEv -/

@[simp] theorem modEv_now (f : Ev → Ev) : (s.modEv f).now = s.now := rfl
@[simp] theorem modEv_pending (f : Ev → Ev) : (s.modEv f).pending = s.pending := rfl
@[simp] theorem modEv_addr (f : Ev → Ev) : (s.modEv f).addr = s.addr := rfl
@[simp] theorem modEv_rate (f : Ev → Ev) : (s.modEv f).rate = s.rate := rfl
@[simp] theorem modEv_up (f : Ev → Ev) : (s.modEv f).up = s.up := rfl
@[simp] theorem modEv_dn (f : Ev → Ev) : (s.modEv f).dn = s.dn := rfl
@[simp] theorem modEv_resendDue (f : Ev → Ev) : (s.modEv f).resendDue = s.resendDue := rfl
@[simp] theorem modEv_tab (f : Ev → Ev) : (s.modEv f).tab = s.tab := rfl
@[simp] theorem modEv_zs (f : Ev → Ev) : (s.modEv f).zs = s.zs := rfl
@[simp] theorem modEv_boats (f : Ev → Ev) : (s.modEv f).boats = s.boats := rfl
@[simp] theorem modEv_rel (f : Ev → Ev) : (s.modEv f).rel = s.rel := rfl
@[simp] theorem modEv_queue (f : Ev → Ev) : (s.modEv f).queue = s.queue := rfl
@[simp] theorem modEv_reqSeq (f : Ev → Ev) : (s.modEv f).reqSeq = s.reqSeq := rfl
@[simp] theorem modEv_berths (f : Ev → Ev) : (s.modEv f).berths = s.berths := rfl
@[simp] theorem modEv_seqs (f : Ev → Ev) : (s.modEv f).seqs = s.seqs := rfl
@[simp] theorem modEv_runs (f : Ev → Ev) : (s.modEv f).runs = s.runs := rfl
@[simp] theorem modEv_nodes (f : Ev → Ev) : (s.modEv f).nodes = s.nodes := rfl
@[simp] theorem modEv_inputs (f : Ev → Ev) : (s.modEv f).inputs = s.inputs := rfl
@[simp] theorem modEv_acts (f : Ev → Ev) : (s.modEv f).acts = s.acts := rfl
@[simp] theorem modEv_cmds (f : Ev → Ev) : (s.modEv f).cmds = s.cmds := rfl
@[simp] theorem modEv_tag (f : Ev → Ev) : (s.modEv f).tag = s.tag := rfl
@[simp] theorem modEv_mc (f : Ev → Ev) : (s.modEv f).mc = s.mc := rfl
@[simp] theorem modEv_pulses (f : Ev → Ev) : (s.modEv f).pulses = s.pulses := rfl
@[simp] theorem modEv_lines (f : Ev → Ev) : (s.modEv f).lines = s.lines := rfl
@[simp] theorem modEv_ptr (f : Ev → Ev) : (s.modEv f).ptr = s.ptr := rfl
@[simp] theorem modEv_holder (f : Ev → Ev) : (s.modEv f).holder = s.holder := rfl
@[simp] theorem modEv_held (f : Ev → Ev) : (s.modEv f).held = s.held := rfl
@[simp] theorem modEv_req (f : Ev → Ev) : (s.modEv f).req = s.req := rfl
@[simp] theorem modEv_notices (f : Ev → Ev) : (s.modEv f).notices = s.notices := rfl
@[simp] theorem modEv_mask (f : Ev → Ev) : (s.modEv f).mask = s.mask := rfl
@[simp] theorem modEv_counters (f : Ev → Ev) : (s.modEv f).counters = s.counters := rfl
@[simp] theorem modEv_free (f : Ev → Ev) : (s.modEv f).free = s.free := rfl

/-! ### modTab -/

@[simp] theorem modTab_now (f : Tables → Tables) : (s.modTab f).now = s.now := rfl
@[simp] theorem modTab_pending (f : Tables → Tables) : (s.modTab f).pending = s.pending := rfl
@[simp] theorem modTab_addr (f : Tables → Tables) : (s.modTab f).addr = s.addr := rfl
@[simp] theorem modTab_rate (f : Tables → Tables) : (s.modTab f).rate = s.rate := rfl
@[simp] theorem modTab_up (f : Tables → Tables) : (s.modTab f).up = s.up := rfl
@[simp] theorem modTab_dn (f : Tables → Tables) : (s.modTab f).dn = s.dn := rfl
@[simp] theorem modTab_resendDue (f : Tables → Tables) : (s.modTab f).resendDue = s.resendDue := rfl
@[simp] theorem modTab_zs (f : Tables → Tables) : (s.modTab f).zs = s.zs := rfl
@[simp] theorem modTab_boats (f : Tables → Tables) : (s.modTab f).boats = s.boats := rfl
@[simp] theorem modTab_rel (f : Tables → Tables) : (s.modTab f).rel = s.rel := rfl
@[simp] theorem modTab_queue (f : Tables → Tables) : (s.modTab f).queue = s.queue := rfl
@[simp] theorem modTab_reqSeq (f : Tables → Tables) : (s.modTab f).reqSeq = s.reqSeq := rfl
@[simp] theorem modTab_berths (f : Tables → Tables) : (s.modTab f).berths = s.berths := rfl
@[simp] theorem modTab_seqs (f : Tables → Tables) : (s.modTab f).seqs = s.seqs := rfl
@[simp] theorem modTab_runs (f : Tables → Tables) : (s.modTab f).runs = s.runs := rfl
@[simp] theorem modTab_nodes (f : Tables → Tables) : (s.modTab f).nodes = s.nodes := rfl
@[simp] theorem modTab_inputs (f : Tables → Tables) : (s.modTab f).inputs = s.inputs := rfl
@[simp] theorem modTab_acts (f : Tables → Tables) : (s.modTab f).acts = s.acts := rfl
@[simp] theorem modTab_cmds (f : Tables → Tables) : (s.modTab f).cmds = s.cmds := rfl
@[simp] theorem modTab_tag (f : Tables → Tables) : (s.modTab f).tag = s.tag := rfl
@[simp] theorem modTab_mc (f : Tables → Tables) : (s.modTab f).mc = s.mc := rfl
@[simp] theorem modTab_pulses (f : Tables → Tables) : (s.modTab f).pulses = s.pulses := rfl
@[simp] theorem modTab_lines (f : Tables → Tables) : (s.modTab f).lines = s.lines := rfl
@[simp] theorem modTab_ptr (f : Tables → Tables) : (s.modTab f).ptr = s.ptr := rfl
@[simp] theorem modTab_holder (f : Tables → Tables) : (s.modTab f).holder = s.holder := rfl
@[simp] theorem modTab_held (f : Tables → Tables) : (s.modTab f).held = s.held := rfl
@[simp] theorem modTab_req (f : Tables → Tables) : (s.modTab f).req = s.req := rfl
@[simp] theorem modTab_notices (f : Tables → Tables) : (s.modTab f).notices = s.notices := rfl
@[simp] theorem modTab_mask (f : Tables → Tables) : (s.modTab f).mask = s.mask := rfl
@[simp] theorem modTab_counters (f : Tables → Tables) : (s.modTab f).counters = s.counters := rfl
@[simp] theorem modTab_free (f : Tables → Tables) : (s.modTab f).free = s.free := rfl
@[simp] theorem modTab_ev (f : Tables → Tables) : (s.modTab f).ev = s.ev := rfl

/-! ### bump -/

@[simp] theorem bump_now (c : Counter) : (s.bump c).now = s.now := rfl
@[simp] theorem bump_pending (c : Counter) : (s.bump c).pending = s.pending := rfl
@[simp] theorem bump_addr (c : Counter) : (s.bump c).addr = s.addr := rfl
@[simp] theorem bump_rate (c : Counter) : (s.bump c).rate = s.rate := rfl
@[simp] theorem bump_up (c : Counter) : (s.bump c).up = s.up := rfl
@[simp] theorem bump_dn (c : Counter) : (s.bump c).dn = s.dn := rfl
@[simp] theorem bump_resendDue (c : Counter) : (s.bump c).resendDue = s.resendDue := rfl
@[simp] theorem bump_tab (c : Counter) : (s.bump c).tab = s.tab := rfl
@[simp] theorem bump_zs (c : Counter) : (s.bump c).zs = s.zs := rfl
@[simp] theorem bump_boats (c : Counter) : (s.bump c).boats = s.boats := rfl
@[simp] theorem bump_rel (c : Counter) : (s.bump c).rel = s.rel := rfl
@[simp] theorem bump_queue (c : Counter) : (s.bump c).queue = s.queue := rfl
@[simp] theorem bump_reqSeq (c : Counter) : (s.bump c).reqSeq = s.reqSeq := rfl
@[simp] theorem bump_berths (c : Counter) : (s.bump c).berths = s.berths := rfl
@[simp] theorem bump_seqs (c : Counter) : (s.bump c).seqs = s.seqs := rfl
@[simp] theorem bump_runs (c : Counter) : (s.bump c).runs = s.runs := rfl
@[simp] theorem bump_nodes (c : Counter) : (s.bump c).nodes = s.nodes := rfl
@[simp] theorem bump_inputs (c : Counter) : (s.bump c).inputs = s.inputs := rfl
@[simp] theorem bump_acts (c : Counter) : (s.bump c).acts = s.acts := rfl
@[simp] theorem bump_cmds (c : Counter) : (s.bump c).cmds = s.cmds := rfl
@[simp] theorem bump_tag (c : Counter) : (s.bump c).tag = s.tag := rfl
@[simp] theorem bump_mc (c : Counter) : (s.bump c).mc = s.mc := rfl
@[simp] theorem bump_pulses (c : Counter) : (s.bump c).pulses = s.pulses := rfl
@[simp] theorem bump_lines (c : Counter) : (s.bump c).lines = s.lines := rfl
@[simp] theorem bump_ptr (c : Counter) : (s.bump c).ptr = s.ptr := rfl
@[simp] theorem bump_holder (c : Counter) : (s.bump c).holder = s.holder := rfl
@[simp] theorem bump_held (c : Counter) : (s.bump c).held = s.held := rfl
@[simp] theorem bump_req (c : Counter) : (s.bump c).req = s.req := rfl
@[simp] theorem bump_notices (c : Counter) : (s.bump c).notices = s.notices := rfl
@[simp] theorem bump_mask (c : Counter) : (s.bump c).mask = s.mask := rfl
@[simp] theorem bump_free (c : Counter) : (s.bump c).free = s.free := rfl
@[simp] theorem bump_ev (c : Counter) : (s.bump c).ev = s.ev := rfl

/-! ### useFree -/

@[simp] theorem useFree_now : (s.useFree).now = s.now := rfl
@[simp] theorem useFree_pending : (s.useFree).pending = s.pending := rfl
@[simp] theorem useFree_addr : (s.useFree).addr = s.addr := rfl
@[simp] theorem useFree_rate : (s.useFree).rate = s.rate := rfl
@[simp] theorem useFree_up : (s.useFree).up = s.up := rfl
@[simp] theorem useFree_dn : (s.useFree).dn = s.dn := rfl
@[simp] theorem useFree_resendDue : (s.useFree).resendDue = s.resendDue := rfl
@[simp] theorem useFree_tab : (s.useFree).tab = s.tab := rfl
@[simp] theorem useFree_zs : (s.useFree).zs = s.zs := rfl
@[simp] theorem useFree_boats : (s.useFree).boats = s.boats := rfl
@[simp] theorem useFree_rel : (s.useFree).rel = s.rel := rfl
@[simp] theorem useFree_queue : (s.useFree).queue = s.queue := rfl
@[simp] theorem useFree_reqSeq : (s.useFree).reqSeq = s.reqSeq := rfl
@[simp] theorem useFree_berths : (s.useFree).berths = s.berths := rfl
@[simp] theorem useFree_seqs : (s.useFree).seqs = s.seqs := rfl
@[simp] theorem useFree_runs : (s.useFree).runs = s.runs := rfl
@[simp] theorem useFree_nodes : (s.useFree).nodes = s.nodes := rfl
@[simp] theorem useFree_inputs : (s.useFree).inputs = s.inputs := rfl
@[simp] theorem useFree_acts : (s.useFree).acts = s.acts := rfl
@[simp] theorem useFree_cmds : (s.useFree).cmds = s.cmds := rfl
@[simp] theorem useFree_tag : (s.useFree).tag = s.tag := rfl
@[simp] theorem useFree_mc : (s.useFree).mc = s.mc := rfl
@[simp] theorem useFree_pulses : (s.useFree).pulses = s.pulses := rfl
@[simp] theorem useFree_lines : (s.useFree).lines = s.lines := rfl
@[simp] theorem useFree_ptr : (s.useFree).ptr = s.ptr := rfl
@[simp] theorem useFree_holder : (s.useFree).holder = s.holder := rfl
@[simp] theorem useFree_held : (s.useFree).held = s.held := rfl
@[simp] theorem useFree_req : (s.useFree).req = s.req := rfl
@[simp] theorem useFree_notices : (s.useFree).notices = s.notices := rfl
@[simp] theorem useFree_mask : (s.useFree).mask = s.mask := rfl
@[simp] theorem useFree_counters : (s.useFree).counters = s.counters := rfl
@[simp] theorem useFree_ev : (s.useFree).ev = s.ev := rfl

/-! ### advance -/

@[simp] theorem advance_now : (s.advance).now = s.now := rfl
@[simp] theorem advance_pending : (s.advance).pending = s.pending := rfl
@[simp] theorem advance_addr : (s.advance).addr = s.addr := rfl
@[simp] theorem advance_rate : (s.advance).rate = s.rate := rfl
@[simp] theorem advance_up : (s.advance).up = s.up := rfl
@[simp] theorem advance_dn : (s.advance).dn = s.dn := rfl
@[simp] theorem advance_resendDue : (s.advance).resendDue = s.resendDue := rfl
@[simp] theorem advance_tab : (s.advance).tab = s.tab := rfl
@[simp] theorem advance_zs : (s.advance).zs = s.zs := rfl
@[simp] theorem advance_boats : (s.advance).boats = s.boats := rfl
@[simp] theorem advance_rel : (s.advance).rel = s.rel := rfl
@[simp] theorem advance_queue : (s.advance).queue = s.queue := rfl
@[simp] theorem advance_reqSeq : (s.advance).reqSeq = s.reqSeq := rfl
@[simp] theorem advance_berths : (s.advance).berths = s.berths := rfl
@[simp] theorem advance_seqs : (s.advance).seqs = s.seqs := rfl
@[simp] theorem advance_runs : (s.advance).runs = s.runs := rfl
@[simp] theorem advance_nodes : (s.advance).nodes = s.nodes := rfl
@[simp] theorem advance_inputs : (s.advance).inputs = s.inputs := rfl
@[simp] theorem advance_acts : (s.advance).acts = s.acts := rfl
@[simp] theorem advance_cmds : (s.advance).cmds = s.cmds := rfl
@[simp] theorem advance_tag : (s.advance).tag = s.tag := rfl
@[simp] theorem advance_mc : (s.advance).mc = s.mc := rfl
@[simp] theorem advance_pulses : (s.advance).pulses = s.pulses := rfl
@[simp] theorem advance_lines : (s.advance).lines = s.lines := rfl
@[simp] theorem advance_holder : (s.advance).holder = s.holder := rfl
@[simp] theorem advance_held : (s.advance).held = s.held := rfl
@[simp] theorem advance_req : (s.advance).req = s.req := rfl
@[simp] theorem advance_notices : (s.advance).notices = s.notices := rfl
@[simp] theorem advance_mask : (s.advance).mask = s.mask := rfl
@[simp] theorem advance_counters : (s.advance).counters = s.counters := rfl
@[simp] theorem advance_free : (s.advance).free = s.free := rfl
@[simp] theorem advance_ev : (s.advance).ev = s.ev := rfl

/-! ### removeEntry -/

@[simp] theorem removeEntry_now (a : Nat) : (s.removeEntry a).now = s.now := rfl
@[simp] theorem removeEntry_pending (a : Nat) : (s.removeEntry a).pending = s.pending := rfl
@[simp] theorem removeEntry_addr (a : Nat) : (s.removeEntry a).addr = s.addr := rfl
@[simp] theorem removeEntry_rate (a : Nat) : (s.removeEntry a).rate = s.rate := rfl
@[simp] theorem removeEntry_up (a : Nat) : (s.removeEntry a).up = s.up := rfl
@[simp] theorem removeEntry_dn (a : Nat) : (s.removeEntry a).dn = s.dn := rfl
@[simp] theorem removeEntry_resendDue (a : Nat) : (s.removeEntry a).resendDue = s.resendDue := rfl
@[simp] theorem removeEntry_tab (a : Nat) : (s.removeEntry a).tab = s.tab := rfl
@[simp] theorem removeEntry_zs (a : Nat) : (s.removeEntry a).zs = s.zs := rfl
@[simp] theorem removeEntry_boats (a : Nat) : (s.removeEntry a).boats = s.boats := rfl
@[simp] theorem removeEntry_rel (a : Nat) : (s.removeEntry a).rel = s.rel := rfl
@[simp] theorem removeEntry_queue (a : Nat) : (s.removeEntry a).queue = s.queue := rfl
@[simp] theorem removeEntry_reqSeq (a : Nat) : (s.removeEntry a).reqSeq = s.reqSeq := rfl
@[simp] theorem removeEntry_berths (a : Nat) : (s.removeEntry a).berths = s.berths := rfl
@[simp] theorem removeEntry_seqs (a : Nat) : (s.removeEntry a).seqs = s.seqs := rfl
@[simp] theorem removeEntry_runs (a : Nat) : (s.removeEntry a).runs = s.runs := rfl
@[simp] theorem removeEntry_nodes (a : Nat) : (s.removeEntry a).nodes = s.nodes := rfl
@[simp] theorem removeEntry_inputs (a : Nat) : (s.removeEntry a).inputs = s.inputs := rfl
@[simp] theorem removeEntry_acts (a : Nat) : (s.removeEntry a).acts = s.acts := rfl
@[simp] theorem removeEntry_tag (a : Nat) : (s.removeEntry a).tag = s.tag := rfl
@[simp] theorem removeEntry_mc (a : Nat) : (s.removeEntry a).mc = s.mc := rfl
@[simp] theorem removeEntry_pulses (a : Nat) : (s.removeEntry a).pulses = s.pulses := rfl
@[simp] theorem removeEntry_lines (a : Nat) : (s.removeEntry a).lines = s.lines := rfl
@[simp] theorem removeEntry_ptr (a : Nat) : (s.removeEntry a).ptr = s.ptr := rfl
@[simp] theorem removeEntry_holder (a : Nat) : (s.removeEntry a).holder = s.holder := rfl
@[simp] theorem removeEntry_held (a : Nat) : (s.removeEntry a).held = s.held := rfl
@[simp] theorem removeEntry_req (a : Nat) : (s.removeEntry a).req = s.req := rfl
@[simp] theorem removeEntry_notices (a : Nat) : (s.removeEntry a).notices = s.notices := rfl
@[simp] theorem removeEntry_mask (a : Nat) : (s.removeEntry a).mask = s.mask := rfl
@[simp] theorem removeEntry_counters (a : Nat) : (s.removeEntry a).counters = s.counters := rfl
@[simp] theorem removeEntry_free (a : Nat) : (s.removeEntry a).free = s.free := rfl
@[simp] theorem removeEntry_ev (a : Nat) : (s.removeEntry a).ev = s.ev := rfl

/-! ### driveLines -/

@[simp] theorem driveLines_now : (s.driveLines).now = s.now := rfl
@[simp] theorem driveLines_pending : (s.driveLines).pending = s.pending := rfl
@[simp] theorem driveLines_addr : (s.driveLines).addr = s.addr := rfl
@[simp] theorem driveLines_rate : (s.driveLines).rate = s.rate := rfl
@[simp] theorem driveLines_up : (s.driveLines).up = s.up := rfl
@[simp] theorem driveLines_dn : (s.driveLines).dn = s.dn := rfl
@[simp] theorem driveLines_resendDue : (s.driveLines).resendDue = s.resendDue := rfl
@[simp] theorem driveLines_tab : (s.driveLines).tab = s.tab := rfl
@[simp] theorem driveLines_zs : (s.driveLines).zs = s.zs := rfl
@[simp] theorem driveLines_boats : (s.driveLines).boats = s.boats := rfl
@[simp] theorem driveLines_rel : (s.driveLines).rel = s.rel := rfl
@[simp] theorem driveLines_queue : (s.driveLines).queue = s.queue := rfl
@[simp] theorem driveLines_reqSeq : (s.driveLines).reqSeq = s.reqSeq := rfl
@[simp] theorem driveLines_berths : (s.driveLines).berths = s.berths := rfl
@[simp] theorem driveLines_seqs : (s.driveLines).seqs = s.seqs := rfl
@[simp] theorem driveLines_runs : (s.driveLines).runs = s.runs := rfl
@[simp] theorem driveLines_nodes : (s.driveLines).nodes = s.nodes := rfl
@[simp] theorem driveLines_inputs : (s.driveLines).inputs = s.inputs := rfl
@[simp] theorem driveLines_acts : (s.driveLines).acts = s.acts := rfl
@[simp] theorem driveLines_cmds : (s.driveLines).cmds = s.cmds := rfl
@[simp] theorem driveLines_tag : (s.driveLines).tag = s.tag := rfl
@[simp] theorem driveLines_mc : (s.driveLines).mc = s.mc := rfl
@[simp] theorem driveLines_pulses : (s.driveLines).pulses = s.pulses := rfl
@[simp] theorem driveLines_ptr : (s.driveLines).ptr = s.ptr := rfl
@[simp] theorem driveLines_holder : (s.driveLines).holder = s.holder := rfl
@[simp] theorem driveLines_held : (s.driveLines).held = s.held := rfl
@[simp] theorem driveLines_req : (s.driveLines).req = s.req := rfl
@[simp] theorem driveLines_notices : (s.driveLines).notices = s.notices := rfl
@[simp] theorem driveLines_mask : (s.driveLines).mask = s.mask := rfl
@[simp] theorem driveLines_counters : (s.driveLines).counters = s.counters := rfl
@[simp] theorem driveLines_free : (s.driveLines).free = s.free := rfl
@[simp] theorem driveLines_ev : (s.driveLines).ev = s.ev := rfl

/-! ### clearEv -/

@[simp] theorem clearEv_now : (s.clearEv).now = s.now := rfl
@[simp] theorem clearEv_pending : (s.clearEv).pending = s.pending := rfl
@[simp] theorem clearEv_addr : (s.clearEv).addr = s.addr := rfl
@[simp] theorem clearEv_rate : (s.clearEv).rate = s.rate := rfl
@[simp] theorem clearEv_up : (s.clearEv).up = s.up := rfl
@[simp] theorem clearEv_dn : (s.clearEv).dn = s.dn := rfl
@[simp] theorem clearEv_resendDue : (s.clearEv).resendDue = s.resendDue := rfl
@[simp] theorem clearEv_tab : (s.clearEv).tab = s.tab := rfl
@[simp] theorem clearEv_zs : (s.clearEv).zs = s.zs := rfl
@[simp] theorem clearEv_boats : (s.clearEv).boats = s.boats := rfl
@[simp] theorem clearEv_rel : (s.clearEv).rel = s.rel := rfl
@[simp] theorem clearEv_queue : (s.clearEv).queue = s.queue := rfl
@[simp] theorem clearEv_reqSeq : (s.clearEv).reqSeq = s.reqSeq := rfl
@[simp] theorem clearEv_berths : (s.clearEv).berths = s.berths := rfl
@[simp] theorem clearEv_seqs : (s.clearEv).seqs = s.seqs := rfl
@[simp] theorem clearEv_runs : (s.clearEv).runs = s.runs := rfl
@[simp] theorem clearEv_nodes : (s.clearEv).nodes = s.nodes := rfl
@[simp] theorem clearEv_inputs : (s.clearEv).inputs = s.inputs := rfl
@[simp] theorem clearEv_acts : (s.clearEv).acts = s.acts := rfl
@[simp] theorem clearEv_cmds : (s.clearEv).cmds = s.cmds := rfl
@[simp] theorem clearEv_tag : (s.clearEv).tag = s.tag := rfl
@[simp] theorem clearEv_mc : (s.clearEv).mc = s.mc := rfl
@[simp] theorem clearEv_pulses : (s.clearEv).pulses = s.pulses := rfl
@[simp] theorem clearEv_lines : (s.clearEv).lines = s.lines := rfl
@[simp] theorem clearEv_ptr : (s.clearEv).ptr = s.ptr := rfl
@[simp] theorem clearEv_holder : (s.clearEv).holder = s.holder := rfl
@[simp] theorem clearEv_held : (s.clearEv).held = s.held := rfl
@[simp] theorem clearEv_req : (s.clearEv).req = s.req := rfl
@[simp] theorem clearEv_notices : (s.clearEv).notices = s.notices := rfl
@[simp] theorem clearEv_mask : (s.clearEv).mask = s.mask := rfl
@[simp] theorem clearEv_counters : (s.clearEv).counters = s.counters := rfl
@[simp] theorem clearEv_free : (s.clearEv).free = s.free := rfl

/-! ### setBerth -/

@[simp] theorem setBerth_now (b : Nat) (f : BerthStatus → BerthStatus) : (s.setBerth b f).now = s.now := rfl
@[simp] theorem setBerth_pending (b : Nat) (f : BerthStatus → BerthStatus) : (s.setBerth b f).pending = s.pending := rfl
@[simp] theorem setBerth_addr (b : Nat) (f : BerthStatus → BerthStatus) : (s.setBerth b f).addr = s.addr := rfl
@[simp] theorem setBerth_rate (b : Nat) (f : BerthStatus → BerthStatus) : (s.setBerth b f).rate = s.rate := rfl
@[simp] theorem setBerth_up (b : Nat) (f : BerthStatus → BerthStatus) : (s.setBerth b f).up = s.up := rfl
@[simp] theorem setBerth_dn (b : Nat) (f : BerthStatus → BerthStatus) : (s.setBerth b f).dn = s.dn := rfl
@[simp] theorem setBerth_resendDue (b : Nat) (f : BerthStatus → BerthStatus) : (s.setBerth b f).resendDue = s.resendDue := rfl
@[simp] theorem setBerth_tab (b : Nat) (f : BerthStatus → BerthStatus) : (s.setBerth b f).tab = s.tab := rfl
@[simp] theorem setBerth_zs (b : Nat) (f : BerthStatus → BerthStatus) : (s.setBerth b f).zs = s.zs := rfl
@[simp] theorem setBerth_boats (b : Nat) (f : BerthStatus → BerthStatus) : (s.setBerth b f).boats = s.boats := rfl
@[simp] theorem setBerth_rel (b : Nat) (f : BerthStatus → BerthStatus) : (s.setBerth b f).rel = s.rel := rfl
@[simp] theorem setBerth_queue (b : Nat) (f : BerthStatus → BerthStatus) : (s.setBerth b f).queue = s.queue := rfl
@[simp] theorem setBerth_reqSeq (b : Nat) (f : BerthStatus → BerthStatus) : (s.setBerth b f).reqSeq = s.reqSeq := rfl
@[simp] theorem setBerth_seqs (b : Nat) (f : BerthStatus → BerthStatus) : (s.setBerth b f).seqs = s.seqs := rfl
@[simp] theorem setBerth_runs (b : Nat) (f : BerthStatus → BerthStatus) : (s.setBerth b f).runs = s.runs := rfl
@[simp] theorem setBerth_nodes (b : Nat) (f : BerthStatus → BerthStatus) : (s.setBerth b f).nodes = s.nodes := rfl
@[simp] theorem setBerth_inputs (b : Nat) (f : BerthStatus → BerthStatus) : (s.setBerth b f).inputs = s.inputs := rfl
@[simp] theorem setBerth_acts (b : Nat) (f : BerthStatus → BerthStatus) : (s.setBerth b f).acts = s.acts := rfl
@[simp] theorem setBerth_cmds (b : Nat) (f : BerthStatus → BerthStatus) : (s.setBerth b f).cmds = s.cmds := rfl
@[simp] theorem setBerth_tag (b : Nat) (f : BerthStatus → BerthStatus) : (s.setBerth b f).tag = s.tag := rfl
@[simp] theorem setBerth_mc (b : Nat) (f : BerthStatus → BerthStatus) : (s.setBerth b f).mc = s.mc := rfl
@[simp] theorem setBerth_pulses (b : Nat) (f : BerthStatus → BerthStatus) : (s.setBerth b f).pulses = s.pulses := rfl
@[simp] theorem setBerth_lines (b : Nat) (f : BerthStatus → BerthStatus) : (s.setBerth b f).lines = s.lines := rfl
@[simp] theorem setBerth_ptr (b : Nat) (f : BerthStatus → BerthStatus) : (s.setBerth b f).ptr = s.ptr := rfl
@[simp] theorem setBerth_holder (b : Nat) (f : BerthStatus → BerthStatus) : (s.setBerth b f).holder = s.holder := rfl
@[simp] theorem setBerth_held (b : Nat) (f : BerthStatus → BerthStatus) : (s.setBerth b f).held = s.held := rfl
@[simp] theorem setBerth_req (b : Nat) (f : BerthStatus → BerthStatus) : (s.setBerth b f).req = s.req := rfl
@[simp] theorem setBerth_notices (b : Nat) (f : BerthStatus → BerthStatus) : (s.setBerth b f).notices = s.notices := rfl
@[simp] theorem setBerth_mask (b : Nat) (f : BerthStatus → BerthStatus) : (s.setBerth b f).mask = s.mask := rfl
@[simp] theorem setBerth_counters (b : Nat) (f : BerthStatus → BerthStatus) : (s.setBerth b f).counters = s.counters := rfl
@[simp] theorem setBerth_free (b : Nat) (f : BerthStatus → BerthStatus) : (s.setBerth b f).free = s.free := rfl

/-! ### setZs -/

@[simp] theorem setZs_now (z : Nat) (x : ZoneStatus) : (s.setZs z x).now = s.now := rfl
@[simp] theorem setZs_pending (z : Nat) (x : ZoneStatus) : (s.setZs z x).pending = s.pending := rfl
@[simp] theorem setZs_addr (z : Nat) (x : ZoneStatus) : (s.setZs z x).addr = s.addr := rfl
@[simp] theorem setZs_rate (z : Nat) (x : ZoneStatus) : (s.setZs z x).rate = s.rate := rfl
@[simp] theorem setZs_up (z : Nat) (x : ZoneStatus) : (s.setZs z x).up = s.up := rfl
@[simp] theorem setZs_dn (z : Nat) (x : ZoneStatus) : (s.setZs z x).dn = s.dn := rfl
@[simp] theorem setZs_resendDue (z : Nat) (x : ZoneStatus) : (s.setZs z x).resendDue = s.resendDue := rfl
@[simp] theorem setZs_tab (z : Nat) (x : ZoneStatus) : (s.setZs z x).tab = s.tab := rfl
@[simp] theorem setZs_boats (z : Nat) (x : ZoneStatus) : (s.setZs z x).boats = s.boats := rfl
@[simp] theorem setZs_rel (z : Nat) (x : ZoneStatus) : (s.setZs z x).rel = s.rel := rfl
@[simp] theorem setZs_queue (z : Nat) (x : ZoneStatus) : (s.setZs z x).queue = s.queue := rfl
@[simp] theorem setZs_reqSeq (z : Nat) (x : ZoneStatus) : (s.setZs z x).reqSeq = s.reqSeq := rfl
@[simp] theorem setZs_berths (z : Nat) (x : ZoneStatus) : (s.setZs z x).berths = s.berths := rfl
@[simp] theorem setZs_seqs (z : Nat) (x : ZoneStatus) : (s.setZs z x).seqs = s.seqs := rfl
@[simp] theorem setZs_runs (z : Nat) (x : ZoneStatus) : (s.setZs z x).runs = s.runs := rfl
@[simp] theorem setZs_nodes (z : Nat) (x : ZoneStatus) : (s.setZs z x).nodes = s.nodes := rfl
@[simp] theorem setZs_inputs (z : Nat) (x : ZoneStatus) : (s.setZs z x).inputs = s.inputs := rfl
@[simp] theorem setZs_acts (z : Nat) (x : ZoneStatus) : (s.setZs z x).acts = s.acts := rfl
@[simp] theorem setZs_cmds (z : Nat) (x : ZoneStatus) : (s.setZs z x).cmds = s.cmds := rfl
@[simp] theorem setZs_tag (z : Nat) (x : ZoneStatus) : (s.setZs z x).tag = s.tag := rfl
@[simp] theorem setZs_mc (z : Nat) (x : ZoneStatus) : (s.setZs z x).mc = s.mc := rfl
@[simp] theorem setZs_pulses (z : Nat) (x : ZoneStatus) : (s.setZs z x).pulses = s.pulses := rfl
@[simp] theorem setZs_lines (z : Nat) (x : ZoneStatus) : (s.setZs z x).lines = s.lines := rfl
@[simp] theorem setZs_ptr (z : Nat) (x : ZoneStatus) : (s.setZs z x).ptr = s.ptr := rfl
@[simp] theorem setZs_holder (z : Nat) (x : ZoneStatus) : (s.setZs z x).holder = s.holder := rfl
@[simp] theorem setZs_held (z : Nat) (x : ZoneStatus) : (s.setZs z x).held = s.held := rfl
@[simp] theorem setZs_req (z : Nat) (x : ZoneStatus) : (s.setZs z x).req = s.req := rfl
@[simp] theorem setZs_notices (z : Nat) (x : ZoneStatus) : (s.setZs z x).notices = s.notices := rfl
@[simp] theorem setZs_mask (z : Nat) (x : ZoneStatus) : (s.setZs z x).mask = s.mask := rfl
@[simp] theorem setZs_counters (z : Nat) (x : ZoneStatus) : (s.setZs z x).counters = s.counters := rfl
@[simp] theorem setZs_free (z : Nat) (x : ZoneStatus) : (s.setZs z x).free = s.free := rfl

/-! ### putBoat -/

@[simp] theorem putBoat_now (b : Nat) (x : Option Boat) : (s.putBoat b x).now = s.now := by unfold State.putBoat; split <;> rfl
@[simp] theorem putBoat_pending (b : Nat) (x : Option Boat) : (s.putBoat b x).pending = s.pending := by unfold State.putBoat; split <;> rfl
@[simp] theorem putBoat_addr (b : Nat) (x : Option Boat) : (s.putBoat b x).addr = s.addr := by unfold State.putBoat; split <;> rfl
@[simp] theorem putBoat_rate (b : Nat) (x : Option Boat) : (s.putBoat b x).rate = s.rate := by unfold State.putBoat; split <;> rfl
@[simp] theorem putBoat_up (b : Nat) (x : Option Boat) : (s.putBoat b x).up = s.up := by unfold State.putBoat; split <;> rfl
@[simp] theorem putBoat_dn (b : Nat) (x : Option Boat) : (s.putBoat b x).dn = s.dn := by unfold State.putBoat; split <;> rfl
@[simp] theorem putBoat_resendDue (b : Nat) (x : Option Boat) : (s.putBoat b x).resendDue = s.resendDue := by unfold State.putBoat; split <;> rfl
@[simp] theorem putBoat_tab (b : Nat) (x : Option Boat) : (s.putBoat b x).tab = s.tab := by unfold State.putBoat; split <;> rfl
@[simp] theorem putBoat_zs (b : Nat) (x : Option Boat) : (s.putBoat b x).zs = s.zs := by unfold State.putBoat; split <;> rfl
@[simp] theorem putBoat_rel (b : Nat) (x : Option Boat) : (s.putBoat b x).rel = s.rel := by unfold State.putBoat; split <;> rfl
@[simp] theorem putBoat_queue (b : Nat) (x : Option Boat) : (s.putBoat b x).queue = s.queue := by unfold State.putBoat; split <;> rfl
@[simp] theorem putBoat_reqSeq (b : Nat) (x : Option Boat) : (s.putBoat b x).reqSeq = s.reqSeq := by unfold State.putBoat; split <;> rfl
@[simp] theorem putBoat_berths (b : Nat) (x : Option Boat) : (s.putBoat b x).berths = s.berths := by unfold State.putBoat; split <;> rfl
@[simp] theorem putBoat_seqs (b : Nat) (x : Option Boat) : (s.putBoat b x).seqs = s.seqs := by unfold State.putBoat; split <;> rfl
@[simp] theorem putBoat_runs (b : Nat) (x : Option Boat) : (s.putBoat b x).runs = s.runs := by unfold State.putBoat; split <;> rfl
@[simp] theorem putBoat_nodes (b : Nat) (x : Option Boat) : (s.putBoat b x).nodes = s.nodes := by unfold State.putBoat; split <;> rfl
@[simp] theorem putBoat_inputs (b : Nat) (x : Option Boat) : (s.putBoat b x).inputs = s.inputs := by unfold State.putBoat; split <;> rfl
@[simp] theorem putBoat_acts (b : Nat) (x : Option Boat) : (s.putBoat b x).acts = s.acts := by unfold State.putBoat; split <;> rfl
@[simp] theorem putBoat_cmds (b : Nat) (x : Option Boat) : (s.putBoat b x).cmds = s.cmds := by unfold State.putBoat; split <;> rfl
@[simp] theorem putBoat_tag (b : Nat) (x : Option Boat) : (s.putBoat b x).tag = s.tag := by unfold State.putBoat; split <;> rfl
@[simp] theorem putBoat_mc (b : Nat) (x : Option Boat) : (s.putBoat b x).mc = s.mc := by unfold State.putBoat; split <;> rfl
@[simp] theorem putBoat_pulses (b : Nat) (x : Option Boat) : (s.putBoat b x).pulses = s.pulses := by unfold State.putBoat; split <;> rfl
@[simp] theorem putBoat_lines (b : Nat) (x : Option Boat) : (s.putBoat b x).lines = s.lines := by unfold State.putBoat; split <;> rfl
@[simp] theorem putBoat_ptr (b : Nat) (x : Option Boat) : (s.putBoat b x).ptr = s.ptr := by unfold State.putBoat; split <;> rfl
@[simp] theorem putBoat_holder (b : Nat) (x : Option Boat) : (s.putBoat b x).holder = s.holder := by unfold State.putBoat; split <;> rfl
@[simp] theorem putBoat_held (b : Nat) (x : Option Boat) : (s.putBoat b x).held = s.held := by unfold State.putBoat; split <;> rfl
@[simp] theorem putBoat_req (b : Nat) (x : Option Boat) : (s.putBoat b x).req = s.req := by unfold State.putBoat; split <;> rfl
@[simp] theorem putBoat_notices (b : Nat) (x : Option Boat) : (s.putBoat b x).notices = s.notices := by unfold State.putBoat; split <;> rfl
@[simp] theorem putBoat_mask (b : Nat) (x : Option Boat) : (s.putBoat b x).mask = s.mask := by unfold State.putBoat; split <;> rfl
@[simp] theorem putBoat_counters (b : Nat) (x : Option Boat) : (s.putBoat b x).counters = s.counters := by unfold State.putBoat; split <;> rfl
@[simp] theorem putBoat_free (b : Nat) (x : Option Boat) : (s.putBoat b x).free = s.free := by unfold State.putBoat; split <;> rfl
@[simp] theorem putBoat_ev (b : Nat) (x : Option Boat) : (s.putBoat b x).ev = s.ev := by unfold State.putBoat; split <;> rfl

/-! ### putRel -/

@[simp] theorem putRel_now (b : Nat) (x : Option Release) : (s.putRel b x).now = s.now := by unfold State.putRel; split <;> rfl
@[simp] theorem putRel_pending (b : Nat) (x : Option Release) : (s.putRel b x).pending = s.pending := by unfold State.putRel; split <;> rfl
@[simp] theorem putRel_addr (b : Nat) (x : Option Release) : (s.putRel b x).addr = s.addr := by unfold State.putRel; split <;> rfl
@[simp] theorem putRel_rate (b : Nat) (x : Option Release) : (s.putRel b x).rate = s.rate := by unfold State.putRel; split <;> rfl
@[simp] theorem putRel_up (b : Nat) (x : Option Release) : (s.putRel b x).up = s.up := by unfold State.putRel; split <;> rfl
@[simp] theorem putRel_dn (b : Nat) (x : Option Release) : (s.putRel b x).dn = s.dn := by unfold State.putRel; split <;> rfl
@[simp] theorem putRel_resendDue (b : Nat) (x : Option Release) : (s.putRel b x).resendDue = s.resendDue := by unfold State.putRel; split <;> rfl
@[simp] theorem putRel_tab (b : Nat) (x : Option Release) : (s.putRel b x).tab = s.tab := by unfold State.putRel; split <;> rfl
@[simp] theorem putRel_zs (b : Nat) (x : Option Release) : (s.putRel b x).zs = s.zs := by unfold State.putRel; split <;> rfl
@[simp] theorem putRel_boats (b : Nat) (x : Option Release) : (s.putRel b x).boats = s.boats := by unfold State.putRel; split <;> rfl
@[simp] theorem putRel_queue (b : Nat) (x : Option Release) : (s.putRel b x).queue = s.queue := by unfold State.putRel; split <;> rfl
@[simp] theorem putRel_reqSeq (b : Nat) (x : Option Release) : (s.putRel b x).reqSeq = s.reqSeq := by unfold State.putRel; split <;> rfl
@[simp] theorem putRel_berths (b : Nat) (x : Option Release) : (s.putRel b x).berths = s.berths := by unfold State.putRel; split <;> rfl
@[simp] theorem putRel_seqs (b : Nat) (x : Option Release) : (s.putRel b x).seqs = s.seqs := by unfold State.putRel; split <;> rfl
@[simp] theorem putRel_runs (b : Nat) (x : Option Release) : (s.putRel b x).runs = s.runs := by unfold State.putRel; split <;> rfl
@[simp] theorem putRel_nodes (b : Nat) (x : Option Release) : (s.putRel b x).nodes = s.nodes := by unfold State.putRel; split <;> rfl
@[simp] theorem putRel_inputs (b : Nat) (x : Option Release) : (s.putRel b x).inputs = s.inputs := by unfold State.putRel; split <;> rfl
@[simp] theorem putRel_acts (b : Nat) (x : Option Release) : (s.putRel b x).acts = s.acts := by unfold State.putRel; split <;> rfl
@[simp] theorem putRel_cmds (b : Nat) (x : Option Release) : (s.putRel b x).cmds = s.cmds := by unfold State.putRel; split <;> rfl
@[simp] theorem putRel_tag (b : Nat) (x : Option Release) : (s.putRel b x).tag = s.tag := by unfold State.putRel; split <;> rfl
@[simp] theorem putRel_mc (b : Nat) (x : Option Release) : (s.putRel b x).mc = s.mc := by unfold State.putRel; split <;> rfl
@[simp] theorem putRel_pulses (b : Nat) (x : Option Release) : (s.putRel b x).pulses = s.pulses := by unfold State.putRel; split <;> rfl
@[simp] theorem putRel_lines (b : Nat) (x : Option Release) : (s.putRel b x).lines = s.lines := by unfold State.putRel; split <;> rfl
@[simp] theorem putRel_ptr (b : Nat) (x : Option Release) : (s.putRel b x).ptr = s.ptr := by unfold State.putRel; split <;> rfl
@[simp] theorem putRel_holder (b : Nat) (x : Option Release) : (s.putRel b x).holder = s.holder := by unfold State.putRel; split <;> rfl
@[simp] theorem putRel_held (b : Nat) (x : Option Release) : (s.putRel b x).held = s.held := by unfold State.putRel; split <;> rfl
@[simp] theorem putRel_req (b : Nat) (x : Option Release) : (s.putRel b x).req = s.req := by unfold State.putRel; split <;> rfl
@[simp] theorem putRel_notices (b : Nat) (x : Option Release) : (s.putRel b x).notices = s.notices := by unfold State.putRel; split <;> rfl
@[simp] theorem putRel_mask (b : Nat) (x : Option Release) : (s.putRel b x).mask = s.mask := by unfold State.putRel; split <;> rfl
@[simp] theorem putRel_counters (b : Nat) (x : Option Release) : (s.putRel b x).counters = s.counters := by unfold State.putRel; split <;> rfl
@[simp] theorem putRel_free (b : Nat) (x : Option Release) : (s.putRel b x).free = s.free := by unfold State.putRel; split <;> rfl
@[simp] theorem putRel_ev (b : Nat) (x : Option Release) : (s.putRel b x).ev = s.ev := by unfold State.putRel; split <;> rfl

/-! ### modBoat -/

@[simp] theorem modBoat_now (b : Nat) (f : Boat → Boat) : (s.modBoat b f).now = s.now := by unfold State.modBoat; split <;> simp
@[simp] theorem modBoat_pending (b : Nat) (f : Boat → Boat) : (s.modBoat b f).pending = s.pending := by unfold State.modBoat; split <;> simp
@[simp] theorem modBoat_addr (b : Nat) (f : Boat → Boat) : (s.modBoat b f).addr = s.addr := by unfold State.modBoat; split <;> simp
@[simp] theorem modBoat_rate (b : Nat) (f : Boat → Boat) : (s.modBoat b f).rate = s.rate := by unfold State.modBoat; split <;> simp
@[simp] theorem modBoat_up (b : Nat) (f : Boat → Boat) : (s.modBoat b f).up = s.up := by unfold State.modBoat; split <;> simp
@[simp] theorem modBoat_dn (b : Nat) (f : Boat → Boat) : (s.modBoat b f).dn = s.dn := by unfold State.modBoat; split <;> simp
@[simp] theorem modBoat_resendDue (b : Nat) (f : Boat → Boat) : (s.modBoat b f).resendDue = s.resendDue := by unfold State.modBoat; split <;> simp
@[simp] theorem modBoat_tab (b : Nat) (f : Boat → Boat) : (s.modBoat b f).tab = s.tab := by unfold State.modBoat; split <;> simp
@[simp] theorem modBoat_zs (b : Nat) (f : Boat → Boat) : (s.modBoat b f).zs = s.zs := by unfold State.modBoat; split <;> simp
@[simp] theorem modBoat_rel (b : Nat) (f : Boat → Boat) : (s.modBoat b f).rel = s.rel := by unfold State.modBoat; split <;> simp
@[simp] theorem modBoat_queue (b : Nat) (f : Boat → Boat) : (s.modBoat b f).queue = s.queue := by unfold State.modBoat; split <;> simp
@[simp] theorem modBoat_reqSeq (b : Nat) (f : Boat → Boat) : (s.modBoat b f).reqSeq = s.reqSeq := by unfold State.modBoat; split <;> simp
@[simp] theorem modBoat_berths (b : Nat) (f : Boat → Boat) : (s.modBoat b f).berths = s.berths := by unfold State.modBoat; split <;> simp
@[simp] theorem modBoat_seqs (b : Nat) (f : Boat → Boat) : (s.modBoat b f).seqs = s.seqs := by unfold State.modBoat; split <;> simp
@[simp] theorem modBoat_runs (b : Nat) (f : Boat → Boat) : (s.modBoat b f).runs = s.runs := by unfold State.modBoat; split <;> simp
@[simp] theorem modBoat_nodes (b : Nat) (f : Boat → Boat) : (s.modBoat b f).nodes = s.nodes := by unfold State.modBoat; split <;> simp
@[simp] theorem modBoat_inputs (b : Nat) (f : Boat → Boat) : (s.modBoat b f).inputs = s.inputs := by unfold State.modBoat; split <;> simp
@[simp] theorem modBoat_acts (b : Nat) (f : Boat → Boat) : (s.modBoat b f).acts = s.acts := by unfold State.modBoat; split <;> simp
@[simp] theorem modBoat_cmds (b : Nat) (f : Boat → Boat) : (s.modBoat b f).cmds = s.cmds := by unfold State.modBoat; split <;> simp
@[simp] theorem modBoat_tag (b : Nat) (f : Boat → Boat) : (s.modBoat b f).tag = s.tag := by unfold State.modBoat; split <;> simp
@[simp] theorem modBoat_mc (b : Nat) (f : Boat → Boat) : (s.modBoat b f).mc = s.mc := by unfold State.modBoat; split <;> simp
@[simp] theorem modBoat_pulses (b : Nat) (f : Boat → Boat) : (s.modBoat b f).pulses = s.pulses := by unfold State.modBoat; split <;> simp
@[simp] theorem modBoat_lines (b : Nat) (f : Boat → Boat) : (s.modBoat b f).lines = s.lines := by unfold State.modBoat; split <;> simp
@[simp] theorem modBoat_ptr (b : Nat) (f : Boat → Boat) : (s.modBoat b f).ptr = s.ptr := by unfold State.modBoat; split <;> simp
@[simp] theorem modBoat_holder (b : Nat) (f : Boat → Boat) : (s.modBoat b f).holder = s.holder := by unfold State.modBoat; split <;> simp
@[simp] theorem modBoat_held (b : Nat) (f : Boat → Boat) : (s.modBoat b f).held = s.held := by unfold State.modBoat; split <;> simp
@[simp] theorem modBoat_req (b : Nat) (f : Boat → Boat) : (s.modBoat b f).req = s.req := by unfold State.modBoat; split <;> simp
@[simp] theorem modBoat_notices (b : Nat) (f : Boat → Boat) : (s.modBoat b f).notices = s.notices := by unfold State.modBoat; split <;> simp
@[simp] theorem modBoat_mask (b : Nat) (f : Boat → Boat) : (s.modBoat b f).mask = s.mask := by unfold State.modBoat; split <;> simp
@[simp] theorem modBoat_counters (b : Nat) (f : Boat → Boat) : (s.modBoat b f).counters = s.counters := by unfold State.modBoat; split <;> simp
@[simp] theorem modBoat_free (b : Nat) (f : Boat → Boat) : (s.modBoat b f).free = s.free := by unfold State.modBoat; split <;> simp
@[simp] theorem modBoat_ev (b : Nat) (f : Boat → Boat) : (s.modBoat b f).ev = s.ev := by unfold State.modBoat; split <;> simp

/-! ### What an update gives -/

@[simp] theorem atTime_now (t : Nat) : (s.at_ t).now = max s.now t := rfl
@[simp] theorem modMc_mc (f : ModeCtl → ModeCtl) : (s.modMc f).mc = f s.mc := rfl
@[simp] theorem modEv_ev (f : Ev → Ev) : (s.modEv f).ev = f s.ev := rfl
@[simp] theorem modTab_tab (f : Tables → Tables) : (s.modTab f).tab = f s.tab := rfl
@[simp] theorem useFree_free : s.useFree.free = s.free + 1 := rfl
@[simp] theorem advance_ptr : s.advance.ptr = (s.ptr.1, (s.ptr.2 + 1) % s.ptr.1.entries) := rfl
@[simp] theorem removeEntry_cmds (a : Nat) : (s.removeEntry a).cmds = s.cmds.filter fun e => e.act != a := rfl
@[simp] theorem clearEv_ev : s.clearEv.ev = { Ev.none with holdNotices := s.ev.holdNotices } := rfl
theorem mode_eq : s.mode = s.mc.mode := rfl

end Sys2Proof.Machine
end

