-- ==== Sys2Proof/Laws/Access.lean ====
section
/-! SUPPORT. Reading an entry of a table or status record after writing one: the written value at its place, the old
value everywhere else. -/

namespace Sys2Proof.Machine

theorem getD_setIfInBounds {α : Type} {n : Nat} (v : Vector α n) (i j : Nat) (x d : α) :
    (v.setIfInBounds i x)[j]?.getD d = if j = i ∧ i < n then x else v[j]?.getD d := by
  rw [Vector.getElem?_setIfInBounds]
  by_cases h : i = j
  · subst h
    by_cases hn : i < n
    · simp [hn]
    · simp [hn]
  · simp [h, Ne.symm h]

theorem join_setIfInBounds {α : Type} {n : Nat} (v : Vector (Option α) n) (i j : Nat) (x : Option α) :
    (v.setIfInBounds i x)[j]?.join = if j = i ∧ i < n then x else v[j]?.join := by
  rw [Vector.getElem?_setIfInBounds]
  by_cases h : i = j
  · subst h
    by_cases hn : i < n
    · simp [hn]
    · simp [hn]
  · simp [h, Ne.symm h]

variable (s : State)

theorem zst_putZs (z w : Nat) (x : ZoneStatus) :
    (s.putZs z x).zst w = if w = z ∧ z < 64 then x else s.zst w := getD_setIfInBounds _ _ _ _ _

theorem zst_setZs (z w : Nat) (x : ZoneStatus) :
    (s.setZs z x).zst w = if w = z ∧ z < 64 then x else s.zst w := getD_setIfInBounds _ _ _ _ _

theorem berthS_putBerth (b c : Nat) (x : BerthStatus) :
    (s.putBerth b x).berthS c = if c = b ∧ b < 6 then x else s.berthS c := getD_setIfInBounds _ _ _ _ _

theorem seqS_putSeq (k j : Nat) (x : Seq) :
    (s.putSeq k x).seqS j = if j = k ∧ k < 2 then x else s.seqS j := getD_setIfInBounds _ _ _ _ _

theorem runS_putRun (r j : Nat) (x : RunStatus) :
    (s.putRun r x).runS j = if j = r ∧ r < 2 then x else s.runS j := getD_setIfInBounds _ _ _ _ _

theorem nodeS_putNode (n m : Nat) (x : NodeStatus) :
    (s.putNode n x).nodeS m = if m = n ∧ n < 48 then x else s.nodeS m := getD_setIfInBounds _ _ _ _ _

theorem actS_putAct (a c : Nat) (x : ActStatus) :
    (s.putAct a x).actS c = if c = a ∧ a < 64 then x else s.actS c := getD_setIfInBounds _ _ _ _ _

theorem inputS_putInputs (n m : Nat) (x : BitVec 4) :
    (s.putInputs n x).inputS m = if m = n ∧ n < 48 then x else s.inputS m := getD_setIfInBounds _ _ _ _ _

theorem boatR_putBoat (b c : Nat) (x : Option Boat) :
    (s.putBoat b x).boatR c = if c = b ∧ 1 ≤ b ∧ b ≤ 24 then x else s.boatR c := by
  unfold State.putBoat State.boatR
  by_cases hb : b = 0
  · subst hb; simp
  · by_cases hc : c = 0
    · subst hc; simp [Ne.symm hb]
    · simp only [hb, hc, if_false, join_setIfInBounds]
      by_cases h : c = b
      · subst h
        by_cases hn : c - 1 < 24
        · simp [hn, show 1 ≤ c ∧ c ≤ 24 by omega]
        · simp [hn, show ¬ (1 ≤ c ∧ c ≤ 24) by omega]
      · simp [h, show ¬ (c - 1 = b - 1) by omega]

theorem release_putRel (b c : Nat) (x : Option Release) :
    (s.putRel b x).release c = if c = b ∧ 1 ≤ b ∧ b ≤ 24 then x else s.release c := by
  unfold State.putRel State.release
  by_cases hb : b = 0
  · subst hb; simp
  · by_cases hc : c = 0
    · subst hc; simp [Ne.symm hb]
    · simp only [hb, hc, if_false, join_setIfInBounds]
      by_cases h : c = b
      · subst h
        by_cases hn : c - 1 < 24
        · simp [hn, show 1 ≤ c ∧ c ≤ 24 by omega]
        · simp [hn, show ¬ (1 ≤ c ∧ c ≤ 24) by omega]
      · simp [h, show ¬ (c - 1 = b - 1) by omega]

/-- A boat in the register has a number 1 to 24. -/
theorem boatR_range {b : Nat} {x : Boat} (h : s.boatR b = some x) : 1 ≤ b ∧ b ≤ 24 := by
  unfold State.boatR at h
  split at h
  · cases h
  · by_cases hn : b - 1 < 24
    · omega
    · simp [Vector.getElem?_eq_none (by omega : 24 ≤ b - 1)] at h

theorem boatR_modBoat (b c : Nat) (f : Boat → Boat) :
    (s.modBoat b f).boatR c = if c = b then (s.boatR b).map f else s.boatR c := by
  unfold State.modBoat
  split
  · next h => by_cases hc : c = b <;> simp [hc, h]
  · next x h =>
    have := boatR_range s h
    rw [boatR_putBoat]
    by_cases hc : c = b <;> simp [hc, h, this]

theorem counter_bump (c d : Counter) :
    (s.bump c).counter d = if d = c then min (s.counter c + 1) 65535 else s.counter d := by
  unfold State.bump
  show ((s.counters.setIfInBounds c.place _)[d.place]?).getD 0 = _
  rw [getD_setIfInBounds]
  have hp : c.place < 21 := by cases c <;> decide
  by_cases h : d = c
  · subst h; simp [hp]
  · have hne : d.place ≠ c.place := by
      intro hh; apply h; revert hh; cases d <;> cases c <;> first | (intro; rfl) | (intro hh; exact absurd hh (by decide))
    simp [h, hne, State.counter]

end Sys2Proof.Machine
end

