-- ==== Sys2Proof/Laws/Quiet.lean ====
section
/-! SUPPORT. What the shared operations can change, said once. `Quiet P` lists the small updates out of which notices,
commands to actuators, holds, pulses, requests, returns, aborts, grants and the end of an event are made; a property that
all of them keep is kept by every one of those operations. A view `v` of the state that they do not touch is the property
`fun s => v s = a`. -/

namespace Sys2Proof.Machine

/-- A change of a zone's status that keeps its occupant, and reserves the zone only if it has neither occupant nor fault. -/
def ZoneStatus.Loose (old new : ZoneStatus) : Prop :=
  new.occupant = old.occupant ∧
    (new.reserved = old.reserved ∨ new.reserved = none ∨ new.occupant = none ∧ new.fault = none)

/-- Such a change that keeps the zone's fault as well, and starts no watch. -/
def ZoneStatus.Soft (old new : ZoneStatus) : Prop :=
  new.fault = old.fault ∧ (new.watch = old.watch ∨ new.watch = none) ∧ old.Loose new

/-- A change of a berth's status that keeps its readings, and FAULT with its reason and lamp. -/
def BerthStatus.Soft (old new : BerthStatus) : Prop :=
  new.presence = old.presence ∧ new.latch = old.latch ∧ new.weight = old.weight ∧
    (old.state = .fault → new.state = .fault ∧ new.reason = old.reason ∧ new.lamp = old.lamp)

/-- A value other than gate OPEN and fin RETRACT. -/
def ActValue.resting : ActValue → Bool
  | .gateOpen => false
  | .finRetract => false
  | _ => true

/-- A change of a boat record that touches nothing but its state and its path. -/
def Boat.Soft (old new : Boat) : Prop := { new with state := old.state, path := old.path } = old

/-- A change of a node's status that touches nothing but its LIMIT flag and its join timer. -/
def NodeStatus.Soft (old new : NodeStatus) : Prop :=
  { new with limitPending := old.limitPending, join := old.join } = old

/-- The property is kept by the small updates that touch no boat, no release and no queue entry. -/
structure Base (P : State → Prop) : Prop where
  startUp : ∀ {s}, P s → P s.startUp
  placeHeld : ∀ {s}, P s → P s.placeHeld
  buildNotice : ∀ {s}, P s → P s.buildNotice
  startDn : ∀ {s}, P s → P s.startDn
  placeLimit : ∀ {s} n e, s.dn.room = true → P s → P (s.placeLimit n e)
  placeCommands : ∀ {s} n, s.dn.room = true → P s → P (s.placeCommands n)
  queueNotice : ∀ {s : State} n, s.notices.length < 16 → P s → P { s with notices := s.notices ++ [n] }
  dropNotice : ∀ {s}, P s → P (s.bump .noticesDropped)
  handRaw : ∀ {s} a v, v.resting = true → P s → P (s.handRaw a v)
  modEv : ∀ {s} f, P s → P (s.modEv f)
  putZs : ∀ {s} z q, (s.zst z).Soft q → P s → P (s.putZs z q)
  putBerth : ∀ {s} b x, (s.berthS b).Soft x → P s → P (s.putBerth b x)
  putNode : ∀ {s} n q, (s.nodeS n).Soft q → P s → P (s.putNode n q)

/-- The property is kept by the small updates of boats, releases and queue entries as well. -/
structure Still (P : State → Prop) : Prop extends Base P where
  modBoat : ∀ {s} b f, (∀ x : Boat, x.Soft (f x)) → P s → P (s.modBoat b f)
  putRel : ∀ {s} b x, P s → P (s.putRel b x)
  filterQueue : ∀ {s : State} p, P s → P { s with queue := s.queue.filter p }

/-- The property is kept by the updates of the sequencers as well. -/
structure Quiet (P : State → Prop) : Prop extends Still P where
  handAny : ∀ {s} a v, s.mode.fullBrake = false ∨ (s.actS a).commanded = some v → P s → P (s.handRaw a v)
  putSeq : ∀ {s} k q, (s.seqS k).state = .idle ∨ (s.seqS k).state = .charging →
    q.state = .idle ∨ (s.seqS k).state ≠ .idle ∨ s.mode = .run → P s → P (s.putSeq k q)

theorem Lamp.value_resting (x : Lamp) : x.value.resting = true := by cases x <;> rfl
/-- A switch value is no OPEN and no RETRACT (R51). -/
theorem throwValue_resting (z : ZoneEntry) (p : List Nat) : (z.throwValue p).resting = true := by
  unfold ZoneEntry.throwValue
  split <;> rfl
theorem LockV.value_resting (x : LockV) : x.value.resting = true := by cases x <;> rfl
/-- Every safe value is at rest (R125). -/
theorem ActKind.safe_resting (k : ActKind) : k.safe.resting = true := by cases k <;> rfl

/-- A value that an actuator holds is handed to it again: every actuator keeps its value (R128). -/
theorem handRaw_commanded {s : State} {a b : Nat} {v w : ActValue} (ha : (s.actS a).commanded = some v)
    (hb : (s.actS b).commanded = some w) : ((s.handRaw a v).actS b).commanded = some w := by
  have hput : ((s.putAct a ⟨some v, false⟩).actS b).commanded = some w := by
    rw [actS_putAct]
    split
    · next hc => rw [hc.1, ha] at hb; exact hb
    · exact hb
  unfold State.handRaw
  split
  · exact hb
  · dsimp only
    split <;> exact hput

variable {P : State → Prop}

/-- A fold keeps what each of its steps keeps. -/
theorem foldl_keeps {α : Type} {f : State → α → State} (hf : ∀ s a, P s → P (f s a)) (l : List α) {s : State}
    (hs : P s) : P (l.foldl f s) := by
  induction l generalizing s with
  | nil => exact hs
  | cons a l ih => exact ih (hf s a hs)

/-- A fold keeps what each of its steps keeps for the elements of the list. -/
theorem foldl_keeps_mem {α : Type} {f : State → α → State} (l : List α) (hf : ∀ s, ∀ a ∈ l, P s → P (f s a)) {s : State}
    (hs : P s) : P (l.foldl f s) := by
  induction l generalizing s with
  | nil => exact hs
  | cons a l ih =>
    exact ih (fun s b hb => hf s b (List.mem_cons_of_mem _ hb)) (hf s a List.mem_cons_self hs)

namespace Base

variable (h : Base P) {s : State}
include h

/-! ### Ports and notices -/

theorem fillUp (hs : P s) : P s.fillUp := h.buildNotice (h.buildNotice (h.placeHeld hs))

theorem pumpUp (hs : P s) : P s.pumpUp := h.fillUp (h.startUp (h.fillUp (h.startUp hs)))

theorem notice (n : Notice) (hs : P s) : P (s.notice n) := by
  unfold State.notice
  split
  · exact hs
  · split
    · next hl => exact h.pumpUp (h.queueNotice n hl hs)
    · exact h.dropNotice hs

theorem placeOne {t : State} (ht : s.placeOne = some t) (hs : P s) : P t := by
  unfold State.placeOne at ht
  split at ht
  · cases ht
  · next hr =>
    have hr : s.dn.room = true := by simpa using hr
    split at ht
    · cases ht; exact h.placeLimit _ _ hr hs
    · split at ht
      · cases ht; exact h.placeCommands _ hr hs
      · cases ht

theorem placeFrames (n : Nat) (hs : P s) : P (State.placeFrames n s) := by
  induction n generalizing s with
  | zero => exact hs
  | succ n ih =>
    unfold State.placeFrames
    split
    · exact hs
    · next t ht => exact ih (h.placeOne ht hs)

theorem pumpDn (hs : P s) : P s.pumpDn :=
  h.placeFrames _ (h.startDn (h.placeFrames _ (h.startDn hs)))

theorem handRest (a : Nat) (v : ActValue) (hv : v.resting = true) (hs : P s) : P (s.hand a v) := h.pumpDn (h.handRaw a v hv hs)

theorem handAllRest (l : List (Nat × ActValue)) (hl : ∀ p ∈ l, p.2.resting = true) (hs : P s) : P (s.handAll l) :=
  h.pumpDn (foldl_keeps_mem (P := P) l (fun _ p hp ht => h.handRaw p.1 p.2 (hl p hp) ht) hs)

/-! ### Entries -/

theorem setZs (z : Nat) (q : ZoneStatus) (hq : (s.zst z).Soft q) (hs : P s) : P (s.setZs z q) := by
  unfold State.setZs
  exact h.modEv _ (h.putZs z q hq hs)

theorem modZs (z : Nat) (f : ZoneStatus → ZoneStatus) (hf : ∀ q : ZoneStatus, q.Soft (f q)) (hs : P s) : P (s.modZs z f) :=
  h.setZs z _ (hf _) hs

theorem modBerth (b : Nat) (f : BerthStatus → BerthStatus) (hf : (s.berthS b).Soft (f (s.berthS b))) (hs : P s) :
    P (s.modBerth b f) := h.putBerth b _ hf hs

theorem touch (b : Nat) (hs : P s) : P (s.touch b) := h.modEv _ hs

theorem setBerth (b : Nat) (f : BerthStatus → BerthStatus) (hf : (s.berthS b).Soft (f (s.berthS b))) (hs : P s) :
    P (s.setBerth b f) := h.touch b (h.modBerth b f hf hs)

theorem modNode (n : Nat) (f : NodeStatus → NodeStatus) (hf : ∀ q : NodeStatus, q.Soft (f q)) (hs : P s) :
    P (s.modNode n f) := h.putNode n _ (hf _) hs

theorem handLimit (n : Nat) (hs : P s) : P (s.handLimit n) := h.pumpDn (h.modNode n _ (fun _ => rfl) hs)

theorem scanWanted (hs : P s) : P s.scanWanted := h.modEv _ hs

theorem clearEv (hs : P s) : P s.clearEv := by
  unfold State.clearEv
  exact h.modEv (fun e => { Ev.none with holdNotices := e.holdNotices }) hs

theorem stopWatch (z : Nat) (hs : P s) : P (s.stopWatch z) := h.modZs z _ (fun _ => ⟨rfl, .inr rfl, rfl, .inl rfl⟩) hs

theorem evalNodeHold (z : Nat) (hs : P s) : P (s.evalNodeHold z) := by
  unfold State.evalNodeHold
  split
  · exact hs
  · split
    · exact hs
    · exact h.modZs z _ (fun _ => ⟨rfl, .inl rfl, rfl, .inl rfl⟩) hs

theorem evalNodeHolds (n : Nat) (hs : P s) : P (s.evalNodeHolds n) := by
  unfold State.evalNodeHolds
  exact foldl_keeps (P := P) (fun _ p ht => h.evalNodeHold p.1 ht) _ hs

theorem evalUserHolds (hs : P s) : P s.evalUserHolds := by
  refine foldl_keeps (P := P) (fun t p ht => ?_) _ hs
  dsimp only
  split
  · exact ht
  · exact h.setZs _ _ ⟨rfl, .inl rfl, rfl, .inl rfl⟩ ht

/-! ### Path reservation -/

theorem unreserve (z : Nat) (hs : P s) : P (s.unreserve z) := h.modZs z _ (fun _ => ⟨rfl, .inl rfl, rfl, .inr (.inl rfl)⟩) hs

/-! ### Berths -/

theorem berthDerive (b : Nat) (hb : (s.berthS b).state ≠ .fault) (hs : P s) : P (s.berthDerive b) := by
  unfold State.berthDerive
  split
  · exact hs
  · refine h.setBerth b _ ?_ hs
    split
    · exact ⟨rfl, rfl, rfl, fun hf => absurd hf hb⟩
    · split <;> exact ⟨rfl, rfl, rfl, fun hf => absurd hf hb⟩

theorem trySecure (b : Nat) (hs : P s) : P (s.trySecure b) := by
  unfold State.trySecure
  split
  · exact hs
  · dsimp only
    split
    · next hc => exact h.setBerth b _ ⟨rfl, rfl, rfl, fun hf => by rw [hc.1] at hf; cases hf⟩ hs
    · exact hs

omit h in
/-- A berth that leaves FAULT alone where the rule says so. -/
theorem softIf (q : BerthStatus) (c : Prop) [Decidable c] (x : BerthStatus) (hx : ¬ c → q.Soft x) :
    q.Soft (if c then q else x) := by
  split
  · exact ⟨rfl, rfl, rfl, fun hf => ⟨hf, rfl, rfl⟩⟩
  · next hc => exact hx hc

theorem berthLeft (b : Nat) (hs : P s) : P (s.berthLeft b) :=
  h.setBerth b _ (softIf _ _ _ fun hc => ⟨rfl, rfl, rfl, fun hf => absurd hf hc⟩) hs

theorem berthRetired (b : Nat) (hs : P s) : P (s.berthRetired b) :=
  h.setBerth b _ (softIf _ _ _ fun hc => ⟨rfl, rfl, rfl, fun hf => absurd (.inl hf) hc⟩) hs

theorem berthGranted (b : Nat) (hs : P s) : P (s.berthGranted b) := by
  refine h.setBerth b _ ?_ hs
  split
  · next hc => exact ⟨rfl, rfl, rfl, fun hf => by rw [hc] at hf; cases hf⟩
  · exact ⟨rfl, rfl, rfl, fun hf => ⟨hf, rfl, rfl⟩⟩

theorem berthWithdrawn (b : Nat) (hs : P s) : P (s.berthWithdrawn b) := by
  refine h.setBerth b _ ?_ hs
  split
  · next hc => exact ⟨rfl, rfl, rfl, fun hf => by rw [hc] at hf; cases hf⟩
  · exact ⟨rfl, rfl, rfl, fun hf => ⟨hf, rfl, rfl⟩⟩

theorem berthReturned (b : Nat) (hs : P s) : P (s.berthReturned b) := by
  unfold State.berthReturned
  split
  · exact hs
  · dsimp only
    split
    · exact h.touch b hs
    · next hc =>
      have hc : (s.berthS b).state = .released := by simpa using hc
      split
      · exact h.setBerth b _ ⟨rfl, rfl, rfl, fun hf => by rw [hc] at hf; cases hf⟩ hs
      · exact h.berthDerive b (by rw [hc]; decide) hs

omit h in
theorem toBerth (z : Nat) {f : State → Nat → State} (hf : ∀ {t} b, P t → P (f t b)) (hs : P s) : P (s.toBerth z f) := by
  unfold State.toBerth
  split
  · exact hs
  · exact hf _ hs

theorem handLamp (b : Nat) (e : BerthEntry) (hs : P s) : P (s.handLamp b e) := h.handRest _ _ (Lamp.value_resting _) (h.modBerth b _ ⟨rfl, rfl, rfl, fun hf => ⟨hf, rfl, rfl⟩⟩ hs)
theorem handLock (b : Nat) (e : BerthEntry) (hs : P s) : P (s.handLock b e) := h.handRest _ _ (LockV.value_resting _) (h.modBerth b _ ⟨rfl, rfl, rfl, fun hf => ⟨hf, rfl, rfl⟩⟩ hs)

theorem settleBerth (b : Nat) (hs : P s) : P (s.settleBerth b) := by
  unfold State.settleBerth
  split
  · exact hs
  · next e _ =>
    have h1 : P (if (s.actS e.lamp).commanded = some (s.berthS b).lamp.value then s else s.handLamp b e) := by
      split
      · exact hs
      · exact h.handLamp b e hs
    revert h1
    generalize (if (s.actS e.lamp).commanded = some (s.berthS b).lamp.value then s else s.handLamp b e) = t
    intro h1
    show P (if (t.actS e.lock).commanded = some (t.berthS b).lock.value then t else t.handLock b e)
    split
    · exact h1
    · exact h.handLock b e h1

theorem settleBerths (hs : P s) : P s.settleBerths := by
  refine foldl_keeps (P := P) (fun t b ht => ?_) _ hs
  split
  · exact h.settleBerth b ht
  · exact ht

theorem handBoth (b : Nat) (hs : P s) : P (s.handBoth b) := by
  unfold State.handBoth
  split
  · exact hs
  · exact h.handLock b _ (h.handLamp b _ hs)

theorem closeGates (hs : P s) : P s.closeGates := foldl_keeps (P := P) (fun _ a ht => h.handRest a _ rfl ht) _ hs

theorem handBooster (k : Nat) (v : ActValue) (hv : v.resting = true) (hs : P s) : P (s.handBooster k v) := by
  unfold State.handBooster
  split
  · exact hs
  · exact h.handRest _ _ hv hs

theorem boosterSafeByMode (k : Nat) (hs : P s) : P (s.boosterSafeByMode k) := by
  unfold State.boosterSafeByMode
  split
  · exact hs
  · split
    · exact hs
    · exact h.handRest _ _ rfl hs

theorem boostersSafeByMode (hs : P s) : P s.boostersSafeByMode := h.boosterSafeByMode 1 (h.boosterSafeByMode 0 hs)

theorem setLatch (z : Nat) (hs : P s) : P (s.setLatch z) := by
  unfold State.setLatch
  split
  · exact hs
  · exact h.modZs z _ (fun _ => ⟨rfl, .inl rfl, rfl, .inl rfl⟩) hs

end Base

/-! ### The trigger matrix, for a property that the start of a pulse keeps -/

namespace Base

variable (h : Base P) (hp : ∀ {s} u, P s → P (s.startPulse u)) {s : State}
include h hp

theorem arrive (u c : Nat) (a : Arrival) (src : Source) (hs : P s) : P (s.arrive u c a src) := by
  unfold State.arrive
  dsimp only
  split
  · exact hs
  · split
    · split
      · exact hs
      · exact hp u hs
    · split
      · split
        · exact hs
        · exact h.setLatch _ hs
      · split
        · split
          · exact h.notice _ (h.notice _ hs)
          · exact h.notice _ hs
        · exact hs

theorem deliver (c : Nat) (a : Arrival) (src : Source) (hs : P s) : P (s.deliver c a src) := by
  refine foldl_keeps (P := P) (fun t u ht => ?_) _ hs
  split
  · exact h.arrive hp u c a src ht
  · exact ht

theorem deliverPulse (c : Nat) (src : Source) (hs : P s) : P (s.deliverPulse c src) :=
  h.deliver hp c .pulse src (h.modEv _ hs)

theorem edges (s0 : State) (hs : P s) : P (State.edges s0 s) := by
  refine foldl_keeps (P := P) (fun t c ht => ?_) _ hs
  split
  · exact ht
  · exact h.deliver hp c _ _ ht

end Base

namespace Still

variable (h : Still P) {s : State}
include h

theorem setBoatState (b : Nat) (x : BoatState) (hs : P s) : P (s.setBoatState b x) := h.modBoat b _ (fun _ => rfl) hs

theorem withdraw (b : Nat) (hs : P s) : P (s.withdraw b) := by
  unfold State.withdraw
  split
  · exact h.setBoatState b _ (h.filterQueue _ hs)
  · exact hs

theorem returnReservations (b : Nat) (hs : P s) : P (s.returnReservations b) := by
  unfold State.returnReservations
  split
  · exact hs
  · split
    · exact hs
    · exact h.stopWatch _ (h.modBoat b _ (fun _ => rfl) (h.putRel b none (foldl_keeps (P := P) (fun _ z ht => h.unreserve z ht) _ hs)))

theorem withdrawAll (hs : P s) : P s.withdrawAll := by
  unfold State.withdrawAll
  exact foldl_keeps (P := P) (fun _ e ht => Base.toBerth e.origin (h.berthWithdrawn) (h.setBoatState e.boat _ ht)) _ (by
    have h1 := h.filterQueue (fun _ => false) hs
    rwa [List.filter_false] at h1)

theorem returnAll (hs : P s) : P s.returnAll := by
  refine foldl_keeps (P := P) (fun t i ht => ?_) _ hs
  split
  · exact ht
  · split
    · exact Base.toBerth _ (h.berthReturned) (h.setBoatState _ _ (h.returnReservations _ ht))
    · exact ht

end Still

namespace Quiet

variable (h : Quiet P) {s : State}
include h

theorem handFree (a : Nat) (v : ActValue) (hm : s.mode.fullBrake = false) (hs : P s) : P (s.hand a v) :=
  h.pumpDn (h.handAny a v (.inl hm) hs)

/-- Values that the actuators hold already are handed again. -/
theorem handAgain (l : List (Nat × ActValue)) (hl : ∀ p ∈ l, (s.actS p.1).commanded = some p.2) (hs : P s) : P (s.handAll l) := by
  refine h.pumpDn ?_
  induction l generalizing s with
  | nil => exact hs
  | cons p l ih =>
    have hp := hl p List.mem_cons_self
    exact ih (s := s.handRaw p.1 p.2) (fun q hq => handRaw_commanded hp (hl q (List.mem_cons_of_mem _ hq))) (h.handAny _ _ (.inr hp) hs)

/-! ### Launch sequencers -/

theorem modSeq (k : Nat) (f : Seq → Seq) (h0 : (s.seqS k).state = .idle ∨ (s.seqS k).state = .charging)
    (hf : (f (s.seqS k)).state = .idle ∨ (s.seqS k).state ≠ .idle ∨ s.mode = .run)
    (hs : P s) : P (s.modSeq k f) := h.putSeq k _ h0 hf hs

theorem launchAbort (k : Nat) (r : AbortReason) (hq : (s.seqS k).state = .charging) (hs : P s) : P (s.launchAbort k r) := by
  unfold State.launchAbort
  split
  · next e b _ _ =>
    dsimp only
    have h1 : P ((s.putSeq k .idle).hand e.booster .boosterSafe) := h.handRest _ _ rfl (h.putSeq k _ (.inr hq) (.inl rfl) hs)
    refine h.notice _ ?_
    split
    · exact Base.toBerth _ (h.berthReturned) (h.setBoatState b _ (h.returnReservations b h1))
    · exact h1
  · exact hs

theorem abortCharge (k : Nat) (r : AbortReason) (hs : P s) : P (s.abortCharge k r) := by
  unfold State.abortCharge
  split
  · next hq => exact h.launchAbort k r hq hs
  · exact hs

theorem abortInhibited (hs : P s) : P s.abortInhibited := by
  refine foldl_keeps (P := P) (fun t k ht => ?_) _ hs
  split
  · exact h.abortCharge k _ ht
  · exact ht

theorem inhibitPulse (c : Nat) (hs : P s) : P (s.inhibitPulse c) := by
  refine foldl_keeps (P := P) (fun t u ht => ?_) _ hs
  split
  · exact h.abortCharge _ _ ht
  · exact ht

theorem pulseChan (hp : ∀ {s} u, P s → P (s.startPulse u)) (c : Nat) (src : Source) (hs : P s) : P (s.pulseChan c src) :=
  h.inhibitPulse c (h.deliverPulse hp c src hs)

theorem pulse (hp : ∀ {s} u, P s → P (s.startPulse u)) (g : Gen) (hs : P s) : P (s.pulse g) := by
  refine foldl_keeps (P := P) (fun t c ht => ?_) _ hs
  split
  · exact h.pulseChan hp c _ ht
  · exact ht

theorem abortCharges (hs : P s) : P s.abortCharges := h.abortCharge 1 _ (h.abortCharge 0 _ hs)

theorem abortChargesOn (n : Nat) (hs : P s) : P (s.abortChargesOn n) :=
  foldl_keeps (P := P) (fun _ k ht => h.abortCharge k _ ht) _ hs

theorem launchDeparted (k b : Nat) (hs : P s) : P (s.launchDeparted k b) := by
  unfold State.launchDeparted
  split
  · next hc => exact h.notice _ (h.handBooster k _ rfl (h.modSeq k _ (.inr hc.1) (.inr (.inl (by rw [hc.1]; decide))) hs))
  · exact hs

end Quiet

/-! ### The mode through quiet updates -/

@[simp] theorem handRaw_mc (s : State) (a : Nat) (v : ActValue) : (s.handRaw a v).mc = s.mc := by
  unfold State.handRaw
  split
  · rfl
  · dsimp only
    split <;> rfl

@[simp] theorem placeHeld_mc (s : State) : s.placeHeld.mc = s.mc := by
  unfold State.placeHeld
  split
  · rfl
  · split <;> rfl

@[simp] theorem buildNotice_mc (s : State) : s.buildNotice.mc = s.mc := by
  unfold State.buildNotice
  split <;> rfl

/-- No quiet update touches mode control's record. -/
theorem quiet_mc (m : ModeCtl) : Quiet fun s => s.mc = m where
  startUp hs := hs
  placeHeld hs := by simpa using hs
  buildNotice hs := by simpa using hs
  startDn hs := hs
  placeLimit _ _ _ hs := hs
  placeCommands _ _ hs := hs
  queueNotice _ _ hs := hs
  dropNotice hs := hs
  handRaw _ _ _ hs := by simpa using hs
  handAny _ _ _ hs := by simpa using hs
  modEv _ hs := hs
  putZs _ _ _ hs := hs
  modBoat _ _ _ hs := by simpa using hs
  putRel _ _ hs := by simpa using hs
  filterQueue _ hs := hs
  putBerth _ _ _ hs := hs
  putSeq _ _ _ _ hs := hs
  putNode _ _ _ hs := hs

@[simp] theorem notice_mc (s : State) (n : Notice) : (s.notice n).mc = s.mc := (quiet_mc s.mc).notice n rfl

/-! ### The sequencers through still updates -/

@[simp] theorem handRaw_seqs (s : State) (a : Nat) (v : ActValue) : (s.handRaw a v).seqs = s.seqs := by
  unfold State.handRaw
  split
  · rfl
  · dsimp only
    split <;> rfl

@[simp] theorem handRaw_tab (s : State) (a : Nat) (v : ActValue) : (s.handRaw a v).tab = s.tab := by
  unfold State.handRaw
  split
  · rfl
  · dsimp only
    split <;> rfl

/-- Every update but those of the sequencers leaves the sequencers alone. -/
theorem still_seqs (v : Vector Seq 2) : Still fun s => s.seqs = v where
  startUp hs := hs
  placeHeld hs := by
    rename_i s
    have : s.placeHeld.seqs = s.seqs := by
      unfold State.placeHeld
      split
      · rfl
      · split <;> rfl
    rw [this]; exact hs
  buildNotice hs := by
    rename_i s
    have : s.buildNotice.seqs = s.seqs := by unfold State.buildNotice; split <;> rfl
    rw [this]; exact hs
  startDn hs := hs
  placeLimit _ _ _ hs := hs
  placeCommands _ _ hs := hs
  queueNotice _ _ hs := hs
  dropNotice hs := hs
  handRaw _ _ _ hs := by simpa using hs
  modEv _ hs := hs
  putZs _ _ _ hs := hs
  modBoat _ _ _ hs := by simpa using hs
  putRel _ _ hs := by simpa using hs
  filterQueue _ hs := hs
  putBerth _ _ _ hs := hs
  putNode _ _ _ hs := hs

@[simp] theorem seqs_hand (s : State) (a : Nat) (v : ActValue) : (s.hand a v).seqs = s.seqs :=
  (still_seqs s.seqs).pumpDn (s := s.handRaw a v) (handRaw_seqs s a v)
@[simp] theorem seqs_notice (s : State) (n : Notice) : (s.notice n).seqs = s.seqs := (still_seqs s.seqs).notice n rfl

/-- Every still update leaves the tables alone. -/
theorem still_tab (v : Tables) : Still fun s => s.tab = v where
  startUp hs := hs
  placeHeld hs := by
    rename_i s
    have : s.placeHeld.tab = s.tab := by
      unfold State.placeHeld
      split
      · rfl
      · split <;> rfl
    rw [this]; exact hs
  buildNotice hs := by
    rename_i s
    have : s.buildNotice.tab = s.tab := by unfold State.buildNotice; split <;> rfl
    rw [this]; exact hs
  startDn hs := hs
  placeLimit _ _ _ hs := hs
  placeCommands _ _ hs := hs
  queueNotice _ _ hs := hs
  dropNotice hs := hs
  handRaw _ _ _ hs := by simpa using hs
  modEv _ hs := hs
  putZs _ _ _ hs := hs
  modBoat _ _ _ hs := by simpa using hs
  putRel _ _ hs := by simpa using hs
  filterQueue _ hs := hs
  putBerth _ _ _ hs := hs
  putNode _ _ _ hs := hs

/-- A sequencer reads back what is written to it, where there is one. -/
theorem seqS_put_state {s : State} {k : Nat} {q : Seq} (hk : k < 2) : ((s.putSeq k q).seqS k) = q := by
  rw [seqS_putSeq]; simp [hk]

/-- A defined section is 0 or 1. -/
theorem launchE_range {s : State} {k : Nat} {e : LaunchEntry} (he : s.launchE k = some e) : k < 2 := by
  by_contra hk
  unfold State.launchE at he
  rw [Vector.getElem?_eq_none (by omega)] at he
  cases he

namespace Quiet

variable (h : Quiet P) {s : State}
include h

/-! ### Grants and the end of an event -/

theorem chargeStart (k b : Nat) (hm : s.mode = .run) (hq : (s.seqS k).state = .idle) (hs : P s) :
    P (s.chargeStart k b) := by
  unfold State.chargeStart
  split
  · exact hs
  · next e he =>
    have hk := launchE_range he
    dsimp only
    have h1 := h.putSeq k { Seq.idle with state := .charging, boat := some b, band := ((s.boatR b).bind fun x => x.band).map (·.2) }
      (.inl hq) (.inr (.inr hm)) hs
    have h2 : ∀ q : Seq, q.state = .charging → ((s.putSeq k q).seqS k).state = .charging := by
      intro q hq
      rw [seqS_put_state hk]
      exact hq
    split
    · exact h.launchAbort k _ (h2 _ rfl) h1
    · split
      · exact h.launchAbort k _ (h2 _ rfl) h1
      · exact h.handRest _ _ rfl (h.modSeq k _ (.inr (h2 _ rfl)) (.inr (.inr hm)) h1)

theorem openGate (e : QEntry) (z : ZoneEntry) (hm : s.mode = .run) (hs : P s) : P (s.openGate e z) := by
  unfold State.openGate
  dsimp only
  split
  · exact h.putRel _ _ hs
  · exact h.handFree _ _ (by unfold State.mode at *; rw [putRel_mc, hm]; rfl) (h.putRel _ _ hs)

theorem beginRelease (e : QEntry) (z : ZoneEntry) (hm : s.mode = .run)
    (hq : z.kind = .launch → ∀ k, z.sec = some k → (s.seqS k).state = .idle) (hs : P s) : P (s.beginRelease e z) := by
  unfold State.beginRelease
  split
  · next hz =>
    dsimp only
    split
    · exact h.putRel _ _ hs
    · next k hk =>
      refine h.chargeStart _ _ (by simpa [State.mode] using hm) ?_ (h.putRel _ _ hs)
      simpa [State.seqS] using hq hz k hk
  · split
    · exact h.handRest _ _ (throwValue_resting _ _) (h.putRel _ _ hs)
    · exact h.openGate e z hm hs
  · exact h.openGate e z hm hs
  · exact h.openGate e z hm hs
  · exact h.openGate e z hm hs
  · exact hs
  · exact hs

end Quiet

/-- The zones of a path keep their occupants while they are reserved. -/
theorem occupant_reserve (s : State) (b : Nat) (p : List Nat) (z : Nat) : (s.reserve b p).occupant z = s.occupant z := by
  unfold State.reserve
  induction p generalizing s with
  | nil => rfl
  | cons y p ih =>
    rw [List.foldl_cons, ih]
    unfold State.modZs State.occupant
    rw [zst_setZs]
    split
    · next hc => rw [hc.1]
    · rfl

/-- The zones of a path keep their faults while they are reserved. -/
theorem fault_reserve (s : State) (b : Nat) (p : List Nat) (z : Nat) : ((s.reserve b p).zst z).fault = (s.zst z).fault := by
  unfold State.reserve
  induction p generalizing s with
  | nil => rfl
  | cons y p ih =>
    rw [List.foldl_cons, ih]
    unfold State.modZs
    rw [zst_setZs]
    split
    · next hc => rw [hc.1]
    · rfl

namespace Base

variable (h : Base P) {s : State}
include h

theorem reserve (b : Nat) (p : List Nat) (hf : ∀ z ∈ p, s.occupant z = none ∧ (s.zst z).fault = none) (hs : P s) :
    P (s.reserve b p) := by
  induction p generalizing s with
  | nil => exact hs
  | cons y p ih =>
    refine ih (s := s.modZs y fun q => { q with reserved := some b }) (fun z hz => ?_) ?_
    · have h1 : (s.modZs y fun q => { q with reserved := some b }).occupant z = s.occupant z := occupant_reserve s b [y] z
      have h2 : ((s.modZs y fun q => { q with reserved := some b }).zst z).fault = (s.zst z).fault := fault_reserve s b [y] z
      rw [h1, h2]
      exact hf z (List.mem_cons_of_mem _ hz)
    · exact h.setZs _ _ ⟨rfl, .inl rfl, rfl, .inr (.inr (hf y List.mem_cons_self))⟩ hs

end Base

namespace Quiet

variable (h : Quiet P) {s : State}
include h

theorem grant (e : QEntry) (hg : s.grantable e = true) (hs : P s) : P (s.grant e) := by
  simp only [State.grantable, Bool.and_eq_true, List.all_eq_true, beq_iff_eq] at hg
  have hfree : ∀ z ∈ e.path, s.occupant z = none ∧ (s.zst z).fault = none := by
    intro z hz
    have := hg.1.2 z hz
    simp only [State.zoneFree, ZoneStatus.isFree, Bool.and_eq_true] at this
    exact ⟨by simpa [State.occupant] using this.1.1.1.1, by simpa using this.2⟩
  have step1 : ∀ {Q : State → Prop}, Still Q → Q s → Q ((((({ s.reserve e.boat e.path with
      queue := (s.reserve e.boat e.path).queue.filter fun x => x.boat != e.boat } : State).modBoat e.boat fun r =>
        { r with path := e.path, state := .granted }).toBerth e.origin State.berthGranted))) := fun hQ hq =>
    Base.toBerth _ (hQ.berthGranted) (hQ.modBoat _ _ (fun _ => rfl) (hQ.filterQueue _ (hQ.reserve _ _ hfree hq)))
  unfold State.grant
  dsimp only
  have hm := step1 (quiet_mc s.mc).toStill rfl
  have hsq := step1 (still_seqs s.seqs) rfl
  have htb := step1 (still_tab s.tab) rfl
  split
  · exact step1 h.toStill hs
  · next z hz =>
    refine h.beginRelease _ _ ?_ ?_ (step1 h.toStill hs)
    · unfold State.mode
      rw [hm]
      exact hg.1.1
    · intro hk k hsec
      have hz' : s.zoneE e.origin = some z := by
        rw [← hz]
        unfold State.zoneE
        rw [htb]
      have hl := hg.2
      unfold State.launchReady at hl
      rw [hz'] at hl
      simp only [hk, hsec, beq_iff_eq] at hl
      unfold State.seqS at *
      rw [hsq]
      exact hl

theorem scan (hs : P s) : P s.scan := by
  refine foldl_keeps (P := P) (fun t e ht => ?_) _ hs
  split
  · next hg => exact h.grant e hg ht
  · exact ht

theorem scans (n : Nat) (hs : P s) : P (State.scans n s) := by
  induction n generalizing s with
  | zero => exact hs
  | succ n ih =>
    unfold State.scans
    split
    · exact ih (h.scan (h.modEv _ hs))
    · exact hs

/-- What follows an event keeps what quiet updates keep, but for the levels of the auxiliary lines. -/
theorem settle (hp : ∀ {t} u, P t → P (t.startPulse u)) (hl : ∀ {t}, P t → P t.driveLines) (s0 : State) (hs : P s) : P (State.settle s0 s) :=
  hl (h.settleBerths (h.scans _ (h.abortInhibited (h.evalUserHolds (h.edges hp s0 hs)))))

/-- An event keeps what its own effect and quiet updates keep. -/
theorem event (hp : ∀ {t} u, P t → P (t.startPulse u)) (hl : ∀ {t}, P t → P t.driveLines) {f : State → State} (hf : P s → P (f s)) (hs : P s) :
    P (State.event f s) := h.clearEv (h.settle hp hl s (hf hs))

end Quiet

/-! ### The end of an event outside RUN with no charge in progress -/

/-- Outside RUN nothing is granted. -/
theorem scan_idle {s : State} (hm : s.mode ≠ .run) : s.scan = s := by
  unfold State.scan
  generalize s.queue = l
  induction l with
  | nil => rfl
  | cons e l ih =>
    have : s.grantable e = false := by
      unfold State.grantable
      simp [hm]
    rw [List.foldl_cons, this]
    exact ih

/-- Outside RUN a due scan changes nothing but what is set aside. -/
theorem Base.scansIdle (h : Base P) (n : Nat) {s : State} (hm : s.mode ≠ .run) (hs : P s) : P (State.scans n s) := by
  induction n generalizing s with
  | zero => exact hs
  | succ n ih =>
    unfold State.scans
    split
    · have hm' : (s.modEv fun e => { e with scanDue := false }).mode ≠ .run := hm
      rw [scan_idle hm']
      exact ih hm' (h.modEv _ hs)
    · exact hs

/-- With no charge in progress no inhibit aborts one. -/
theorem abortInhibited_idle {s : State} (hc : ∀ k, k < 2 → (s.seqS k).state ≠ .charging) : s.abortInhibited = s := by
  have h0 : ∀ k, k < 2 → s.abortCharge k .inhibited = s := by
    intro k hk
    unfold State.abortCharge
    rw [if_neg (hc k hk)]
  unfold State.abortInhibited
  simp only [List.foldl_cons, List.foldl_nil, h0 0 (by decide), ite_self, h0 1 (by decide)]

/-- Outside RUN, with no charge in progress, what follows an event keeps what base updates keep, but for the levels of the
auxiliary lines. -/
theorem Base.settle (h : Base P) (hp : ∀ {t} u, P t → P (t.startPulse u)) (hl : ∀ {t}, P t → P t.driveLines) (s0 : State)
    {s : State} (hm : s.mode ≠ .run) (hc : ∀ k, k < 2 → (s.seqS k).state ≠ .charging) (hs : P s) : P (State.settle s0 s) := by
  have hm1 : ((State.edges s0 s).evalUserHolds).mc = s.mc :=
    (quiet_mc s.mc).evalUserHolds ((quiet_mc s.mc).edges (fun _ hs => hs) s0 rfl)
  have hq1 : ((State.edges s0 s).evalUserHolds).seqs = s.seqs :=
    (still_seqs s.seqs).evalUserHolds ((still_seqs s.seqs).edges (fun _ hs => hs) s0 rfl)
  have h1 : P ((State.edges s0 s).evalUserHolds) := h.evalUserHolds (h.edges hp s0 hs)
  unfold State.settle
  dsimp only
  rw [abortInhibited_idle (by unfold State.seqS at *; rw [hq1]; exact hc)]
  exact hl (h.settleBerths (h.scansIdle _ (by unfold State.mode at *; rw [hm1]; exact hm) h1))

/-! ### Requests and undone grants, which add entries to the queue -/

namespace Still

variable (h : Still P) (hq : ∀ {s : State} q n, P s → P { s with queue := q, reqSeq := n }) {s : State}
include h hq

theorem enqueue (b o : Nat) (p : List Nat) (hs : P s) : P (s.enqueue b o p) :=
  h.scanWanted (h.setBoatState b _ (hq _ _ hs))

theorem request (b : Nat) (hs : P s) : P (s.request b).1 := by
  unfold State.request
  split
  · exact hs
  · split
    · exact hs
    · split
      · exact hs
      · split
        · exact hs
        · split
          · exact h.notice _ hs
          · exact h.enqueue hq _ _ _ hs

theorem restoreEntry (e : QEntry) (hs : P s) : P (s.restoreEntry e) := h.scanWanted (h.setBoatState _ _ (hq _ _ hs))

theorem autoRequest (b : Nat) (hs : P s) : P (s.autoRequest b) := by
  unfold State.autoRequest
  split
  · exact hs
  · split
    · exact h.request hq b hs
    · exact hs

theorem autoRequests (hs : P s) : P s.autoRequests := foldl_keeps (P := P) (fun _ i ht => h.autoRequest hq (i + 1) ht) _ hs

theorem undoGrant (b : Nat) (hs : P s) : P (s.undoGrant b) := by
  unfold State.undoGrant
  split
  · exact hs
  · exact h.restoreEntry hq _ (h.returnReservations b hs)

theorem throwFailed (b : Nat) (hs : P s) : P (s.throwFailed b) := by
  unfold State.throwFailed
  split
  · exact hs
  · exact h.notice _ (h.undoGrant hq b hs)

theorem failThrows (a : Nat) (hs : P s) : P (s.failThrows a) := foldl_keeps (P := P) (fun _ b ht => h.throwFailed hq b ht) _ hs

end Still

end Sys2Proof.Machine
end

