-- ==== Sys2Proof/Laws/Modal.lean ====
section
/-! SUPPORT. What the records of nodes and the timer expiries can change, said once, above `Quiet`: `Modal P` adds the
requests for HOLD and STOP, the brake runs, and the place of the next free choice. `Calm P` is the plain way to a `Modal P`:
a property that ignores mode control's record. -/

namespace Sys2Proof.Machine

variable {P : State → Prop}

/-- The property is kept by quiet updates, by requests for HOLD and STOP, and by updates of the brake runs. -/
structure Modal (P : State → Prop) : Prop extends Quiet P where
  driveLines : ∀ {s}, P s → P s.driveLines
  bump : ∀ {s} c, P s → P (s.bump c)
  useFree : ∀ {s}, P s → P s.useFree
  putRun : ∀ {s} r q, P s → P (s.putRun r q)
  setQueue : ∀ {s : State} q n, P s → P { s with queue := q, reqSeq := n }
  looseZs : ∀ {s} z q, (s.zst z).Loose q → P s → P (s.putZs z q)
  looseBerth : ∀ {s} b x, P s → P (s.putBerth b x)
  looseSeq : ∀ {s} k q, q.state = .idle ∨ (s.seqS k).state ≠ .idle → P s → P (s.putSeq k q)
  loosePulse : ∀ {s} u x, P s → P (s.putPulse u x)
  tripBoat : ∀ {s} b f, (∀ x : Boat, (f x).zone = x.zone ∧ (f x).cls = x.cls ∧ (f x).route = x.route ∧ (f x).entryTime = x.entryTime) → P s → P (s.modBoat b f)
  askHold : ∀ {s} b, P s → P (s.askHold b)
  goStop : ∀ {s} c, P s → P (s.goStop c)

/-- The property is kept by quiet updates and does not look at mode control, the brake runs, the lines and the free choices. -/
structure Calm (P : State → Prop) : Prop extends Quiet P where
  driveLines : ∀ {s}, P s → P s.driveLines
  bump : ∀ {s} c, P s → P (s.bump c)
  useFree : ∀ {s}, P s → P s.useFree
  putRun : ∀ {s} r q, P s → P (s.putRun r q)
  setQueue : ∀ {s : State} q n, P s → P { s with queue := q, reqSeq := n }
  looseZs : ∀ {s} z q, (s.zst z).Loose q → P s → P (s.putZs z q)
  looseBerth : ∀ {s} b x, P s → P (s.putBerth b x)
  looseSeq : ∀ {s} k q, q.state = .idle ∨ (s.seqS k).state ≠ .idle → P s → P (s.putSeq k q)
  loosePulse : ∀ {s} u x, P s → P (s.putPulse u x)
  tripBoat : ∀ {s} b f, (∀ x : Boat, (f x).zone = x.zone ∧ (f x).cls = x.cls ∧ (f x).route = x.route ∧ (f x).entryTime = x.entryTime) → P s → P (s.modBoat b f)
  modMc : ∀ {s} f, P s → P (s.modMc f)

/-! ### Brake runs, for either kind -/

namespace Quiet

variable (h : Quiet P) (hr : ∀ {s} r q, P s → P (s.putRun r q)) {s : State}
include h hr

theorem handFin (r i : Nat) (v : ActValue) (hv : v.resting = true ∨ s.mode.fullBrake = false) (hs : P s) :
    P (s.handFin r i v) := by
  have h1 : P (s.hand (s.stageOf r i).fin v) := by
    rcases hv with hv | hv
    · exact h.handRest _ _ hv hs
    · exact h.handFree _ _ hv hs
  unfold State.handFin
  dsimp only
  split
  · split
    · exact hr _ _ h1
    · exact h1
  · exact hr _ _ h1

theorem setFins (r n k : Nat) (hk : n ≤ k ∨ s.mode.fullBrake = false) (hs : P s) : P (s.setFins r n k) := by
  have key : P (s.setFins r n k) ∧ (s.setFins r n k).mc = s.mc := by
    unfold State.setFins
    refine foldl_keeps_mem (P := fun t => P t ∧ t.mc = s.mc) _ (fun t i hi ht => ?_) ⟨hs, rfl⟩
    have hv : (if i < k then ActValue.finEngage else .finRetract).resting = true ∨ t.mode.fullBrake = false := by
      by_cases hik : i < k
      · left; rw [if_pos hik]; rfl
      · right
        have : s.mode.fullBrake = false := by
          rcases hk with hk | hk
          · have := List.mem_range.mp hi; omega
          · exact hk
        unfold State.mode at *
        rw [ht.2]
        exact this
    dsimp only
    generalize (if i < k then ActValue.finEngage else .finRetract) = v at hv ⊢
    split
    · exact ht
    · exact ⟨h.handFin hr _ _ _ hv ht.1,
        Quiet.handFin (quiet_mc s.mc) (fun _ _ hs => hs) _ _ _ hv ht.2⟩
  exact key.1

theorem restoreRun (r : Nat) (hs : P s) : P (s.restoreRun r) := by
  unfold State.restoreRun
  split
  · exact hs
  · exact hr _ _ (h.setFins hr _ _ _ (.inl (Nat.le_refl _)) hs)

theorem restoreRuns (hs : P s) : P s.restoreRuns := h.restoreRun hr 1 (h.restoreRun hr 0 hs)

theorem engageRun (r : Nat) (hs : P s) : P (s.engageRun r) := by
  unfold State.engageRun
  split
  · exact hs
  · exact hr _ _ (foldl_keeps (P := P) (fun _ _ ht => h.handFin hr _ _ _ (.inl rfl) ht) _ hs)

omit h in
theorem finSettledIn (fin r : Nat) (hs : P s) : P (s.finSettledIn fin r) := by
  unfold State.finSettledIn
  split
  · exact hs
  · refine hr _ _ (foldl_keeps (P := P) (fun t i ht => ?_) _ hs)
    split
    · exact hr _ _ ht
    · exact ht

omit h in
theorem finSettled (fin : Nat) (hs : P s) : P (s.finSettled fin) := Quiet.finSettledIn hr fin 1 (Quiet.finSettledIn hr fin 0 hs)

theorem runLeft (z : Nat) (hs : P s) : P (s.runLeft z) := by
  refine foldl_keeps (P := P) (fun t r ht => ?_) _ hs
  split
  · exact h.restoreRun hr r ht
  · exact ht

end Quiet

/-! ### Sequencers taken to IDLE by a mode -/

namespace Still

variable (h : Still P) (hi : ∀ {s} k, P s → P (s.putSeq k .idle)) {s : State}
include h hi

theorem seqToIdle (k : Nat) (hs : P s) : P (s.seqToIdle k) := by
  unfold State.seqToIdle
  dsimp only
  split
  · exact hs
  · have h1 : P ((s.putSeq k .idle).handBooster k .boosterSafe) := h.handBooster k _ rfl (hi k hs)
    split
    · exact h.notice _ h1
    · exact h1

theorem seqsToIdle (hs : P s) : P s.seqsToIdle := h.seqToIdle hi 1 (h.seqToIdle hi 0 hs)

theorem boostersToSafe (hu : ∀ {s}, P s → P s.useFree) (hs : P s) : P s.boostersToSafe := by
  unfold State.boostersToSafe
  split
  · exact h.boostersSafeByMode hs
  · split
    · exact h.boostersSafeByMode (h.seqsToIdle hi (hu hs))
    · exact h.seqsToIdle hi (h.boostersSafeByMode (hu hs))

end Still

/-! ### Changes of mode -/

/-- The values of R135 are safe values. -/
theorem sharedSafe_resting (s : State) : ∀ p ∈ s.sharedSafe, p.2.resting = true := by
  intro p hp
  unfold State.sharedSafe at hp
  rw [List.mem_filterMap] at hp
  obtain ⟨a, _, hp⟩ := hp
  rw [Option.bind_eq_some_iff] at hp
  obtain ⟨e, _, hp⟩ := hp
  split at hp
  · cases hp; exact ActKind.safe_resting _
  · cases hp

namespace Calm

variable (h : Calm P) {s : State}
include h

theorem startPulse {s : State} (u : Nat) (hs : P s) : P (s.startPulse u) := h.loosePulse _ _ hs

theorem idle {s : State} (k : Nat) (hs : P s) : P (s.putSeq k .idle) := h.looseSeq k _ (.inl rfl) hs

theorem enterStop (hs : P s) : P s.enterStop := by
  unfold State.enterStop
  exact h.handAllRest _ (sharedSafe_resting _) (h.restoreRuns h.putRun (h.closeGates (h.boostersToSafe h.idle h.useFree
    (h.returnAll (h.withdrawAll (h.modMc _ hs))))))

theorem enterConfig (hw : ∀ {s}, P s → P s.stopWatches) (hs : P s) : P s.enterConfig := by
  unfold State.enterConfig
  exact h.restoreRuns h.putRun (h.closeGates (h.boostersToSafe h.idle h.useFree (hw (h.withdrawAll (h.modMc _ hs)))))

theorem enterRun (hs : P s) : P s.enterRun := h.autoRequests h.setQueue (h.scanWanted hs)

theorem enterHold (old : Mode) (hs : P s) : P (s.enterHold old) := by
  unfold State.enterHold
  split
  · exact h.pulse h.startPulse _ (h.abortCharges hs)
  · exact h.pulse h.startPulse _ hs

theorem changeMode (hw : ∀ {s}, P s → P s.stopWatches) (new : Mode) (c : Cause) (hs : P s) : P (s.changeMode new c) := by
  unfold State.changeMode
  have h1 : P ((s.modMc fun m => { m with mode := new, stopOut := new == .stop }).notice (.modeChanged new s.mode c)) :=
    h.notice _ (h.modMc _ hs)
  unfold State.enterMode
  split
  · exact h.enterConfig hw h1
  · exact h1
  · exact h.enterRun h1
  · exact h.enterHold _ h1
  · exact h.enterStop h1

/-- HOLD and STOP need no watch stopped. -/
theorem changeHold (c : Cause) (hs : P s) : P (s.changeMode .hold c) := by
  unfold State.changeMode State.enterMode
  exact h.enterHold _ (h.notice _ (h.modMc _ hs))

theorem changeStop (c : Cause) (hs : P s) : P (s.changeMode .stop c) := by
  unfold State.changeMode State.enterMode
  exact h.enterStop (h.notice _ (h.modMc _ hs))

theorem abortCheck (hs : P s) : P s.abortCheck := by
  unfold State.abortCheck
  split
  · exact hs
  · exact h.modMc _ hs

theorem goStop (c : Cause) (hs : P s) : P (s.goStop c) := by
  unfold State.goStop
  split
  · exact hs
  · exact h.changeStop c (h.abortCheck hs)

theorem askHold (b : Block) (hs : P s) : P (s.askHold b) := by
  unfold State.askHold
  split
  · exact h.changeHold _ hs
  · exact h.modMc _ hs
  · exact hs
  · exact hs
  · exact hs

/-- A property that ignores mode control, runs, lines and free choices is kept by all that `Modal` lists. -/
theorem toModal : Modal P where
  toQuiet := h.toQuiet
  driveLines := h.driveLines
  bump := h.bump
  useFree := h.useFree
  putRun := h.putRun
  setQueue := h.setQueue
  looseZs := h.looseZs
  looseBerth := h.looseBerth
  looseSeq := h.looseSeq
  loosePulse := h.loosePulse
  tripBoat := h.tripBoat
  askHold b hs := h.askHold b hs
  goStop c hs := h.goStop c hs

end Calm

/-! ### Records of nodes that move no boat, and timer expiries -/

namespace Modal

variable (h : Modal P) {s : State}
include h

theorem startPulse {s : State} (u : Nat) (hs : P s) : P (s.startPulse u) := h.loosePulse _ _ hs

theorem pulse (g : Gen) (hs : P s) : P (s.pulse g) := h.toQuiet.pulse h.startPulse g hs

theorem pulseChan (c : Nat) (src : Source) (hs : P s) : P (s.pulseChan c src) := h.toQuiet.pulseChan h.startPulse c src hs

/-- An event keeps what its own effect keeps. -/
theorem event {f : State → State} (hf : P s → P (f s)) (hs : P s) : P (State.event f s) :=
  h.toQuiet.event h.startPulse h.driveLines hf hs

theorem setZsLoose (z : Nat) (q : ZoneStatus) (hq : (s.zst z).Loose q) (hs : P s) : P (s.setZs z q) := by
  unfold State.setZs
  exact h.modEv _ (h.looseZs z q hq hs)

theorem modBerth (b : Nat) (f : BerthStatus → BerthStatus) (hs : P s) : P (s.modBerth b f) := h.looseBerth b _ hs

theorem setBerth (b : Nat) (f : BerthStatus → BerthStatus) (hs : P s) : P (s.setBerth b f) := h.touch b (h.modBerth b f hs)

theorem modSeq (k : Nat) (f : Seq → Seq) (hf : (f (s.seqS k)).state = .idle ∨ (s.seqS k).state ≠ .idle) (hs : P s) :
    P (s.modSeq k f) := h.looseSeq k _ hf hs

theorem startWatch (z : Nat) (hs : P s) : P (s.startWatch z) := by
  unfold State.startWatch
  split
  · exact h.setZsLoose z _ ⟨rfl, .inl rfl⟩ hs
  · exact hs

theorem berthDerive (b : Nat) (hs : P s) : P (s.berthDerive b) := by
  unfold State.berthDerive
  split
  · exact hs
  · exact h.setBerth b _ hs

theorem berthArrive (b : Nat) (hs : P s) : P (s.berthArrive b) := by
  unfold State.berthArrive
  split
  · exact hs
  · dsimp only
    split
    · exact h.trySecure b (h.setBerth b _ hs)
    · exact h.touch b hs

theorem berthCleared (b : Nat) (hs : P s) : P (s.berthCleared b) := by
  unfold State.berthCleared
  split
  · exact h.berthDerive b hs
  · exact h.touch b hs

theorem berthFault (b : Nat) (r : BerthFault) (hs : P s) : P (s.berthFault b r) := by
  unfold State.berthFault
  split
  · exact hs
  · dsimp only
    refine h.setBerth b _ ?_
    split
    · split
      · exact hs
      · exact h.withdraw _ hs
    · exact hs

theorem raiseFault (z : Nat) (f : ZFault) (hs : P s) : P (s.raiseFault z f) := by
  unfold State.raiseFault
  split
  · exact hs
  · exact h.setZsLoose z _ ⟨rfl, .inl rfl⟩ hs

theorem askStop (b : Block) (hs : P s) : P (s.askStop b) := h.goStop _ hs

theorem modRun (r : Nat) (f : RunStatus → RunStatus) (hs : P s) : P (s.modRun r f) := h.putRun r _ hs

theorem cooldownEnd (k : Nat) (hs : P s) : P (s.cooldownEnd k) := h.scanWanted (h.looseSeq k _ (.inl rfl) hs)

theorem cooldownStart (k : Nat) (e : LaunchEntry) (hq : (s.seqS k).state ≠ .idle) (hs : P s) : P (s.cooldownStart k e) := by
  unfold State.cooldownStart
  dsimp only
  split
  · exact h.cooldownEnd k (h.modSeq k _ (.inr hq) hs)
  · exact h.modSeq k _ (.inr hq) hs

end Modal

/-! ### Sequencers through notices and holds -/

/-- An abort changes the sequencer it aborts and no other. -/
theorem seqs_launchAbort (s : State) (j : Nat) (r : AbortReason) :
    (s.launchAbort j r).seqs = s.seqs ∨ (s.launchAbort j r).seqs = (s.putSeq j .idle).seqs := by
  unfold State.launchAbort
  split
  · next e b _ _ =>
    right
    have h : Still fun t => t.seqs = (s.putSeq j .idle).seqs := still_seqs _
    dsimp only
    refine h.notice _ ?_
    split
    · exact Base.toBerth (P := fun t => t.seqs = (s.putSeq j .idle).seqs) _ h.berthReturned (h.setBoatState b _ (h.returnReservations b (h.handRest _ _ rfl rfl)))
    · exact h.handRest _ _ rfl rfl
  · exact .inl rfl

/-- An abort of the charges leaves a sequencer that is not CHARGING alone. -/
theorem seqS_abortCharge (s : State) (j k : Nat) (r : AbortReason) (hk : (s.seqS k).state ≠ .charging) :
    (s.abortCharge j r).seqS k = s.seqS k := by
  unfold State.abortCharge
  split
  · next hj =>
    have hne : k ≠ j := fun e => hk (e ▸ hj)
    rcases seqs_launchAbort s j r with h | h
    · simp [State.seqS, h]
    · have := seqS_putSeq s j k .idle
      simp only [hne, false_and, if_false] at this
      rw [← this]
      simp [State.seqS, h]
  · rfl

/-- A pulse leaves a sequencer that is not CHARGING alone (R93, R157). -/
theorem seqS_pulse (s : State) (g : Gen) (k : Nat) (hk : (s.seqS k).state ≠ .charging) : (s.pulse g).seqS k = s.seqS k := by
  unfold State.pulse
  refine foldl_keeps (P := fun t => State.seqS t k = s.seqS k) (fun t c ht => ?_) _ rfl
  split
  · unfold State.pulseChan State.inhibitPulse
    refine foldl_keeps (P := fun t => State.seqS t k = s.seqS k) (fun u x hu => ?_) _ ?_
    · split
      · rw [seqS_abortCharge _ _ _ _ (by rw [hu]; exact hk), hu]
      · exact hu
    · have hq : (t.deliverPulse c .generated).seqs = t.seqs := (still_seqs t.seqs).deliverPulse (fun _ hs => hs) c .generated rfl
      unfold State.seqS at *
      rw [hq, ht]
  · exact ht

/-- A request for HOLD leaves a sequencer that is not CHARGING alone (R94, R143). -/
theorem seqS_askHold (s : State) (b : Block) (k : Nat) (hk : (s.seqS k).state ≠ .charging) :
    (s.askHold b).seqS k = s.seqS k := by
  unfold State.askHold
  split
  · next hm =>
    unfold State.changeMode State.enterMode State.enterHold
    rw [if_pos hm]
    have h0 : ((s.modMc fun m => { m with mode := .hold, stopOut := Mode.hold == .stop }).notice
        (.modeChanged .hold s.mode (.block b))).seqS k = s.seqS k := by simp [State.seqS]
    revert h0
    generalize (s.modMc fun m => { m with mode := .hold, stopOut := Mode.hold == .stop }).notice
        (.modeChanged .hold s.mode (.block b)) = t
    intro h0
    have h1 := seqS_abortCharge t 0 k .mode (h0 ▸ hk)
    have h2 := seqS_abortCharge (t.abortCharge 0 .mode) 1 k .mode ((h1.trans h0) ▸ hk)
    have h3 := h2.trans (h1.trans h0)
    exact (seqS_pulse _ _ _ (h3 ▸ hk)).trans h3
  · simp [State.seqS]
  · rfl
  · rfl
  · rfl

end Sys2Proof.Machine
end

