-- ==== Sys2Proof/Laws/Records.lean ====
section
/-! SUPPORT. What the records of nodes that move no boat, the timer expiries and some management records keep: whatever
`Modal` keeps. -/

namespace Sys2Proof.Machine

variable {P : State → Prop}

theorem noticeIf_mc (s : State) (c : Bool) (n : Notice) : (s.noticeIf c n).mc = s.mc := by
  unfold State.noticeIf
  split
  · exact notice_mc s n
  · rfl

namespace Modal

variable (h : Modal P) {s : State}
include h

/-! ### Launch sequencers -/

theorem launchSpeed (k : Nat) (e : LaunchEntry) (v : Nat) (hq : (s.seqS k).state = .measuring) (hs : P s) :
    P (s.launchSpeed k e v) := by
  unfold State.launchSpeed
  dsimp only
  have hn : ∀ n, ((s.notice n).seqS k).state = .measuring := fun n => by simpa [State.seqS] using hq
  split
  · refine h.cooldownStart k e ?_ (h.askHold _ (h.notice _ hs))
    rw [seqS_askHold _ _ _ (by rw [hn]; decide), hn]
    decide
  · exact h.cooldownStart k e (by rw [hn]; decide) (h.notice _ hs)

theorem launchNone (k : Nat) (e : LaunchEntry) (hq : (s.seqS k).state = .measuring) (hs : P s) : P (s.launchNone k e) := by
  unfold State.launchNone
  refine h.cooldownStart k e ?_ (h.notice _ hs)
  have : ∀ n, ((s.notice n).seqS k).state = .measuring := fun n => by simpa [State.seqS] using hq
  rw [this]
  decide

theorem takeSpeed (k v : Nat) (hs : P s) : P (s.takeSpeed k v) := by
  unfold State.takeSpeed
  split
  · exact hs
  · split
    · next hq => exact h.modSeq k _ (.inr (by rw [hq]; decide)) hs
    · next hq => exact h.launchSpeed k _ v hq hs
    · exact hs
    · exact hs
    · exact hs

theorem measure (k : Nat) (e : LaunchEntry) (hq : (s.seqS k).state = .measuring) (hs : P s) : P (s.measure k e) := by
  unfold State.measure
  dsimp only
  split
  · exact h.launchSpeed k e _ hq hs
  · split
    · exact h.launchNone k e hq hs
    · exact hs

theorem launchArrived (k b : Nat) (hs : P s) : P (s.launchArrived k b) := by
  unfold State.launchArrived
  split
  · exact hs
  · split
    · next hq => exact h.launchNone k _ hq.1 hs
    · exact hs

theorem launchReleased (k : Nat) (e : LaunchEntry) (hs : P s) : P (s.launchReleased k e) := by
  unfold State.launchReleased
  split
  · exact h.startWatch _ hs
  · exact hs

theorem fire (k : Nat) (e : LaunchEntry) (hq : (s.seqS k).state = .charging) (hs : P s) : P (s.fire k e) :=
  h.pulse _ (h.handRest _ _ rfl (h.modSeq k _ (.inr (by rw [hq]; decide)) hs))

theorem takeReady (src num : Nat) (hs : P s) : P (s.takeReady src num) := by
  unfold State.takeReady
  split
  · exact h.bump _ hs
  · split
    · exact hs
    · split
      · next hq =>
        split
        · exact h.launchAbort _ _ hq hs
        · exact h.fire _ _ hq hs
      all_goals exact h.bump _ hs

theorem uncommanded (k : Nat) (e : LaunchEntry) (hq : (s.seqS k).state = .charging) (hs : P s) : P (s.uncommanded k e) :=
  h.launchReleased _ _ (h.askHold _ (h.notice _ (h.handRest _ _ rfl (h.modSeq k _ (.inr (by rw [hq]; decide)) hs))))

end Modal

/-- Starting a watch leaves the sequencers alone. -/
theorem seqs_launchReleased (s : State) (k : Nat) (e : LaunchEntry) : (s.launchReleased k e).seqs = s.seqs := by
  unfold State.launchReleased
  split
  · unfold State.startWatch
    split <;> rfl
  · rfl

/-- A defined section's sequencer reads back what is written to it. -/
theorem seqS_modSeq_self {s : State} {k : Nat} {e : LaunchEntry} (he : s.launchE k = some e) (f : Seq → Seq) :
    (s.modSeq k f).seqS k = f (s.seqS k) := by
  have hk : k < 2 := by
    by_contra hk
    unfold State.launchE at he
    rw [Vector.getElem?_eq_none (by omega)] at he
    cases he
  unfold State.modSeq
  rw [seqS_putSeq]
  simp [hk]

namespace Modal

variable (h : Modal P) {s : State}
include h

theorem takeDone (src num : Nat) (hs : P s) : P (s.takeDone src num) := by
  unfold State.takeDone
  split
  · exact h.bump _ hs
  · next k _ =>
    split
    · exact hs
    · next e he =>
      split
      · next hq =>
        refine h.measure k e ?_ (h.launchReleased k e (h.modSeq k _ (.inr (by rw [hq]; decide)) hs))
        unfold State.seqS
        rw [seqs_launchReleased]
        exact congrArg Seq.state (seqS_modSeq_self he _)
      · next hq => exact h.uncommanded k e hq hs
      all_goals exact h.bump _ hs

theorem chargeExpiry (k : Nat) (hs : P s) : P (s.chargeExpiry k) := by
  unfold State.chargeExpiry
  split
  · exact hs
  · split
    · exact h.abortCharge k _ hs
    · exact hs

theorem doneExpiry (k : Nat) (hs : P s) : P (s.doneExpiry k) := by
  unfold State.doneExpiry
  split
  · exact hs
  · next e he =>
    split
    · next hc =>
      have h0 : ((s.modSeq k fun q => { q with state := .measuring, done := none }).seqS k).state = .measuring :=
        congrArg Seq.state (seqS_modSeq_self he _)
      dsimp only
      refine h.measure k e ?_ (h.launchReleased k e (h.askHold _ (h.notice _ (h.handRest _ _ rfl
        (h.modSeq k _ (.inr (by rw [hc.1]; decide)) hs)))))
      have h1 : ∀ n a v, (((((s.modSeq k fun q => { q with state := .measuring, done := none }).hand a v).notice n)).seqS k).state
          = .measuring := by
        intro n a v
        unfold State.seqS
        rw [seqs_notice, seqs_hand]
        exact h0
      unfold State.seqS
      rw [seqs_launchReleased]
      exact (congrArg Seq.state (seqS_askHold _ _ _ (by rw [h1]; decide))).trans (h1 _ _ _)
    · exact hs

theorem cooldownExpiry (k : Nat) (hs : P s) : P (s.cooldownExpiry k) := by
  unfold State.cooldownExpiry
  split
  · exact hs
  · split
    · exact h.cooldownEnd k hs
    · exact hs

/-! ### Berth records -/

theorem berthAnswer (b n : Nat) (a : Answer) (hs : P s) : P (s.berthAnswer b n a) := by
  unfold State.berthAnswer
  split
  · exact h.setBerth b _ hs
  · exact h.setBerth b _ hs
  · split
    · exact h.setBerth b _ hs
    · exact h.setBerth b _ hs

theorem pressRequest (b n : Nat) (hs : P s) : P (s.pressRequest b n) := h.berthAnswer b n _ (h.request h.setQueue n hs)

theorem padPress (b n : Nat) (e : BerthEntry) (hs : P s) : P (s.padPress b n e) := by
  unfold State.padPress
  split
  · split
    · exact h.setBerth b _ hs
    · split
      · exact h.setBerth b _ (h.notice _ hs)
      · exact h.pressRequest b n (h.tripBoat n _ (fun _ => ⟨rfl, rfl, rfl, rfl⟩) hs)
  · exact h.setBerth b _ hs

theorem takePress (b : Nat) (e : BerthEntry) (hs : P s) : P (s.takePress b e) := by
  unfold State.takePress
  split
  · exact h.setBerth b _ hs
  · split
    · exact h.padPress b _ e hs
    · exact h.pressRequest b _ hs

theorem takePending (b : Nat) (hs : P s) : P (s.takePending b) := by
  unfold State.takePending
  split
  · exact hs
  · dsimp only
    split
    · exact h.takePress b _ (h.setBerth b _ hs)
    · exact hs

theorem pressEdge (b : Nat) (e : BerthEntry) (hs : P s) : P (s.pressEdge b e) := by
  have h1 := h.pulse (.berthButton b) hs
  unfold State.pressEdge
  dsimp only
  split
  · split
    · exact h.takePress b e h1
    · exact h.setBerth b _ h1
  · split
    · exact h.setBerth b _ h1
    · exact h1
  all_goals exact h1

theorem presenceLost (b : Nat) (e : BerthEntry) (hs : P s) : P (s.presenceLost b e) :=
  h.askHold _ (h.notice _ (h.berthFault b _ hs))

theorem presenceEdge (b : Nat) (e : BerthEntry) (x : Bool) (hs : P s) : P (s.presenceEdge b e x) := by
  have h1 : P (s.setBerth b fun q => { q with presence := x, pending := q.pending && x }) := h.setBerth b _ hs
  unfold State.presenceEdge
  dsimp only
  split
  · exact h.berthArrive b h1
  · split
    · exact h.presenceLost b e h1
    · exact h.presenceLost b e h1
    · exact h.presenceLost b e h1
    all_goals exact h1

theorem latchToSequencer (e : BerthEntry) (hs : P s) : P (s.latchToSequencer e) := by
  unfold State.latchToSequencer
  split
  · exact h.abortCharge _ _ hs
  · exact hs

theorem latchOpenReleased (b : Nat) (e : BerthEntry) (hs : P s) : P (s.latchOpenReleased b e) := by
  have h1 : P (s.berthAlarm b e .latchOpen) := h.notice _ hs
  unfold State.latchOpenReleased
  dsimp only
  split
  · exact h.askStop _ h1
  · split
    · exact h.askStop _ (h.latchToSequencer e (h.useFree h1))
    · exact h.latchToSequencer e (h.askStop _ (h.useFree h1))

theorem latchOpened (b : Nat) (e : BerthEntry) (hs : P s) : P (s.latchOpened b e) := by
  have h1 : P (s.setBerth b fun q => { q with latch := false, pending := false }) := h.setBerth b _ hs
  unfold State.latchOpened
  dsimp only
  split
  · exact h.setBerth b _ h1
  · exact h.setBerth b _ h1
  · split
    · exact h.setBerth b _ h1
    · exact h.setBerth b _ (h.withdraw _ h1)
  · exact h.latchOpenReleased b e h1
  · exact h1
  · exact h1

theorem latchClosed (b : Nat) (hs : P s) : P (s.latchClosed b) := by
  have h1 : P (s.setBerth b fun q => { q with latch := true }) := h.setBerth b _ hs
  unfold State.latchClosed
  dsimp only
  split
  · exact h.trySecure b (h.setBerth b _ h1)
  · exact h1

theorem latchEdge (b : Nat) (e : BerthEntry) (x : Bool) (hs : P s) : P (s.latchEdge b e x) := by
  unfold State.latchEdge
  split
  · exact h.latchClosed b hs
  · exact h.latchOpened b e hs

theorem takeBerth (src : Nat) (p l u : Bool) (hs : P s) : P (s.takeBerth src p l u) := by
  unfold State.takeBerth
  split
  · exact h.bump _ hs
  · next b e _ =>
    have h1 : P (if (s.berthS b).presence = p then s.touch b else (s.touch b).presenceEdge b e p) := by
      split
      · exact h.touch b hs
      · exact h.presenceEdge b e p (h.touch b hs)
    revert h1
    generalize (if (s.berthS b).presence = p then s.touch b else (s.touch b).presenceEdge b e p) = t
    intro h1
    have h2 : P (if (t.berthS b).latch = l then t else t.latchEdge b e l) := by
      split
      · exact h1
      · exact h.latchEdge b e l h1
    show P (if u = true then (if (t.berthS b).latch = l then t else t.latchEdge b e l).pressEdge b e
      else (if (t.berthS b).latch = l then t else t.latchEdge b e l))
    split
    · exact h.pressEdge b e h2
    · exact h2

theorem captureWeight (b : Nat) (e : BerthEntry) (w : Nat) (hs : P s) : P (s.captureWeight b e w) := by
  have h1 : P (s.setBerth b fun q => { q with weight := some w }) := h.setBerth b _ hs
  unfold State.captureWeight
  dsimp only
  split
  · split
    · exact h1
    · exact h.tripBoat _ _ (fun _ => ⟨rfl, rfl, rfl, rfl⟩) h1
  · exact h1

theorem takeWeight (src sc : Nat) (kg : Int) (x : Bool) (hs : P s) : P (s.takeWeight src sc kg x) := by
  unfold State.takeWeight
  split
  · exact h.bump _ hs
  · split
    · exact h.bump _ hs
    · split
      · exact h.captureWeight _ _ _ hs
      · exact hs

theorem tagFailed (b : Nat) (e : BerthEntry) (n : Nat) (hs : P s) : P (s.tagFailed b e n) :=
  h.askHold _ (h.notice _ (h.raiseFault _ _ (h.berthFault b _ hs)))

theorem takeTag (src r n : Nat) (hs : P s) : P (s.takeTag src r n) := by
  unfold State.takeTag
  split
  · exact hs
  · split
    · exact hs
    · split
      · exact h.bump _ hs
      · split
        · exact h.touch _ hs
        · exact h.tagFailed _ _ _ hs

/-! ### Traps -/

theorem limitCheck (who : Option Nat) (i : Nat) (e : TrapEntry) (v : Nat) (hs : P s) : P (s.limitCheck who i e v) := by
  unfold State.limitCheck
  split
  · exact hs
  · split
    · exact h.askHold _ (h.notice _ hs)
    · exact hs

theorem recordSpeed (b : Option Nat) (v i : Nat) (hs : P s) : P (s.recordSpeed b v i) := by
  unfold State.recordSpeed
  split
  · exact hs
  · exact h.tripBoat _ _ (fun _ => ⟨rfl, rfl, rfl, rfl⟩) hs

theorem toLaunches (i v : Nat) (hs : P s) : P (s.toLaunches i v) := by
  unfold State.toLaunches
  refine foldl_keeps (P := P) (fun t k ht => ?_) _ hs
  split
  · exact h.takeSpeed k v ht
  · exact ht

theorem setRun (r : Nat) (e : RunEntry) (b k : Nat) (hk : e.stages ≤ k ∨ s.mode.fullBrake = false) (hs : P s) :
    P (s.setRun r e b k) :=
  h.tripBoat b _ (fun _ => ⟨rfl, rfl, rfl, rfl⟩) (h.modRun r _ (h.setFins h.putRun r e.stages k hk hs))

theorem holdIf (c : Bool) (b : Block) (hs : P s) : P (s.holdIf c b) := by
  unfold State.holdIf
  split
  · exact h.askHold b hs
  · exact hs

theorem noticeIf (c : Bool) (n : Notice) (hs : P s) : P (s.noticeIf c n) := by
  unfold State.noticeIf
  split
  · exact h.notice n hs
  · exact hs

theorem select (r : Nat) (e : RunEntry) (b : Nat) (x : Boat) (i v : Nat) (hs : P s) : P (s.select r e b x i v) := by
  unfold State.select
  refine h.holdIf _ _ (h.pulse _ (h.notice _ (h.setRun r e b _ ?_ (h.noticeIf _ _ (h.noticeIf _ _ hs)))))
  cases hm : s.mode.fullBrake
  · right
    unfold State.mode at *
    rw [noticeIf_mc, noticeIf_mc]
    exact hm
  · left
    unfold State.chosenCount
    rw [hm]
    simp

theorem selectInvalid (r : Nat) (e : RunEntry) (b i : Nat) (hs : P s) : P (s.selectInvalid r e b i) := by
  unfold State.selectInvalid
  exact h.pulse _ (h.setRun r e b _ (.inl (Nat.le_refl _)) (h.notice _ hs))

theorem unexpectedTrap (e : RunEntry) (i : Nat) (hs : P s) : P (s.unexpectedTrap e i) :=
  h.askHold _ (h.notice _ (h.raiseFault _ _ hs))

theorem brakeReport (r : Nat) (e : RunEntry) (i : Nat) (who v : Option Nat) (hs : P s) :
    P (s.brakeReport r e i who v) := by
  unfold State.brakeReport
  split
  · exact h.unexpectedTrap e i hs
  · split
    · exact h.selectInvalid r e _ i hs
    · dsimp only
      have h1 := h.recordSpeed who (by assumption) i hs
      split
      · exact h1
      · exact h.select r e _ _ i _ h1

theorem handSpeed (who : Option Nat) (i : Nat) (e : TrapEntry) (v : Nat) (hs : P s) : P (s.handSpeed who i e v) := by
  unfold State.handSpeed
  split
  · exact h.brakeReport _ _ i _ _ hs
  · have h1 := h.recordSpeed who v i hs
    dsimp only
    split
    · exact h.toLaunches i v h1
    · exact h1

theorem zeroInterval (who : Option Nat) (i : Nat) (e : TrapEntry) (hs : P s) : P (s.zeroInterval who i e) := by
  have h1 := h.bump .malformed hs
  unfold State.zeroInterval
  dsimp only
  split
  · exact h.brakeReport _ _ i _ _ h1
  · exact h1

theorem matchedTrap (i : Nat) (e : TrapEntry) (t : Nat) (hs : P s) : P (s.matchedTrap i e t) := by
  have h1 := h.pulse (.trapDone i) hs
  unfold State.matchedTrap
  dsimp only
  split
  · exact h.zeroInterval _ i e h1
  · exact h.handSpeed _ i e _ (h.limitCheck _ i e _ h1)

theorem takeTrap (src p t : Nat) (hs : P s) : P (s.takeTrap src p t) := by
  unfold State.takeTrap
  split
  · exact h.bump _ hs
  · split
    · exact h.bump _ hs
    · exact h.matchedTrap _ _ t hs

/-! ### Zones -/

theorem watchExpired (z : Nat) (hs : P s) : P (s.watchExpired z) := by
  unfold State.watchExpired
  dsimp only
  refine h.askHold _ (h.notice _ (h.raiseFault _ _ ?_))
  split
  · exact h.stopWatch z hs
  · exact h.tripBoat _ _ (fun _ => ⟨rfl, rfl, rfl, rfl⟩) (h.stopWatch z hs)

theorem watchExpiry (z : Nat) (hs : P s) : P (s.watchExpiry z) := by
  unfold State.watchExpiry
  split
  · exact hs
  · split
    · exact h.watchExpired z hs
    · exact hs

theorem unexpectedPassage (z : Nat) (hs : P s) : P (s.unexpectedPassage z) :=
  h.pulse _ (h.askHold _ (h.notice _ (h.raiseFault z _ hs)))

theorem doublePassage (z b : Nat) (hs : P s) : P (s.doublePassage z b) :=
  h.pulse _ (h.askStop _ (h.notice _ (h.raiseFault z _ hs)))

theorem firstPassage (b y : Nat) (hs : P s) : P (s.firstPassage b y) := by
  have h1 := h.putRel b none hs
  unfold State.firstPassage
  dsimp only
  split
  · exact h1
  · split
    · exact h.launchDeparted _ b h1
    · split
      · exact h1
      · exact h.handRest _ _ rfl h1

theorem clearTrip (b z : Nat) (hs : P s) : P (s.clearTrip b z) := by
  unfold State.clearTrip
  split
  · exact h.tripBoat b _ (fun _ => ⟨rfl, rfl, rfl, rfl⟩) hs
  · exact hs

theorem skipZone (b z : Nat) (hs : P s) : P (s.skipZone b z) := h.notice _ (h.raiseFault _ _ (h.unreserve z hs))

theorem handEntry (b y z : Nat) (g a k : Bool) (hs : P s) : P (s.handEntry b y z g a k) := by
  have h1 : P ((if g then s.firstPassage b y else s).clearTrip b z) := by
    refine h.clearTrip b z ?_
    split
    · exact h.firstPassage b y hs
    · exact hs
  unfold State.handEntry
  revert h1
  generalize (if g then s.firstPassage b y else s).clearTrip b z = t
  intro h1
  dsimp only
  have h2 : P (if k then t.askHold .passage else t) := by
    split
    · exact h.askHold _ h1
    · exact h1
  have h3 := h.pulse (.passage z) (h.runLeft h.putRun y (Base.toBerth (P := P) z h.berthArrive
    (Base.toBerth (P := P) y h.berthLeft h2)))
  split
  · exact h.autoRequest h.setQueue b (h.launchArrived 1 b (h.launchArrived 0 b h3))
  · exact h3

theorem clearDefined (z : Nat) (hs : P s) : P (s.clearDefined z) := by
  have h1 : P (s.modZs z fun q => { q with fault := none, latch := false }) := h.setZsLoose z _ ⟨rfl, .inl rfl⟩ hs
  unfold State.clearDefined
  dsimp only
  refine Base.toBerth (P := P) _ h.berthCleared ?_
  split
  · exact h1
  · split
    · exact h.startWatch z (h.tripBoat _ _ (fun _ => ⟨rfl, rfl, rfl, rfl⟩) h1)
    · exact h1

theorem clearZone (z : Nat) (hs : P s) : P (s.clearZone z).1 := by
  unfold State.clearZone
  split
  · exact hs
  · exact h.clearDefined z hs

end Modal

end Sys2Proof.Machine
end

