-- ==== Sys2Proof/Laws/Site.lean ====
section
/-! SUPPORT. What the commands of the site (`Instr.atSite`: node records, timers, ESTOP, transmitters and the steps that
place what waits) can change, said once: `Site P` lists the updates they make above `Modal`, with what holds where each is
made, and `Site.exec` is the inversion. -/

namespace Sys2Proof.Machine

variable {P : State → Prop}

/-- The property is kept by every update that the commands `Instr.atSite` lists make, but for the entry of a boat. -/
structure Site (P : State → Prop) : Prop extends Modal P where
  at_ : ∀ {s} t, P s → P (s.at_ t)
  setRoster : ∀ {s} n q, P s → P (s.putNode n q)
  putInputs : ∀ {s} n x, P s → P (s.putInputs n x)
  keepCmds : ∀ {s : State} p, P s → P { s with cmds := s.cmds.filter p }
  confirm : ∀ {s} a, (s.authE a).isSome = true → P s → P (s.putAct a { s.actS a with confirmed := true })
  estop : ∀ {s : State} x, P s → P (s.modMc fun m => { m with estop := x })
  checkNext : ∀ {s : State} c n, s.mc.check = some c → P s → P (s.modMc fun m => { m with check := some { c with item := n } })
  checkFailed : ∀ {s : State} n f, s.mc.check.isSome = true → P s → P (s.checkFailed n f)
  checkPassed : ∀ {s : State}, s.mc.check.isSome = true → P s → P s.checkPassed
  sentUp : ∀ {s : State}, P s → P { s with up := { s.up with tx := none } }
  sentDn : ∀ {s : State} l, P s → P { s with resendDue := l, dn := { s.dn with tx := none } }
  setResendDue : ∀ {s : State} l, P s → P { s with resendDue := l }

/-- The property is kept by the entry of a boat as well. -/
structure Field (P : State → Prop) : Prop extends Site P where
  moveZones : ∀ {s : State} b z x rest st, (s.zst z).reserved = some b → s.boatR b = some x → P s →
    P (((s.modZs x.zone fun q => { q with occupant := none, watch := none }).modZs z fun q =>
      { q with reserved := none, occupant := some b }).modBoat b fun x =>
        { x with path := rest, zone := z, entryTime := s.now, state := st })

/-- What a rejoin re-sends is what the actuators hold (R134). -/
theorem resendList_commanded (s : State) (n : Nat) : ∀ p ∈ s.resendList n, (s.actS p.1).commanded = some p.2 := by
  intro p hp
  unfold State.resendList at hp
  rw [List.mem_filterMap] at hp
  obtain ⟨a, _, hp⟩ := hp
  rw [Option.bind_eq_some_iff] at hp
  obtain ⟨e, _, hp⟩ := hp
  split at hp
  · rw [Option.map_eq_some_iff] at hp
    obtain ⟨v, hv, rfl⟩ := hp
    exact hv
  · cases hp

namespace Site

variable (h : Site P) {s : State}
include h

/-! ### The roster and acknowledgements -/

theorem setNode (n : Nat) (f : NodeStatus → NodeStatus) (hs : P s) : P (s.modNode n f) := h.setRoster n _ hs

theorem failThrowsOn (n : Nat) (hs : P s) : P (s.failThrowsOn n) := by
  unfold State.failThrowsOn
  refine foldl_keeps (P := P) (fun t a ht => ?_) _ hs
  split
  · exact h.failThrows h.setQueue a ht
  · exact ht

theorem reportFailed (e : CmdEntry) (hs : P s) : P (s.reportFailed e) := by
  unfold State.reportFailed
  split
  · exact Quiet.finSettled h.putRun _ hs
  · exact h.failThrows h.setQueue _ hs
  · exact h.failThrows h.setQueue _ hs
  · exact hs

theorem closeEntries (n : Nat) (hs : P s) : P (s.closeEntries n) := by
  unfold State.closeEntries
  exact foldl_keeps (P := P) (fun _ e ht => h.reportFailed e ht) _ (h.keepCmds _ hs)

theorem reportRoster (n : Nat) (o w : Roster) (hs : P s) : P (s.reportRoster n o w) := by
  have h1 := h.evalNodeHolds n hs
  unfold State.reportRoster
  split
  · exact hs
  · dsimp only
    have h2 : P (if o = .active then ((s.evalNodeHolds n).failThrowsOn n).abortChargesOn n else s.evalNodeHolds n) := by
      split
      · exact h.abortChargesOn n (h.failThrowsOn n h1)
      · exact h1
    split
    · exact h.closeEntries n h2
    · exact h2

theorem changeNode (n : Nat) (w : Roster) (r : Option NodeReason) (hs : P s) : P (s.changeNode n w r) := by
  unfold State.changeNode
  refine h.reportRoster n _ _ ?_
  unfold State.nodeNotice
  split
  · exact h.setNode n _ hs
  · exact h.notice _ (h.setNode n _ hs)

theorem lostHold (b : Block) (hs : P s) : P (s.lostHold b) := by
  unfold State.lostHold
  split
  · exact h.askHold b hs
  · exact hs

theorem signOfLife (n : Nat) (hs : P s) : P (s.signOfLife n) := by
  unfold State.signOfLife
  split
  · exact hs
  · have h1 : P (s.modNode n fun q => { q with lastHeard := some s.now }) := h.setNode n _ hs
    dsimp only
    split
    · exact h.changeNode n _ _ h1
    · exact h1

theorem heard (src : Nat) (hs : P s) : P (s.heard src) := by
  unfold State.heard
  split
  · exact hs
  · exact h.signOfLife _ hs

theorem join (n : Nat) (hs : P s) : P (s.join n) := h.handLimit n (h.changeNode n _ _ hs)

theorem takeHello (src k : Nat) (hs : P s) : P (s.takeHello src k) := by
  unfold State.takeHello
  split
  · exact h.bump _ hs
  · split
    · exact h.bump _ hs
    · split
      · exact hs
      · split
        · exact h.notice _ hs
        · exact h.join _ (h.setNode _ _ hs)

theorem takeLimitAck (src : Nat) (hs : P s) : P (s.takeLimitAck src) := by
  unfold State.takeLimitAck
  split
  · exact hs
  · next n _ =>
    have h1 := h.signOfLife n hs
    dsimp only
    split
    · exact h.notice _ (h.handAgain _ (resendList_commanded _ _) (h.changeNode n _ _ h1))
    · exact h1

theorem joinExpiry (n : Nat) (hs : P s) : P (s.joinExpiry n) := by
  unfold State.joinExpiry
  split
  · exact h.changeNode n _ _ hs
  · exact hs

theorem silentExpiry (n : Nat) (hs : P s) : P (s.silentExpiry n) := by
  unfold State.silentExpiry
  split
  · exact h.changeNode n _ _ hs
  · exact hs

theorem lostExpiry (n : Nat) (hs : P s) : P (s.lostExpiry n) := by
  unfold State.lostExpiry
  split
  · exact h.lostHold _ (h.changeNode n _ _ hs)
  · exact hs

theorem takeHeartbeat (src : Nat) (x : BitVec 4) (hs : P s) : P (s.takeHeartbeat src x) := by
  unfold State.takeHeartbeat
  split
  · exact hs
  · next n _ =>
    have h1 := h.signOfLife n hs
    dsimp only
    split
    · exact h.putInputs n x h1
    · exact h1

theorem gateOpened (a : Nat) (hs : P s) : P (s.gateOpened a) := by
  unfold State.gateOpened
  refine foldl_keeps (P := P) (fun t p ht => ?_) _ hs
  split
  · split
    · exact ht
    · split
      · exact h.startWatch _ ht
      · exact ht
  · exact ht

theorem thrown (b : Nat) (hs : P s) : P (s.thrown b) := by
  unfold State.thrown
  split
  · exact hs
  · split
    · split
      · exact hs
      · exact h.openGate _ _ (by assumption) hs
    · exact h.undoGrant h.setQueue b hs
    all_goals exact hs

theorem lampCompleted (a : Nat) (hs : P s) : P (s.lampCompleted a) := by
  unfold State.lampCompleted
  refine foldl_keeps (P := P) (fun t b ht => ?_) _ hs
  split
  · exact h.setBerth b _ ht
  · exact ht

theorem lockCompleted (a : Nat) (hs : P s) : P (s.lockCompleted a) := by
  unfold State.lockCompleted
  refine foldl_keeps (P := P) (fun t b ht => ?_) _ hs
  split
  · exact h.takePending b (h.trySecure b (h.setBerth b _ ht))
  · exact ht

theorem reportDone (e : CmdEntry) (hs : P s) : P (s.reportDone e) := by
  unfold State.reportDone
  split
  · exact h.gateOpened _ hs
  · exact hs
  · exact Quiet.finSettled h.putRun _ hs
  · exact hs
  · exact h.lampCompleted _ hs
  · exact h.lampCompleted _ hs
  · exact h.lampCompleted _ hs
  · exact h.lockCompleted _ hs
  · exact h.lockCompleted _ hs
  · exact foldl_keeps (P := P) (fun _ b ht => h.thrown b ht) _ hs
  · exact foldl_keeps (P := P) (fun _ b ht => h.thrown b ht) _ hs
  all_goals exact hs

theorem complete (e : CmdEntry) (he : (s.authE e.act).isSome = true) (hs : P s) : P (s.complete e) :=
  h.reportDone e (h.confirm e.act he (h.keepCmds _ hs))

theorem fail (e : CmdEntry) (r : FailReason) (hs : P s) : P (s.fail e r) := by
  have h1 : P ((s.removeEntry e.act).reportFailed e) := h.reportFailed e (h.keepCmds _ hs)
  unfold State.fail
  dsimp only
  split
  · exact h1
  · exact h.lostHold _ (h.changeNode _ _ _ (h.setNode _ _ (h.notice _ h1)))

end Site

/-- A matched acknowledgement's entry is of a defined actuator (R130). -/
theorem ackMatch_defined {s : State} {src num t : Nat} {e : CmdEntry} (hm : s.ackMatch src num t = some e) :
    (s.authE e.act).isSome = true := by
  unfold State.ackMatch at hm
  rw [Option.bind_eq_some_iff] at hm
  obtain ⟨a, ha, hf⟩ := hm
  rw [Option.bind_eq_some_iff] at ha
  obtain ⟨n, _, hn⟩ := ha
  have h1 := List.find?_some hf
  have h2 := List.find?_some hn
  simp only [Bool.and_eq_true, beq_iff_eq] at h1
  rw [h1.1.1]
  cases ho : s.authE a
  · rw [ho] at h2; simp at h2
  · rfl

namespace Site

variable (h : Site P) {s : State}
include h

theorem takeAck (src num t : Nat) {use : State → CmdEntry → State}
    (hu : ∀ {s : State} e, (s.authE e.act).isSome = true → P s → P (use s e)) (hs : P s) : P (s.takeAck src num t use) := by
  have h1 := h.heard src hs
  unfold State.takeAck
  dsimp only
  split
  · exact h.bump _ h1
  · split
    · exact h.bump _ h1
    · next e he => exact hu e (ackMatch_defined he) h1

theorem ackAccepted (src num t : Nat) (hs : P s) : P (s.ackAccepted src num t) :=
  h.takeAck src num t (fun e he hs => h.complete e he hs) hs

theorem ackRefused (src num t : Nat) (hs : P s) : P (s.ackRefused src num t) :=
  h.takeAck src num t (fun e _ hs => h.fail e _ hs) hs

theorem ackExpiry (a : Nat) (hs : P s) : P (s.ackExpiry a) := by
  unfold State.ackExpiry
  split
  · exact hs
  · split
    · exact h.fail _ _ hs
    · exact hs

theorem takeCheckItem (hs : P s) : P s.takeCheckItem := by
  unfold State.takeCheckItem
  split
  · exact hs
  · next c hc =>
    split
    · exact h.checkFailed _ _ (by rw [hc]; rfl) hs
    · split
      · have := h.checkNext c (c.item + 1) hc hs
        exact this
      · exact h.checkPassed (by rw [hc]; rfl) hs

theorem estopOn (hs : P s) : P s.estopOn := h.goStop _ (h.estop true hs)

theorem auxExpiry (u : Nat) (hs : P s) : P (s.auxExpiry u) := by
  unfold State.auxExpiry
  split
  · exact h.loosePulse _ _ hs
  · exact hs

theorem sent (p : Port) (hs : P s) : P (s.sent p) := by
  unfold State.sent
  split
  · exact h.pumpUp (h.sentUp hs)
  · exact h.pumpDn (h.sentDn _ hs)

theorem resend (hs : P s) : P s.resend := by
  refine h.handAgain _ (fun p hp => ?_) (h.setResendDue [] hs)
  rw [List.mem_filterMap] at hp
  obtain ⟨a, _, hp⟩ := hp
  rw [Option.map_eq_some_iff] at hp
  obtain ⟨v, hv, rfl⟩ := hp
  exact hv

/-! ### Every command of the site -/

theorem command (t : Nat) (f : State → State) (hf : ∀ {s}, P s → P (f s)) {u : State} (hu : s.command t f = .next u)
    (hs : P s) : P u := by
  unfold State.command at hu
  injection hu with hu
  subst hu
  exact h.event hf (h.at_ t hs)

/-- What the commands of the site keep; the entry of a boat is the MARKER's own matter. -/
theorem exec (c : Instr) (hc : c.atSite = true)
    (hm : ∀ {s} src n e, (∃ t, c = .marker t src n e) → P s → P (s.takeMarker src n e)) {u : State}
    (hu : Machine.exec c s = .next u) (hs : P s) : P u := by
  cases c with
  | powerOn _ _ _ _ => cases hc
  | estopAsserted t => exact h.command t _ (fun hs => h.estopOn hs) hu hs
  | estopReleased t => exact h.command t _ (fun hs => h.estop false hs) hu hs
  | frameReceived _ _ _ _ => cases hc
  | frameSent t p => exact h.command t _ (fun hs => h.sent p hs) hu hs
  | actuatorFramePlace t => exact h.command t _ (fun hs => h.pumpDn hs) hu hs
  | responsePlace t => exact h.command t _ (fun hs => h.pumpUp hs) hu hs
  | noticeFrameBuild t => exact h.command t _ (fun hs => h.pumpUp hs) hu hs
  | supervisorCommandResend t => exact h.command t _ (fun hs => h.resend hs) hu hs
  | marker t a b c => exact h.command t _ (fun hs => hm _ _ _ ⟨t, rfl⟩ hs) hu hs
  | trap t a b c => exact h.command t _ (fun hs => h.takeTrap _ _ _ hs) hu hs
  | berth t a b c d => exact h.command t _ (fun hs => h.takeBerth _ _ _ _ hs) hu hs
  | weight t a b c d => exact h.command t _ (fun hs => h.takeWeight _ _ _ _ hs) hu hs
  | tag t a b c => exact h.command t _ (fun hs => h.takeTag _ _ _ hs) hu hs
  | boosterReady t a b => exact h.command t _ (fun hs => h.takeReady _ _ hs) hu hs
  | boosterDone t a b => exact h.command t _ (fun hs => h.takeDone _ _ hs) hu hs
  | heartbeat t a b => exact h.command t _ (fun hs => h.takeHeartbeat _ _ hs) hu hs
  | hello t a b => exact h.command t _ (fun hs => h.takeHello _ _ hs) hu hs
  | limitAck t a => exact h.command t _ (fun hs => h.takeLimitAck _ hs) hu hs
  | ackAccepted t a b c => exact h.command t _ (fun hs => h.ackAccepted _ _ _ hs) hu hs
  | ackRefused t a b c => exact h.command t _ (fun hs => h.ackRefused _ _ _ hs) hu hs
  | ackTimerExpiry t a => exact h.command t _ (fun hs => h.ackExpiry a hs) hu hs
  | joinTimerExpiry t n => exact h.command t _ (fun hs => h.joinExpiry n hs) hu hs
  | nodeSilent t n => exact h.command t _ (fun hs => h.silentExpiry n hs) hu hs
  | nodeLostSilence t n => exact h.command t _ (fun hs => h.lostExpiry n hs) hu hs
  | watchExpiry t z => exact h.command t _ (fun hs => h.watchExpiry z hs) hu hs
  | chargeTimerExpiry t k => exact h.command t _ (fun hs => h.chargeExpiry k hs) hu hs
  | doneTimerExpiry t k => exact h.command t _ (fun hs => h.doneExpiry k hs) hu hs
  | cooldownExpiry t k => exact h.command t _ (fun hs => h.cooldownExpiry k hs) hu hs
  | auxPulseExpiry t x => exact h.command t _ (fun hs => h.auxExpiry x hs) hu hs
  | checkItem t => exact h.command t _ (fun hs => h.takeCheckItem hs) hu hs
  | selectTable _ _ _ => cases hc
  | selectIndex _ _ _ => cases hc
  | write _ _ _ => cases hc
  | read _ _ => cases hc
  | modeConfig _ _ => cases hc
  | modeRun _ _ => cases hc
  | modeHold _ _ => cases hc
  | modeResume _ _ => cases hc
  | modeStop _ _ => cases hc
  | placeBoat _ _ _ _ _ _ => cases hc
  | retireBoat _ _ _ => cases hc
  | setRoute _ _ _ _ => cases hc
  | clearZone _ _ _ => cases hc
  | injectTrigger _ _ _ => cases hc
  | clearCounters _ _ => cases hc
  | noticeMask _ _ _ => cases hc
  | status _ _ => cases hc
  | resetRuntime _ _ => cases hc
  | resetFull _ _ => cases hc

end Site

end Sys2Proof.Machine
end

