-- ==== Sys2Proof/Laws/Whole.lean ====
section
/-! SUPPORT. What a step can change, said once: `Whole P` lists every update out of which the commands are made, with what
holds where it is made; a property that all of them keep is kept by every step (`Whole.step`). -/

namespace Sys2Proof.Machine

variable {P : State → Prop}

/-- The property is kept by every update of the state that some command but POWER_ON makes. -/
structure Whole (P : State → Prop) : Prop extends Field P where
  setPending : ∀ {s : State} q, P s → P { s with pending := q }
  addBoat : ∀ {s : State} b (x : Boat), 1 ≤ b → b ≤ 24 → s.stoppable x.zone = true → s.boatR b = none →
    s.occupant x.zone = none → (s.zst x.zone).reserved = none → P s →
    P ((s.putBoat b (some x)).modZs x.zone fun q => { q with occupant := some b })
  dropBoat : ∀ {s : State} b x, s.boatR b = some x → P s →
    P ((s.modZs x.zone fun q => { q with occupant := none, watch := none }).putBoat b none)
  reroute : ∀ {s} b r, P s → P (s.modBoat b fun x => { x with route := r })
  adopt : ∀ {s} a e v, s.authE a = some e → v.kind = e.kind → P s → P (s.putAct a ⟨some v, false⟩)
  stopWatches : ∀ {s}, P s → P s.stopWatches
  changeMode : ∀ {s} m c, s.mode ≠ .checking → m ≠ .checking → P s → P (s.changeMode m c)
  holdPending : ∀ {s : State}, P s → P (s.modMc fun m => { m with holdPending := true })
  checkBegin : ∀ {s : State}, s.mode = .config → P s → P s.checkBegin
  modTab : ∀ {s : State} f, (∀ t : Tables, (f t).auth = t.auth) → P s → P (s.modTab f)
  storeAuth : ∀ {s : State} a x, P s → P (s.storeAuth a x)
  wipe : ∀ {s : State}, P s → P s.wipe
  resetFull : ∀ {s : State}, P s → P s.resetFull
  setReq : ∀ {s : State} r, (∀ x, r = some x → x.count ≤ 8 ∨ ∃ y, s.req = some y ∧ x.count ≤ y.count) → P s →
    P { s with req := r }
  setPtr : ∀ {s : State} p, P s → P { s with ptr := p }
  setHolder : ∀ {s : State} p, P s → P { s with holder := p }
  setMask : ∀ {s : State} p, P s → P { s with mask := p }
  setHeld : ∀ {s : State} p, P s → P { s with held := p }
  clearCounters : ∀ {s : State}, P s → P { s with counters := Vector.replicate 21 0 }
  joinUp : ∀ {s : State} f, s.up.fwd.length < 8 → P s → P { s with up := { s.up with fwd := s.up.fwd ++ [f] } }
  joinDn : ∀ {s : State} f, s.dn.fwd.length < 8 → P s → P { s with dn := { s.dn with fwd := s.dn.fwd ++ [f] } }

/-! ### Facts about where updates are made -/

/-- A skipped zone keeps the reservations of the others and every boat record. -/
theorem skipZone_reserved (s : State) (b w z : Nat) (hw : w ≠ z) :
    ((s.skipZone b w).zst z).reserved = (s.zst z).reserved ∧ (s.skipZone b w).boats = s.boats := by
  have hn : ∀ (t : State) (n : Notice), (t.notice n).zs = t.zs ∧ (t.notice n).boats = t.boats := by
    intro t n
    unfold State.notice
    split
    · exact ⟨rfl, rfl⟩
    · split
      · have hb : ∀ u : State, u.buildNotice.zs = u.zs ∧ u.buildNotice.boats = u.boats := by
          intro u; unfold State.buildNotice; split <;> exact ⟨rfl, rfl⟩
        have hp : ∀ u : State, u.placeHeld.zs = u.zs ∧ u.placeHeld.boats = u.boats := by
          intro u; unfold State.placeHeld; split
          · exact ⟨rfl, rfl⟩
          · split <;> exact ⟨rfl, rfl⟩
        simp only [State.pumpUp, State.fillUp, State.startUp, hb, hp, and_self]
      · exact ⟨rfl, rfl⟩
  unfold State.skipZone
  have hr : ∀ (t : State), ((t.raiseFault w .missed).zst z).reserved = (t.zst z).reserved ∧
      (t.raiseFault w .missed).boats = t.boats := by
    intro t
    unfold State.raiseFault
    split
    · exact ⟨rfl, rfl⟩
    · refine ⟨?_, rfl⟩
      unfold State.modZs
      rw [zst_setZs]
      simp [Ne.symm hw]
  have hu : ((s.unreserve w).zst z).reserved = (s.zst z).reserved := by
    unfold State.unreserve State.modZs
    rw [zst_setZs]
    simp [Ne.symm hw]
  constructor
  · have := (hn ((s.unreserve w).raiseFault w .missed) (.missed w b)).1
    unfold State.zst at *
    rw [this]
    exact ((hr (s.unreserve w)).1).trans hu
  · exact ((hn _ _).2).trans (hr (s.unreserve w)).2

/-- Skipping zones that are not `z` keeps `z`'s reservation and every boat record. -/
theorem skipZones_reserved (b z : Nat) (l : List Nat) (hl : ∀ w ∈ l, w ≠ z) (s : State) :
    ((l.foldl (fun s w => s.skipZone b w) s).zst z).reserved = (s.zst z).reserved ∧
      (l.foldl (fun s w => s.skipZone b w) s).boats = s.boats := by
  induction l generalizing s with
  | nil => exact ⟨rfl, rfl⟩
  | cons w l ih =>
    have h1 := ih (fun v hv => hl v (List.mem_cons_of_mem _ hv)) (s.skipZone b w)
    have h2 := skipZone_reserved s b w z (hl w List.mem_cons_self)
    exact ⟨h1.1.trans h2.1, h1.2.trans h2.2⟩

/-- A value read from a command record is of its actuator's kind (R125). -/
theorem ofCode_kind {k : ActKind} {c t : Nat} {v : ActValue} (hv : ActValue.ofCode k c t = some v) : v.kind = k := by
  unfold ActValue.ofCode at hv
  split at hv <;> first | (cases hv; rfl) | cases hv

/-- A boat's entry: its zones and record, then the watch of a zone in which it cannot be held (R27, R34). -/
theorem Field.moveBoat (h : Field P) {s : State} (b z : Nat) (x : Boat) (rest : List Nat)
    (hr : (s.zst z).reserved = some b) (hx : s.boatR b = some x) (hs : P s) : P (s.moveBoat b z x rest) := by
  have h1 := h.moveZones b z x rest (if rest = [] then .waiting else .moving) hr hx hs
  have ite_keeps : ∀ {c : Prop} [Decidable c] {a b : State}, P a → P b → P (if c then a else b) := by
    intro c _ a b ha hb
    split
    · exact ha
    · exact hb
  exact ite_keeps h1 (h.startWatch z h1)

namespace Whole

variable (h : Whole P) {s : State}
include h

/-! ### Passages and the boat register -/

theorem enter (b z : Nat) (x : Boat) (hr : (s.zst z).reserved = some b) (hx : s.boatR b = some x) (hs : P s) :
    P (s.enter b z x) := by
  have hl : ∀ w ∈ x.path.takeWhile (· != z), w ≠ z := by
    intro w hw
    have := List.mem_takeWhile_imp hw
    simpa using this
  have hk := skipZones_reserved b z _ hl s
  have h1 : P ((x.path.takeWhile (· != z)).foldl (fun s w => s.skipZone b w) s) :=
    foldl_keeps (P := P) (fun _ w ht => h.skipZone b w ht) _ hs
  unfold State.enter
  dsimp only
  refine h.handEntry _ _ _ _ _ _ (h.moveBoat b z x _ (hk.1.trans hr) ?_ h1)
  unfold State.boatR
  rw [hk.2]
  exact hx

theorem passage (z : Nat) (hs : P s) : P (s.passage z) := by
  unfold State.passage
  split
  · next hr =>
    split
    · exact hs
    · next x hx =>
      split
      · exact h.enter _ z x hr hx hs
      · exact hs
  · split
    · exact hs
    · split
      · exact h.bump _ hs
      · exact h.doublePassage z _ hs
  · exact h.unexpectedPassage z hs

theorem takeMarker (src n e : Nat) (hs : P s) : P (s.takeMarker src n e) := by
  unfold State.takeMarker
  split
  · exact h.bump _ hs
  · split
    · exact h.bump _ hs
    · split
      · exact hs
      · split
        · exact h.bump _ hs
        · exact h.passage _ hs

theorem placeBoat (b c z r : Nat) (hs : P s) : P (s.placeBoat b c z r).1 := by
  unfold State.placeBoat
  dsimp only
  split
  · exact hs
  · next hc =>
    have hc : s.placeResult b c z r = .ok := by simpa using hc
    have hm : s.mode = .config := by
      by_contra hm
      revert hc hm
      unfold State.placeResult
      cases s.mode <;> simp
    unfold State.placeResult at hc
    rw [hm] at hc
    dsimp only at hc
    split at hc
    · cases hc
    · next h0 =>
      split at hc
      · cases hc
      · next h1 =>
        split at hc
        · cases hc
        · next h2 =>
          split at hc
          · cases hc
          · next h3 =>
            refine Base.toBerth (P := P) z h.berthArrive (h.addBoat b (Boat.placed c z _ s.now) ?_ ?_ ?_ ?_ ?_ ?_ hs)
            · omega
            · omega
            · show s.stoppable z = true
              simpa using h1
            · cases hb : s.boatR b
              · rfl
              · simp [hb] at h2
            · show s.occupant z = none
              cases ho : s.occupant z
              · rfl
              · simp [ho] at h3
            · show (s.zst z).reserved = none
              cases ho : (s.zst z).reserved
              · rfl
              · simp [ho] at h3

theorem retireBoat (b : Nat) (hs : P s) : P (s.retireBoat b).1 := by
  unfold State.retireBoat
  dsimp only
  split
  · exact hs
  · next x hx =>
    split
    · exact hs
    · exact h.runLeft h.putRun _ (Base.toBerth (P := P) _ h.berthRetired (h.dropBoat b x hx hs))

/-! ### The table check, ESTOP, and the resets -/

theorem thenStop (hs : P s) : P s.thenStop := by
  unfold State.thenStop
  split
  · exact h.event (fun hs => h.goStop _ hs) hs
  · exact hs

theorem resetHands (hs : P s) : P s.resetHands := by
  unfold State.resetHands
  exact h.closeGates (h.engageRun h.putRun 1 (h.engageRun h.putRun 0 (h.handBooster 1 _ rfl (h.handBooster 0 _ rfl
    (foldl_keeps (P := P) (fun _ b ht => h.handBoth b ht) _ hs)))))

theorem resetRuntime (hs : P s) : P s.resetRuntime := by
  unfold State.resetRuntime
  exact h.clearEv (h.driveLines (h.evalUserHolds (foldl_keeps (P := P) (fun _ p ht => h.evalNodeHold p.1 ht) _
    (h.resetHands (h.wipe hs)))))

theorem doReset (k : ResetKind) (hs : P s) : P (s.doReset k) := by
  unfold State.doReset
  split
  · exact h.thenStop (h.resetRuntime hs)
  · exact h.thenStop (h.resetFull hs)

/-! ### Table writes -/

theorem closeNamedGate (e : ZoneEntry) (hs : P s) : P (s.closeNamedGate e) := by
  unfold State.closeNamedGate
  split
  · exact hs
  · split
    · exact hs
    · exact h.handRest _ _ rfl hs

theorem storeZone (z : Nat) (x : Option ZoneEntry) (hx : x = none → s.zoneBusy z = false) (hs : P s) :
    P (s.storeZone z x) := by
  have h1 : P (s.modTab fun t => { t with zone := t.zone.setIfInBounds z x }) := h.modTab _ (fun _ => rfl) hs
  unfold State.storeZone
  dsimp only
  split
  · refine h.setZsLoose z _ ⟨?_, .inr (.inl rfl)⟩ h1
    have hb := hx rfl
    unfold State.zoneBusy at hb
    have : s.occupant z = none := by
      cases ho : s.occupant z
      · rfl
      · simp [ho] at hb
    exact this.symm
  · exact h.closeNamedGate _ (h.evalNodeHold z h1)

theorem dropNode (n : Nat) (hs : P s) : P (s.dropNode n) := h.reportRoster n _ _ (h.putInputs n 0 (h.setRoster n _ hs))

theorem storeNode (n : Nat) (x : Option NodeEntry) (hs : P s) : P (s.storeNode n x) := by
  have h1 : P (s.modTab fun t => { t with node := t.node.setIfInBounds n x }) := h.modTab _ (fun _ => rfl) hs
  unfold State.storeNode
  dsimp only
  split
  · split
    · split
      · exact h.handLimit n h1
      · exact h1
    · exact h.dropNode n h1
  · exact h.dropNode n h1

theorem rewriteRun (r : Nat) (hs : P s) : P (s.rewriteRun r) := by
  unfold State.rewriteRun
  split
  · exact h.putRun _ _ hs
  · exact h.restoreRun h.putRun r (h.putRun _ _ hs)

theorem storeRun (r : Nat) (x : Option RunEntry) (hs : P s) : P (s.storeRun r x) :=
  h.rewriteRun r (h.modTab _ (fun _ => rfl) hs)

theorem storeStage (i : Nat) (x : StageEntry) (hs : P s) : P (s.storeStage i x) := by
  have h1 : P (s.modTab fun t => { t with stage := t.stage.setIfInBounds i x }) := h.modTab _ (fun _ => rfl) hs
  unfold State.storeStage
  dsimp only
  split
  · exact h.rewriteRun _ h1
  · exact h1

theorem rewriteBerth (b : Nat) (x : Bool) (hs : P s) : P (s.rewriteBerth b x) :=
  h.handBoth b (h.berthArrive b (h.berthDerive b (h.modBerth b _ hs)))

theorem storeBerth (b : Nat) (x : Option BerthEntry) (hs : P s) : P (s.storeBerth b x) := by
  have h1 : P (s.modTab fun t => { t with berth := t.berth.setIfInBounds b x }) := h.modTab _ (fun _ => rfl) hs
  unfold State.storeBerth
  dsimp only
  split
  · exact h.looseBerth _ _ h1
  · exact h.rewriteBerth b _ h1
  · exact h.rewriteBerth b _ h1

omit h in
theorem store {α : Type} {img : Option (α × Bool)} {c : α → Bool} {put : α → State}
    (hp : ∀ e, c e = false → P (put e)) (hs : P s) : P (Machine.store s img c put).1 := by
  unfold Machine.store
  split
  · exact hs
  · split
    · exact hs
    · next hc => exact hp _ (by simpa using hc)

theorem storeEntry (t : Table) (i : Nat) (img : List Byte) (hs : P s) : P (s.storeEntry t i img).1 := by
  unfold State.storeEntry
  split
  · refine Whole.store (fun e hc => h.storeZone i e ?_ hs) hs
    intro he
    subst he
    exact hc
  · exact Whole.store (fun e _ => h.modTab _ (fun _ => rfl) hs) hs
  · exact Whole.store (fun e _ => h.storeNode i e hs) hs
  · exact Whole.store (fun e _ => h.storeAuth i e hs) hs
  · exact Whole.store (fun e _ => h.modTab _ (fun _ => rfl) hs) hs
  · exact Whole.store (fun e _ => h.modTab _ (fun _ => rfl) hs) hs
  · exact Whole.store (fun e _ => h.modTab _ (fun _ => rfl) hs) hs
  · exact Whole.store (fun e _ => h.storeRun i e hs) hs
  · exact Whole.store (fun e _ => h.storeStage i e hs) hs
  · exact Whole.store (fun e _ => h.storeBerth i e hs) hs
  · exact Whole.store (fun e _ => h.modTab _ (fun _ => rfl) hs) hs
  · exact Whole.store (fun e _ => h.modTab _ (fun _ => rfl) hs) hs
  all_goals exact hs

theorem writeEntry (img : List Byte) (hs : P s) : P (s.writeEntry img).1 := by
  unfold State.writeEntry
  split
  · exact hs
  · have h1 := h.storeEntry s.ptr.1 s.ptr.2 img hs
    dsimp only
    split
    · exact h.setPtr _ h1
    · exact h1

/-! ### Management records -/

theorem setRoute (b r : Nat) (hs : P s) : P (s.setRoute b r).1 := by
  unfold State.setRoute
  split
  · exact h.reroute b _ hs
  · exact hs

theorem recordMode (v : Nat) (hs : P s) : P (s.recordMode v).1 := by
  unfold State.recordMode
  split
  · unfold State.recordConfig
    split
    · exact hs
    · exact hs
    · exact hs
    all_goals
      next hm =>
      split
      · exact hs
      · split
        · exact hs
        · dsimp only
          exact h.changeMode _ _ (by rw [hm]; decide) (by decide) hs
  · unfold State.recordRun
    split
    · next hm =>
      split
      · exact hs
      · dsimp only
        exact h.checkBegin hm hs
    · exact hs
    · exact hs
    · next hm =>
      split
      · exact hs
      · dsimp only
        exact h.changeMode _ _ (by rw [hm]; decide) (by decide) hs
    · exact hs
  · unfold State.recordHold
    split
    · exact hs
    · dsimp only
      exact h.holdPending hs
    · next hm =>
      dsimp only
      exact h.changeMode _ _ (by rw [hm]; decide) (by decide) hs
    · exact hs
    · exact hs
  · unfold State.recordResume
    split
    · exact hs
    · exact hs
    · exact hs
    · exact hs
    · next hm =>
      split
      · exact hs
      · split
        · dsimp only
          exact h.changeMode _ _ (by rw [hm]; decide) (by decide) hs
        · dsimp only
          exact h.changeMode _ _ (by rw [hm]; decide) (by decide) hs
  · unfold State.recordStop
    dsimp only
    exact h.goStop _ hs
  · exact hs

theorem readEntry (hs : P s) : P s.readEntry := by
  unfold State.readEntry State.advance
  exact h.setPtr _ (h.setHolder _ hs)

theorem recordInject (c : Nat) (hs : P s) : P (s.recordInject c).1 := by
  unfold State.recordInject
  split
  · exact hs
  · dsimp only
    exact h.pulseChan _ _ hs

theorem recordMask (m : BitVec 24) (hs : P s) : P (s.recordMask m).1 := by
  unfold State.recordMask
  split
  · exact hs
  · exact h.setMask _ hs

theorem carry (m : MgmtRecord) (hs : P s) : P (s.carry m).1 := by
  cases m with
  | selectTable _ => exact hs
  | selectIndex _ => exact hs
  | write img => exact h.writeEntry img hs
  | read => exact h.readEntry hs
  | mode v => exact h.recordMode v hs
  | placeBoat b c z r => exact h.placeBoat b c z r hs
  | retireBoat b => exact h.retireBoat b hs
  | setRoute b r => exact h.setRoute b r hs
  | clearZone z => exact h.clearZone z hs
  | injectTrigger c => exact h.recordInject c hs
  | clearCounters => exact h.clearCounters hs
  | noticeMask m => exact h.recordMask m hs
  | status => exact hs
  | reset _ => exact hs

theorem openRequest (hs : P s) : P s.openRequest := by
  unfold State.openRequest
  split
  · exact hs
  · split
    · exact h.bump _ (h.setReq _ (fun x hx => by cases hx; exact .inl (by decide)) hs)
    · exact h.setReq _ (fun x hx => by cases hx; exact .inl (by decide)) hs

end Whole

/-- Adding results to a request that has fewer than 8 leaves it with at most 8. -/
theorem Request.count_answer {r : Request} (hc : r.count < 8) {l : List MgmtResult} (hl : l.length ≤ r.broken.length + 1)
    {sel : Option Nat} (hsel : sel = none) {k : Option ResetKind} :
    ({ r with results := r.results ++ l, select := sel, reset := k } : Request).count ≤ 8 := by
  subst hsel
  unfold Request.count at *
  simp only [Request.broken, List.length_append, List.length_nil, Nat.add_zero]
  have : r.broken.length = (match r.select with | none => ([] : List MgmtResult) | some _ => [.plain .sequence]).length := rfl
  omega

namespace Whole

variable (h : Whole P) {s : State}
include h

theorem answer (r : Request) (l : List MgmtResult) (hc : r.count < 8) (hl : l.length ≤ r.broken.length + 1) (hs : P s) :
    P (s.answer r l) :=
  h.setReq _ (fun x hx => by cases hx; exact .inl (Request.count_answer hc hl rfl)) hs

theorem takeRecord (m : MgmtRecord) (hs : P s) : P (s.takeRecord m) := by
  unfold State.takeRecord
  split
  · exact hs
  · next r hr =>
    split
    · exact hs
    · split
      · exact h.setReq _ (fun x hx => by cases hx; exact .inr ⟨r, hr, Nat.le_refl _⟩) hs
      · next hc =>
        have hc : r.count < 8 := by simpa [Config.requestCap] using hc
        split
        · exact h.answer r _ hc (by simp) hs
        · split
          · refine h.setReq _ (fun x hx => ?_) hs
            cases hx
            left
            unfold Request.count at *
            simp [Request.broken] at *
            omega
          · unfold State.takeSelectIndex
            split
            · exact h.answer r _ hc (by simp) hs
            · next t ht =>
              dsimp only
              refine h.answer r _ hc (by simp [Request.broken, ht]) ?_
              unfold State.setPointer
              split
              · exact hs
              · split
                · exact h.setPtr _ hs
                · exact hs
          · unfold State.takeReset
            dsimp only
            split
            · refine h.setReq _ (fun x hx => ?_) hs
              cases hx
              left
              rw [List.append_assoc]
              exact Request.count_answer hc (by simp) rfl
            · refine h.setReq _ (fun x hx => ?_) hs
              cases hx
              left
              rw [List.append_assoc]
              exact Request.count_answer hc (by simp) rfl
            · exact h.answer r _ hc (by simp) hs
          · dsimp only
            exact h.answer r _ hc (by simp) (h.carry m hs)

theorem respond (l : List MgmtResult) (hs : P s) : P (s.respond l) := h.pumpUp (h.modEv _ (h.setHeld _ hs))

theorem resetOf (r : Request) (hs : P s) : P (s.resetOf r) := by
  unfold State.resetOf
  split
  · exact hs
  · exact h.doReset _ (h.modEv _ hs)

theorem noReq (hs : P s) : P { s with req := none } := h.setReq none (fun _ hx => by cases hx) hs

theorem closeRequest (hs : P s) : P s.closeRequest := by
  unfold State.closeRequest
  split
  · exact hs
  · split
    · exact h.noReq hs
    · exact h.respond _ (h.noReq (h.resetOf _ hs))

theorem manage (t : Nat) (last : Bool) (m : MgmtRecord) {u : State} (hu : s.manage t last m = .next u) (hs : P s) : P u := by
  have h1 : P (State.event (fun s => s.openRequest.takeRecord m) (s.at_ t)) :=
    h.event (fun hs => h.takeRecord m (h.openRequest hs)) (h.at_ t hs)
  revert hu h1
  unfold State.manage
  generalize State.event (fun s => s.openRequest.takeRecord m) (s.at_ t) = v
  intro hu h1
  cases last <;> cases hu
  · exact h1
  · exact h.closeRequest h1

/-! ### The line -/

theorem takeNodeRecord (own : Bool) (src : Nat) (r : NodeRecord) (hs : P s) : P (s.takeNodeRecord own src r) := by
  unfold State.takeNodeRecord
  split
  · exact h.takeMarker _ _ _ hs
  · exact h.takeTrap _ _ _ hs
  · exact h.takeBerth _ _ _ _ hs
  · exact h.takeWeight _ _ _ _ hs
  · exact h.takeTag _ _ _ hs
  · split
    · exact h.takeReady _ _ hs
    · exact h.takeDone _ _ hs
    · exact h.bump _ hs
  · exact h.takeHeartbeat _ _ hs
  · exact h.takeHello _ _ hs
  · split
    · exact h.takeLimitAck _ hs
    · exact hs
  · split
    · split
      · exact h.ackAccepted _ _ _ hs
      · exact h.ackRefused _ _ _ hs
      · exact h.bump _ hs
    · exact hs

theorem takeNodeRecords (own : Bool) (src : Nat) (l : List RawRecord) (hs : P s) : P (s.takeNodeRecords own src l) := by
  unfold State.takeNodeRecords
  exact foldl_keeps (P := P) (fun _ r ht => h.event (fun hs => h.takeNodeRecord own src r hs) ht) _ hs

theorem forward (p : Port) (f : QFrame) (hs : P s) : P (s.forward p f) := by
  unfold State.forward
  split
  · split
    · next hc => exact h.pumpUp (h.joinUp f hc hs)
    · exact h.bump _ hs
  · split
    · next hc => exact h.pumpDn (h.joinDn f hc hs)
    · exact h.bump _ hs

theorem takeDown (f : List Byte) (hs : P s) : P (s.takeDown f) := by
  unfold State.takeDown
  split
  · dsimp only
    split
    · exact h.bump _ hs
    · exact h.forward _ _ (h.bump _ hs)
  · split
    · split
      · exact h.takeNodeRecords _ _ _ hs
      · exact h.bump _ hs
    · exact h.forward _ _ (h.takeNodeRecords _ _ _ hs)

end Whole

/-- A value passed in CONFIG is of the kind of the defined actuator it is for (R167). -/
theorem commandValues_kind (s : State) (dst : Nat) (l : List RawRecord) (p : Nat × ActValue)
    (hp : p ∈ s.commandValues dst l) : ∃ e, s.authE p.1 = some e ∧ p.2.kind = e.kind := by
  unfold State.commandValues at hp
  rw [List.mem_flatMap] at hp
  obtain ⟨r, _, hp⟩ := hp
  rw [List.mem_filterMap] at hp
  obtain ⟨a, _, hp⟩ := hp
  rw [Option.bind_eq_some_iff] at hp
  obtain ⟨e, he, hp⟩ := hp
  rw [Option.map_eq_some_iff] at hp
  obtain ⟨v, hv, rfl⟩ := hp
  exact ⟨e, he, ofCode_kind hv⟩

/-- Adopting a supervisor's value leaves the tables alone. -/
theorem adopt_tab (s : State) (p : Nat × ActValue) : (s.adopt p).tab = s.tab := by
  unfold State.adopt
  split <;> rfl

namespace Whole

variable (h : Whole P) {s : State}
include h

theorem adoptAll (l : List (Nat × ActValue)) (hl : ∀ p ∈ l, ∃ e, s.authE p.1 = some e ∧ p.2.kind = e.kind) (hs : P s) :
    P (l.foldl State.adopt s) := by
  induction l generalizing s with
  | nil => exact hs
  | cons p l ih =>
    refine ih (s := s.adopt p) (fun q hq => ?_) ?_
    · have := hl q (List.mem_cons_of_mem _ hq)
      unfold State.authE at *
      rw [adopt_tab]
      exact this
    · obtain ⟨e, he, hk⟩ := hl p List.mem_cons_self
      unfold State.adopt
      split
      · exact hs
      · exact h.adopt p.1 e p.2 he hk (h.keepCmds _ hs)

theorem takeCommands (f : List Byte) (q : Option (List RawRecord)) (hs : P s) : P (s.takeCommands f q) := by
  unfold State.takeCommands
  split
  · split
    · exact h.forward _ _ hs
    · exact h.notice _ hs
  · split
    · exact hs
    · split
      · unfold State.passCommands
        exact h.forward _ _ (h.adoptAll _ (fun p hp => commandValues_kind s _ _ p hp) hs)
      · unfold State.filterCommands
        dsimp only
        next l _ _ =>
        have h1 : P ((l.filter (s.removed (frameDst f))).foldl (fun s r => s.reportRemoved (frameDst f) r) s) :=
          foldl_keeps (P := P) (fun _ r ht => h.notice _ (h.bump _ ht)) _ hs
        split
        · exact h1
        · split
          · exact h.forward _ _ h1
          · exact h.forward _ _ h1

theorem takeRequest (q : Option (List RawRecord)) (hs : P s) : P (s.takeRequest q) := by
  have h1 := h.openRequest (h.closeRequest hs)
  unfold State.takeRequest
  dsimp only
  split
  · split
    · exact h.closeRequest h1
    · split
      · exact h.respond _ (h.noReq h1)
      · exact h.closeRequest (foldl_keeps (P := P) (fun _ r ht => h.event (fun hs => h.takeRecord _ hs) ht) _ h1)
  · split
    · exact h.closeRequest h1
    · exact h.respond _ (h.noReq h1)
  · exact h1

theorem takeUp (f : List Byte) (hs : P s) : P (s.takeUp f) := by
  have h1 : P (if (parseFrame f).isNone then s.bump .malformed else s) := by
    split
    · exact h.bump _ hs
    · exact hs
  unfold State.takeUp
  revert h1
  dsimp only
  generalize (if (parseFrame f).isNone then s.bump .malformed else s) = t
  intro h1
  split
  · split
    · exact h.takeRequest _ h1
    · exact h.bump _ h1
  · split
    · exact h.event (fun hs => h.takeCommands f _ hs) h1
    · split
      · exact h.forward _ _ (h.bump _ h1)
      · exact h.forward _ _ h1

theorem takeFrame (p : Port) (f : List Byte) (hs : P s) : P (s.takeFrame p f) := by
  have h1 : P (State.event (fun s => s.heard (frameSrc f)) s) := h.event (fun hs => h.heard _ hs) hs
  unfold State.takeFrame
  dsimp only
  split
  · exact h.takeUp f h1
  · exact h.takeDown f h1

theorem receive (p : Port) (f : List Byte) (b : Bool) (hs : P s) : P (s.receive p f b) := by
  unfold State.receive
  split
  · exact h.bump _ hs
  · split
    · exact h.bump _ hs
    · exact h.takeFrame p f (h.bump _ hs)

/-! ### Every command -/

/-- Every command keeps what each of the updates it is made of keeps. -/
theorem exec (c : Instr) (hp : ∀ {s} a r e, (∃ t, c = .powerOn t a r e) → P s → P (s.powerOn a r e)) {u : State}
    (hu : Machine.exec c s = .next u) (hs : P s) : P u := by
  by_cases hc : c.atSite = true
  · exact h.toSite.exec c hc (fun src n e _ hs => h.takeMarker src n e hs) hu hs
  · cases c with
    | powerOn t a r e =>
      simp only [Machine.exec, execPowerOn] at hu
      injection hu with hu
      subst hu
      exact h.thenStop (hp _ _ _ ⟨t, rfl⟩ (h.at_ t hs))
    | frameReceived t p b f =>
      simp only [Machine.exec, execFrameReceived] at hu
      injection hu with hu
      subst hu
      exact h.receive _ _ _ (h.at_ t hs)
    | estopAsserted _ => exact absurd rfl hc
    | estopReleased _ => exact absurd rfl hc
    | frameSent _ _ => exact absurd rfl hc
    | actuatorFramePlace _ => exact absurd rfl hc
    | responsePlace _ => exact absurd rfl hc
    | noticeFrameBuild _ => exact absurd rfl hc
    | supervisorCommandResend _ => exact absurd rfl hc
    | marker _ _ _ _ => exact absurd rfl hc
    | trap _ _ _ _ => exact absurd rfl hc
    | berth _ _ _ _ _ => exact absurd rfl hc
    | weight _ _ _ _ _ => exact absurd rfl hc
    | tag _ _ _ _ => exact absurd rfl hc
    | boosterReady _ _ _ => exact absurd rfl hc
    | boosterDone _ _ _ => exact absurd rfl hc
    | heartbeat _ _ _ => exact absurd rfl hc
    | hello _ _ _ => exact absurd rfl hc
    | limitAck _ _ => exact absurd rfl hc
    | ackAccepted _ _ _ _ => exact absurd rfl hc
    | ackRefused _ _ _ _ => exact absurd rfl hc
    | ackTimerExpiry _ _ => exact absurd rfl hc
    | joinTimerExpiry _ _ => exact absurd rfl hc
    | nodeSilent _ _ => exact absurd rfl hc
    | nodeLostSilence _ _ => exact absurd rfl hc
    | watchExpiry _ _ => exact absurd rfl hc
    | chargeTimerExpiry _ _ => exact absurd rfl hc
    | doneTimerExpiry _ _ => exact absurd rfl hc
    | cooldownExpiry _ _ => exact absurd rfl hc
    | auxPulseExpiry _ _ => exact absurd rfl hc
    | checkItem _ => exact absurd rfl hc
    | selectTable t l a => exact h.manage t l _ hu hs
    | selectIndex t l a => exact h.manage t l _ hu hs
    | write t l a => exact h.manage t l _ hu hs
    | read t l => exact h.manage t l _ hu hs
    | modeConfig t l => exact h.manage t l _ hu hs
    | modeRun t l => exact h.manage t l _ hu hs
    | modeHold t l => exact h.manage t l _ hu hs
    | modeResume t l => exact h.manage t l _ hu hs
    | modeStop t l => exact h.manage t l _ hu hs
    | placeBoat t l a b c d => exact h.manage t l _ hu hs
    | retireBoat t l a => exact h.manage t l _ hu hs
    | setRoute t l a b => exact h.manage t l _ hu hs
    | clearZone t l a => exact h.manage t l _ hu hs
    | injectTrigger t l a => exact h.manage t l _ hu hs
    | clearCounters t l => exact h.manage t l _ hu hs
    | noticeMask t l a => exact h.manage t l _ hu hs
    | status t l => exact h.manage t l _ hu hs
    | resetRuntime t l => exact h.manage t l _ hu hs
    | resetFull t l => exact h.manage t l _ hu hs

/-- Every step keeps what each of the updates it is made of keeps. -/
theorem step (hp : ∀ {s} a r e, P s → P (s.powerOn a r e)) {u : State} (hu : Machine.step s = .next u) (hs : P s) : P u := by
  unfold Machine.step at hu
  split at hu
  · injection hu with hu
    subst hu
    exact hs
  · exact h.exec _ (fun a r e _ hs => hp a r e hs) hu (h.setPending _ hs)

end Whole

end Sys2Proof.Machine
end

