-- ==== Sys2Proof/Laws/Notices.lean ====
section
/-! SUPPORT. A notice that has been sent stays sent: no update but a reset takes it back. `Sent` is what `State.noticed` says
for an enabled kind, with what makes it last; `Steady` is what has to hold before the notice is raised. Both are kept by
whatever `Modal` lists, so that `State.noticed` follows from the one place where the notice is raised. -/

namespace Sys2Proof.Machine

/-- What stays fixed while notices are sent. -/
structure Steady (s u : State) : Prop where
  addr : u.addr = s.addr
  mask : u.mask = s.mask
  counts : s.counter .noticesDropped ≤ u.counter .noticesDropped ∨ 65535 ≤ s.counter .noticesDropped

/-- What `State.noticed s` says for an enabled kind, with what makes it last. -/
structure Sent (s : State) (n : Notice) (u : State) : Prop extends Steady s u where
  sent : n ∈ u.notices ∨ u.carriesNotice n ∨ s.counter .noticesDropped < u.counter .noticesDropped ∨
    65535 ≤ s.counter .noticesDropped

theorem Steady.refl (s : State) : Steady s s := ⟨rfl, rfl, .inl (Nat.le_refl _)⟩

/-- Nothing but these fields counts. -/
theorem Steady.congr {s u v : State} (h : Steady s u) (ha : v.addr = u.addr) (hm : v.mask = u.mask)
    (hc : v.counters = u.counters) : Steady s v :=
  ⟨ha.trans h.addr, hm.trans h.mask, by unfold State.counter at *; rw [hc]; exact h.counts⟩

/-- Nothing but these fields counts. -/
theorem Sent.congr {s u v : State} {n : Notice} (h : Sent s n u) (ha : v.addr = u.addr) (hm : v.mask = u.mask)
    (hc : v.counters = u.counters) (hu : v.up = u.up) (hn : v.notices = u.notices) : Sent s n v :=
  ⟨h.toSteady.congr ha hm hc, by
    have := h.sent
    unfold State.counter State.carriesNotice State.supervisorFrame at *
    rw [hc, hu, hn, ha]
    exact this⟩

/-- Frames stay with the port: what is in transmission or waits there still does. -/
def PortState.Keeps (p q : PortState) : Prop :=
  ∀ f, p.tx = some f ∨ f ∈ p.origin → q.tx = some f ∨ f ∈ q.origin

/-- The arbiter keeps every frame that the part has placed. -/
theorem start_keeps (p : PortState) : p.Keeps p.start := by
  intro f hf
  unfold PortState.start
  split
  · exact hf
  · next ht =>
    have hf : f ∈ p.origin := by
      rcases hf with hf | hf
      · rw [ht] at hf; cases hf
      · exact hf
    split
    · next g hg =>
      by_cases hfg : f = g
      · left; rw [hfg]
      · right; exact (List.mem_erase_of_ne hfg).mpr hf
    · split
      · exact .inr hf
      · split
        · next g rest ho =>
          rw [ho] at hf
          rcases List.mem_cons.mp hf with hf | hf
          · left; rw [hf]
          · exact .inr hf
        · exact .inr hf

/-- A change of the port that keeps its frames. -/
theorem Sent.port {s u v : State} {n : Notice} (h : Sent s n u) (ha : v.addr = u.addr) (hm : v.mask = u.mask)
    (hc : v.counters = u.counters) (hk : u.up.Keeps v.up) (hn : ∀ x ∈ u.notices, x ∈ v.notices ∨ v.carriesNotice x) :
    Sent s n v :=
  ⟨h.toSteady.congr ha hm hc, by
    rcases h.sent with hs | hs | hs | hs
    · rcases hn n hs with hs | hs
      · exact .inl hs
      · exact .inr (.inl hs)
    · right; left
      obtain ⟨f, hf, l, hl, hb⟩ := hs
      exact ⟨f, hk f hf, l, hl, by rw [hb]; unfold State.supervisorFrame; rw [ha]⟩
    · right; right; left
      unfold State.counter at *; rw [hc]; exact hs
    · exact .inr (.inr (.inr hs))⟩

theorem sent_startUp {s u : State} {n : Notice} (h : Sent s n u) : Sent s n u.startUp :=
  h.port rfl rfl rfl (start_keeps _) fun _ hx => .inl hx

theorem sent_placeHeld {s u : State} {n : Notice} (h : Sent s n u) : Sent s n u.placeHeld := by
  unfold State.placeHeld
  split
  · exact h
  · split
    · refine h.port rfl rfl rfl (fun f hf => ?_) fun _ hx => .inl hx
      exact hf.imp id fun hf => List.mem_append_left _ hf
    · exact h

theorem sent_buildNotice {s u : State} {n : Notice} (h : Sent s n u) : Sent s n u.buildNotice := by
  unfold State.buildNotice
  split
  · exact h
  · refine h.port rfl rfl rfl (fun f hf => hf.imp id fun hf => List.mem_append_left _ hf) fun x hx => ?_
    rw [← List.take_append_drop Config.noticePack u.notices] at hx
    rcases List.mem_append.mp hx with hx | hx
    · right
      exact ⟨_, .inr (List.mem_append_right _ List.mem_cons_self), _, hx, rfl⟩
    · exact .inl hx

theorem sent_queueNotice {s u : State} {n : Notice} (x : Notice) (h : Sent s n u) :
    Sent s n { u with notices := u.notices ++ [x] } :=
  h.port rfl rfl rfl (fun _ hf => hf) fun _ hx => .inl (List.mem_append_left _ hx)

/-- A counter that advances brings nothing back. -/
theorem steady_bump {s u : State} (c : Counter) (h : Steady s u) : Steady s (u.bump c) :=
  ⟨h.addr, h.mask, by
    have h1 := h.counts
    rw [counter_bump]
    split
    · next hc => rw [← hc]; omega
    · exact h1⟩

theorem sent_bump {s u : State} {n : Notice} (c : Counter) (h : Sent s n u) : Sent s n (u.bump c) :=
  ⟨steady_bump c h.toSteady, by
    rcases h.sent with hs | hs | hs | hs
    · exact .inl hs
    · exact .inr (.inl hs)
    · right; right
      rw [counter_bump]
      split
      · next hc => rw [← hc]; omega
      · exact .inl hs
    · exact .inr (.inr (.inr hs))⟩

theorem handRaw_line (s : State) (a : Nat) (v : ActValue) :
    (s.handRaw a v).addr = s.addr ∧ (s.handRaw a v).mask = s.mask ∧ (s.handRaw a v).counters = s.counters ∧
      (s.handRaw a v).up = s.up ∧ (s.handRaw a v).notices = s.notices := by
  unfold State.handRaw
  split
  · exact ⟨rfl, rfl, rfl, rfl, rfl⟩
  · dsimp only
    split <;> exact ⟨rfl, rfl, rfl, rfl, rfl⟩

theorem modBoat_line (s : State) (b : Nat) (f : Boat → Boat) :
    (s.modBoat b f).addr = s.addr ∧ (s.modBoat b f).mask = s.mask ∧ (s.modBoat b f).counters = s.counters ∧
      (s.modBoat b f).up = s.up ∧ (s.modBoat b f).notices = s.notices := by
  unfold State.modBoat State.putBoat
  split
  · exact ⟨rfl, rfl, rfl, rfl, rfl⟩
  · split <;> exact ⟨rfl, rfl, rfl, rfl, rfl⟩

theorem putRel_line (s : State) (b : Nat) (x : Option Release) :
    (s.putRel b x).addr = s.addr ∧ (s.putRel b x).mask = s.mask ∧ (s.putRel b x).counters = s.counters ∧
      (s.putRel b x).up = s.up ∧ (s.putRel b x).notices = s.notices := by
  unfold State.putRel
  split <;> exact ⟨rfl, rfl, rfl, rfl, rfl⟩

/-- A sent notice stays sent. -/
theorem sent_calm (s : State) (n : Notice) : Calm (Sent s n) where
  startUp := sent_startUp
  placeHeld := sent_placeHeld
  buildNotice := sent_buildNotice
  startDn hs := hs.congr rfl rfl rfl rfl rfl
  placeLimit _ _ _ hs := hs.congr rfl rfl rfl rfl rfl
  placeCommands _ _ hs := hs.congr rfl rfl rfl rfl rfl
  queueNotice x _ hs := sent_queueNotice x hs
  dropNotice hs := sent_bump _ hs
  handRaw a v _ hs := by
    obtain ⟨h1, h2, h3, h4, h5⟩ := handRaw_line _ a v
    exact hs.congr h1 h2 h3 h4 h5
  handAny a v _ hs := by
    obtain ⟨h1, h2, h3, h4, h5⟩ := handRaw_line _ a v
    exact hs.congr h1 h2 h3 h4 h5
  modEv _ hs := hs.congr rfl rfl rfl rfl rfl
  putZs _ _ _ hs := hs.congr rfl rfl rfl rfl rfl
  putBerth _ _ _ hs := hs.congr rfl rfl rfl rfl rfl
  putNode _ _ _ hs := hs.congr rfl rfl rfl rfl rfl
  modBoat b f _ hs := by
    obtain ⟨h1, h2, h3, h4, h5⟩ := modBoat_line _ b f
    exact hs.congr h1 h2 h3 h4 h5
  putRel b x hs := by
    obtain ⟨h1, h2, h3, h4, h5⟩ := putRel_line _ b x
    exact hs.congr h1 h2 h3 h4 h5
  filterQueue _ hs := hs.congr rfl rfl rfl rfl rfl
  putSeq _ _ _ _ hs := hs.congr rfl rfl rfl rfl rfl
  driveLines hs := hs.congr rfl rfl rfl rfl rfl
  bump c hs := sent_bump c hs
  useFree hs := hs.congr rfl rfl rfl rfl rfl
  putRun _ _ hs := hs.congr rfl rfl rfl rfl rfl
  setQueue _ _ hs := hs.congr rfl rfl rfl rfl rfl
  looseZs _ _ _ hs := hs.congr rfl rfl rfl rfl rfl
  looseBerth _ _ hs := hs.congr rfl rfl rfl rfl rfl
  looseSeq _ _ _ hs := hs.congr rfl rfl rfl rfl rfl
  loosePulse _ _ hs := hs.congr rfl rfl rfl rfl rfl
  tripBoat b f _ hs := by
    obtain ⟨h1, h2, h3, h4, h5⟩ := modBoat_line _ b f
    exact hs.congr h1 h2 h3 h4 h5
  modMc _ hs := hs.congr rfl rfl rfl rfl rfl

/-- What has to hold before a notice is raised stays so. -/
theorem steady_calm (s : State) : Calm (Steady s) where
  startUp hs := hs.congr rfl rfl rfl
  placeHeld hs := by
    unfold State.placeHeld
    split
    · exact hs
    · split
      · exact hs.congr rfl rfl rfl
      · exact hs
  buildNotice hs := by
    unfold State.buildNotice
    split
    · exact hs
    · exact hs.congr rfl rfl rfl
  startDn hs := hs.congr rfl rfl rfl
  placeLimit _ _ _ hs := hs.congr rfl rfl rfl
  placeCommands _ _ hs := hs.congr rfl rfl rfl
  queueNotice x _ hs := hs.congr rfl rfl rfl
  dropNotice hs := steady_bump _ hs
  handRaw a v _ hs := by
    obtain ⟨h1, h2, h3, _, _⟩ := handRaw_line _ a v
    exact hs.congr h1 h2 h3
  handAny a v _ hs := by
    obtain ⟨h1, h2, h3, _, _⟩ := handRaw_line _ a v
    exact hs.congr h1 h2 h3
  modEv _ hs := hs.congr rfl rfl rfl
  putZs _ _ _ hs := hs.congr rfl rfl rfl
  putBerth _ _ _ hs := hs.congr rfl rfl rfl
  putNode _ _ _ hs := hs.congr rfl rfl rfl
  modBoat b f _ hs := by
    obtain ⟨h1, h2, h3, _, _⟩ := modBoat_line _ b f
    exact hs.congr h1 h2 h3
  putRel b x hs := by
    obtain ⟨h1, h2, h3, _, _⟩ := putRel_line _ b x
    exact hs.congr h1 h2 h3
  filterQueue _ hs := hs.congr rfl rfl rfl
  putSeq _ _ _ _ hs := hs.congr rfl rfl rfl
  driveLines hs := hs.congr rfl rfl rfl
  bump c hs := steady_bump c hs
  useFree hs := hs.congr rfl rfl rfl
  putRun _ _ hs := hs.congr rfl rfl rfl
  setQueue _ _ hs := hs.congr rfl rfl rfl
  looseZs _ _ _ hs := hs.congr rfl rfl rfl
  looseBerth _ _ hs := hs.congr rfl rfl rfl
  looseSeq _ _ _ hs := hs.congr rfl rfl rfl
  loosePulse _ _ hs := hs.congr rfl rfl rfl
  tripBoat b f _ hs := by
    obtain ⟨h1, h2, h3, _, _⟩ := modBoat_line _ b f
    exact hs.congr h1 h2 h3
  modMc _ hs := hs.congr rfl rfl rfl

/-- A notice of an enabled kind that is raised is sent (R180). -/
theorem sent_notice {s u : State} {n : Notice} (h : Steady s u) (hn : s.mask.getLsbD n.kind = true) :
    Sent s n (u.notice n) := by
  unfold State.notice
  rw [if_neg (by rw [h.mask, hn]; decide)]
  split
  · refine (sent_calm s n).pumpUp ⟨h.congr rfl rfl rfl, .inl (List.mem_append_right _ List.mem_cons_self)⟩
  · refine ⟨steady_bump _ h, ?_⟩
    right; right
    rw [counter_bump, if_pos rfl]
    have := h.counts
    omega

/-- A notice that has been sent counts as sent. -/
theorem noticed_of_sent {s u : State} {n : Notice} (h : s.mask.getLsbD n.kind = true → Sent s n u) : s.noticed u n :=
  fun hm => (h hm).sent

end Sys2Proof.Machine
end

