-- ==== Sys2Proof/Laws/PerInstr.lean ====
section
/-! SUPPORT. Statements made command by command, about commands as syntax. -/

namespace Sys2Proof.Laws.F

/-- No word of the table spells the command; it is not both a management record and a command of the site; and only a
management record ends a request frame. -/
def Statement (i : Instr) : Prop :=
  (∀ nbits w, decodeTableWord nbits w ≠ some i) ∧ (i.isManagement && i.atSite) = false ∧
    (i.last = true → i.isManagement = true)

/-- The statement from its two parts that differ from command to command. -/
theorem statement_of {i : Instr} (h1 : (i.isManagement && i.atSite) = false) (h2 : i.last = true → i.isManagement = true) :
    Statement i := ⟨fun _ _ => nofun, h1, h2⟩

theorem powerOn (t addr rate estop) : Statement (.powerOn t addr rate estop) := statement_of rfl (fun h => nomatch h)
theorem estopAsserted (t) : Statement (.estopAsserted t) := statement_of rfl (fun h => nomatch h)
theorem estopReleased (t) : Statement (.estopReleased t) := statement_of rfl (fun h => nomatch h)
theorem frameReceived (t port bytes byteFault) : Statement (.frameReceived t port bytes byteFault) := statement_of rfl (fun h => nomatch h)
theorem frameSent (t port) : Statement (.frameSent t port) := statement_of rfl (fun h => nomatch h)
theorem actuatorFramePlace (t) : Statement (.actuatorFramePlace t) := statement_of rfl (fun h => nomatch h)
theorem responsePlace (t) : Statement (.responsePlace t) := statement_of rfl (fun h => nomatch h)
theorem noticeFrameBuild (t) : Statement (.noticeFrameBuild t) := statement_of rfl (fun h => nomatch h)
theorem supervisorCommandResend (t) : Statement (.supervisorCommandResend t) := statement_of rfl (fun h => nomatch h)
theorem marker (t src sensor edge) : Statement (.marker t src sensor edge) := statement_of rfl (fun h => nomatch h)
theorem trap (t src pair interval) : Statement (.trap t src pair interval) := statement_of rfl (fun h => nomatch h)
theorem berth (t src presence latch button) : Statement (.berth t src presence latch button) := statement_of rfl (fun h => nomatch h)
theorem weight (t src scale kg settled) : Statement (.weight t src scale kg settled) := statement_of rfl (fun h => nomatch h)
theorem tag (t src reader number) : Statement (.tag t src reader number) := statement_of rfl (fun h => nomatch h)
theorem boosterReady (t src num) : Statement (.boosterReady t src num) := statement_of rfl (fun h => nomatch h)
theorem boosterDone (t src num) : Statement (.boosterDone t src num) := statement_of rfl (fun h => nomatch h)
theorem heartbeat (t src inputs) : Statement (.heartbeat t src inputs) := statement_of rfl (fun h => nomatch h)
theorem hello (t src kind) : Statement (.hello t src kind) := statement_of rfl (fun h => nomatch h)
theorem limitAck (t src) : Statement (.limitAck t src) := statement_of rfl (fun h => nomatch h)
theorem ackAccepted (t src num tag) : Statement (.ackAccepted t src num tag) := statement_of rfl (fun h => nomatch h)
theorem ackRefused (t src num tag) : Statement (.ackRefused t src num tag) := statement_of rfl (fun h => nomatch h)
theorem ackTimerExpiry (t a) : Statement (.ackTimerExpiry t a) := statement_of rfl (fun h => nomatch h)
theorem joinTimerExpiry (t n) : Statement (.joinTimerExpiry t n) := statement_of rfl (fun h => nomatch h)
theorem nodeSilent (t n) : Statement (.nodeSilent t n) := statement_of rfl (fun h => nomatch h)
theorem nodeLostSilence (t n) : Statement (.nodeLostSilence t n) := statement_of rfl (fun h => nomatch h)
theorem watchExpiry (t z) : Statement (.watchExpiry t z) := statement_of rfl (fun h => nomatch h)
theorem chargeTimerExpiry (t sec) : Statement (.chargeTimerExpiry t sec) := statement_of rfl (fun h => nomatch h)
theorem doneTimerExpiry (t sec) : Statement (.doneTimerExpiry t sec) := statement_of rfl (fun h => nomatch h)
theorem cooldownExpiry (t sec) : Statement (.cooldownExpiry t sec) := statement_of rfl (fun h => nomatch h)
theorem auxPulseExpiry (t u) : Statement (.auxPulseExpiry t u) := statement_of rfl (fun h => nomatch h)
theorem checkItem (t) : Statement (.checkItem t) := statement_of rfl (fun h => nomatch h)
theorem selectTable (t last table) : Statement (.selectTable t last table) := statement_of rfl (fun _ => rfl)
theorem selectIndex (t last index) : Statement (.selectIndex t last index) := statement_of rfl (fun _ => rfl)
theorem write (t last image) : Statement (.write t last image) := statement_of rfl (fun _ => rfl)
theorem read (t last) : Statement (.read t last) := statement_of rfl (fun _ => rfl)
theorem modeConfig (t last) : Statement (.modeConfig t last) := statement_of rfl (fun _ => rfl)
theorem modeRun (t last) : Statement (.modeRun t last) := statement_of rfl (fun _ => rfl)
theorem modeHold (t last) : Statement (.modeHold t last) := statement_of rfl (fun _ => rfl)
theorem modeResume (t last) : Statement (.modeResume t last) := statement_of rfl (fun _ => rfl)
theorem modeStop (t last) : Statement (.modeStop t last) := statement_of rfl (fun _ => rfl)
theorem placeBoat (t last boat cls zone route) : Statement (.placeBoat t last boat cls zone route) := statement_of rfl (fun _ => rfl)
theorem retireBoat (t last boat) : Statement (.retireBoat t last boat) := statement_of rfl (fun _ => rfl)
theorem setRoute (t last boat route) : Statement (.setRoute t last boat route) := statement_of rfl (fun _ => rfl)
theorem clearZone (t last zone) : Statement (.clearZone t last zone) := statement_of rfl (fun _ => rfl)
theorem injectTrigger (t last channel) : Statement (.injectTrigger t last channel) := statement_of rfl (fun _ => rfl)
theorem clearCounters (t last) : Statement (.clearCounters t last) := statement_of rfl (fun _ => rfl)
theorem noticeMask (t last mask) : Statement (.noticeMask t last mask) := statement_of rfl (fun _ => rfl)
theorem status (t last) : Statement (.status t last) := statement_of rfl (fun _ => rfl)
theorem resetRuntime (t last) : Statement (.resetRuntime t last) := statement_of rfl (fun _ => rfl)
theorem resetFull (t last) : Statement (.resetFull t last) := statement_of rfl (fun _ => rfl)

end Sys2Proof.Laws.F
end

