-- ==== Sys2Proof/WellFormed.lean ====
section
/-! DEFINITION. Which commands can come from the line and the part's own timers: every field within the width its
record gives it (R182, R184, R186) and every index within its table (00_scope.md 7.4). Machine meanings are total and
do not assume it. -/

namespace Sys2Proof

/-- A field of one byte (R183). -/
def isByte (n : Nat) : Bool := n < 256

/-- The operands of a command lie in the fields that carry them. -/
def Instr.wf : Instr → Bool
  | .powerOn _ addr rate _ => addr < 4 && rate < 4
  | .estopAsserted _ => true
  | .estopReleased _ => true
  | .frameReceived _ _ _ _ => true
  | .frameSent _ _ => true
  | .actuatorFramePlace _ => true
  | .responsePlace _ => true
  | .noticeFrameBuild _ => true
  | .supervisorCommandResend _ => true
  | .marker _ src sensor edge => isByte src && isByte sensor && isByte edge
  | .trap _ src pair interval => isByte src && isByte pair && interval < 65536
  | .berth _ src _ _ _ => isByte src
  | .weight _ src scale kg _ => isByte src && isByte scale && decide (-32768 ≤ kg) && decide (kg ≤ 32767)
  | .tag _ src reader number => isByte src && isByte reader && isByte number
  | .boosterReady _ src num => isByte src && isByte num
  | .boosterDone _ src num => isByte src && isByte num
  | .heartbeat _ src _ => isByte src
  | .hello _ src kind => isByte src && isByte kind
  | .limitAck _ src => isByte src
  | .ackAccepted _ src num tagNo => isByte src && isByte num && isByte tagNo
  | .ackRefused _ src num tagNo => isByte src && isByte num && isByte tagNo
  | .ackTimerExpiry _ a => a < 64
  | .joinTimerExpiry _ n => n < 48
  | .nodeSilent _ n => n < 48
  | .nodeLostSilence _ n => n < 48
  | .watchExpiry _ z => z < 64
  | .chargeTimerExpiry _ sec => sec < 2
  | .doneTimerExpiry _ sec => sec < 2
  | .cooldownExpiry _ sec => sec < 2
  | .auxPulseExpiry _ u => u < 8
  | .checkItem _ => true
  | .selectTable _ _ table => isByte table
  | .selectIndex _ _ index => isByte index
  | .write _ _ image => image.length == 26
  | .read _ _ => true
  | .modeConfig _ _ => true
  | .modeRun _ _ => true
  | .modeHold _ _ => true
  | .modeResume _ _ => true
  | .modeStop _ _ => true
  | .placeBoat _ _ boat cls zone route => isByte boat && isByte cls && isByte zone && isByte route
  | .retireBoat _ _ boat => isByte boat
  | .setRoute _ _ boat route => isByte boat && isByte route
  | .clearZone _ _ zone => isByte zone
  | .injectTrigger _ _ channel => isByte channel
  | .clearCounters _ _ => true
  | .noticeMask _ _ _ => true
  | .status _ _ => true
  | .resetRuntime _ _ => true
  | .resetFull _ _ => true

end Sys2Proof
end

