-- ==== Sys2Proof/Tests/Slice0.lean ====
section
/-! SUPPORT. Tests: ill-formed commands, worked values of the manual, and for every statement with hypotheses a state and
operands that meet them. -/

namespace Sys2Proof.Test
open Sys2Proof.Machine

/-! The kernel evaluates the witnesses one after another, so that they do not wait for each other in many threads. -/
set_option Elab.async false

/-! ### Well-formed commands (each test of `Instr.wf` refuses something) -/

theorem test_ill_powerOn_addr : Instr.wf (.powerOn 0 4 0 false) = false := by decide
theorem test_ill_powerOn_rate : Instr.wf (.powerOn 0 0 4 false) = false := by decide
theorem test_ill_marker_src : Instr.wf (.marker 0 256 0 0) = false := by decide
theorem test_ill_marker_sensor : Instr.wf (.marker 0 0 256 0) = false := by decide
theorem test_ill_marker_edge : Instr.wf (.marker 0 0 0 256) = false := by decide
theorem test_ill_trap_src : Instr.wf (.trap 0 256 0 0) = false := by decide
theorem test_ill_trap_pair : Instr.wf (.trap 0 0 256 0) = false := by decide
theorem test_ill_trap_interval : Instr.wf (.trap 0 0 0 65536) = false := by decide
theorem test_ill_berth_src : Instr.wf (.berth 0 256 true true true) = false := by decide
theorem test_ill_weight_src : Instr.wf (.weight 0 256 0 0 true) = false := by decide
theorem test_ill_weight_scale : Instr.wf (.weight 0 0 256 0 true) = false := by decide
theorem test_ill_weight_low : Instr.wf (.weight 0 0 0 (-32769) true) = false := by decide
theorem test_ill_weight_high : Instr.wf (.weight 0 0 0 32768 true) = false := by decide
theorem test_ill_tag_src : Instr.wf (.tag 0 256 0 0) = false := by decide
theorem test_ill_tag_reader : Instr.wf (.tag 0 0 256 0) = false := by decide
theorem test_ill_tag_number : Instr.wf (.tag 0 0 0 256) = false := by decide
theorem test_ill_ready_src : Instr.wf (.boosterReady 0 256 0) = false := by decide
theorem test_ill_ready_num : Instr.wf (.boosterReady 0 0 256) = false := by decide
theorem test_ill_done_src : Instr.wf (.boosterDone 0 256 0) = false := by decide
theorem test_ill_done_num : Instr.wf (.boosterDone 0 0 256) = false := by decide
theorem test_ill_heartbeat_src : Instr.wf (.heartbeat 0 256 0) = false := by decide
theorem test_ill_hello_src : Instr.wf (.hello 0 256 0) = false := by decide
theorem test_ill_hello_kind : Instr.wf (.hello 0 0 256) = false := by decide
theorem test_ill_limitAck_src : Instr.wf (.limitAck 0 256) = false := by decide
theorem test_ill_accepted_src : Instr.wf (.ackAccepted 0 256 0 0) = false := by decide
theorem test_ill_accepted_num : Instr.wf (.ackAccepted 0 0 256 0) = false := by decide
theorem test_ill_accepted_tag : Instr.wf (.ackAccepted 0 0 0 256) = false := by decide
theorem test_ill_refused_src : Instr.wf (.ackRefused 0 256 0 0) = false := by decide
theorem test_ill_refused_num : Instr.wf (.ackRefused 0 0 256 0) = false := by decide
theorem test_ill_refused_tag : Instr.wf (.ackRefused 0 0 0 256) = false := by decide
theorem test_ill_ackTimer : Instr.wf (.ackTimerExpiry 0 64) = false := by decide
theorem test_ill_joinTimer : Instr.wf (.joinTimerExpiry 0 48) = false := by decide
theorem test_ill_silent : Instr.wf (.nodeSilent 0 48) = false := by decide
theorem test_ill_lost : Instr.wf (.nodeLostSilence 0 48) = false := by decide
theorem test_ill_watch : Instr.wf (.watchExpiry 0 64) = false := by decide
theorem test_ill_charge : Instr.wf (.chargeTimerExpiry 0 2) = false := by decide
theorem test_ill_done : Instr.wf (.doneTimerExpiry 0 2) = false := by decide
theorem test_ill_cooldown : Instr.wf (.cooldownExpiry 0 2) = false := by decide
theorem test_ill_pulse : Instr.wf (.auxPulseExpiry 0 8) = false := by decide
theorem test_ill_selectTable : Instr.wf (.selectTable 0 true 256) = false := by decide
theorem test_ill_selectIndex : Instr.wf (.selectIndex 0 true 256) = false := by decide
theorem test_ill_write : Instr.wf (.write 0 true []) = false := by decide
theorem test_ill_place_boat : Instr.wf (.placeBoat 0 true 256 0 0 0) = false := by decide
theorem test_ill_place_cls : Instr.wf (.placeBoat 0 true 0 256 0 0) = false := by decide
theorem test_ill_place_zone : Instr.wf (.placeBoat 0 true 0 0 256 0) = false := by decide
theorem test_ill_place_route : Instr.wf (.placeBoat 0 true 0 0 0 256) = false := by decide
theorem test_ill_retire : Instr.wf (.retireBoat 0 true 256) = false := by decide
theorem test_ill_route_boat : Instr.wf (.setRoute 0 true 256 0) = false := by decide
theorem test_ill_route_route : Instr.wf (.setRoute 0 true 0 256) = false := by decide
theorem test_ill_clearZone : Instr.wf (.clearZone 0 true 256) = false := by decide
theorem test_ill_inject : Instr.wf (.injectTrigger 0 true 256) = false := by decide

/-- Commands at the ends of their fields are well formed. -/
theorem test_wf : Instr.wf (.powerOn 0 3 3 true) = true ∧ Instr.wf (.trap 0 255 255 65535) = true ∧
    Instr.wf (.weight 0 255 255 (-32768) true) = true ∧ Instr.wf (.watchExpiry 0 63) = true ∧
    Instr.wf (.write 0 true (List.replicate 26 0)) = true := by decide

/-! ### A small circuit -/

/-- Entries placed in a table. -/
def fill {α : Type} {n : Nat} (v : Vector α n) (l : List (Nat × α)) : Vector α n :=
  l.foldl (fun v p => v.setIfInBounds p.1 p.2) v

/-- A zone of a small circuit, marker on node 0. -/
def zoneOf (k : ZKind) (z main : Nat) (alt switch gate berth sec run : Option Nat) (depends : List Nat) : ZoneEntry :=
  ⟨k, main, alt, switch, 0, z, gate, 100, none, depends, berth, sec, run⟩

/-- A small circuit: a berth, a launch pad, a channel, a brake run, an unload berth and a transfer zone. -/
def tab : Tables :=
  { Tables.initial with
    zone := fill Tables.initial.zone [
      (0, some (zoneOf .berth 0 1 none none (some 0) (some 0) none none [0])),
      (1, some (zoneOf .launch 1 2 none none none (some 1) (some 0) none [1])),
      (2, some (zoneOf .channel 2 3 none none none none none none [])),
      (3, some (zoneOf .brakeRun 3 4 none none (some 1) none none (some 0) [1])),
      (4, some (zoneOf .berth 4 5 none none (some 2) (some 2) none none [])),
      (5, some (zoneOf .transfer 5 0 (some 4) (some 3) (some 6) none none none []))]
    cls := fill Tables.initial.cls [(0, ⟨100, 500⟩)]
    node := fill Tables.initial.node [(0, some ⟨8, .berth, 1, 1⟩), (1, some ⟨9, .booster, 15000, 1⟩), (2, some ⟨10, .aux, 1, 0⟩)]
    auth := fill Tables.initial.auth [
      (0, some ⟨0, 0, .gate, .controller⟩), (1, some ⟨0, 1, .gate, .controller⟩), (2, some ⟨0, 2, .gate, .controller⟩),
      (3, some ⟨0, 3, .switch, .controller⟩), (4, some ⟨1, 0, .booster, .controller⟩), (5, some ⟨1, 1, .fin, .controller⟩),
      (6, some ⟨0, 4, .gate, .controller⟩), (7, some ⟨0, 5, .lamp, .controller⟩), (8, some ⟨0, 6, .lock, .controller⟩),
      (9, some ⟨2, 0, .generic, .shared⟩), (10, some ⟨1, 5, .lamp, .controller⟩), (11, some ⟨1, 6, .lock, .controller⟩)]
    trap := fill Tables.initial.trap [(0, some ⟨0, 0, 500, 2, .launch, none⟩), (1, some ⟨0, 1, 500, 3, .brake, some 0⟩),
      (2, some ⟨1, 0, 500, 2, .check, none⟩)]
    launch := fill Tables.initial.launch [(0, some ⟨1, 4, 0, 0, 100, 10, 10⟩)]
    band := fill Tables.initial.band [(0, some ⟨1000, 1000, 2000⟩)]
    run := fill Tables.initial.run [(0, some ⟨3, 1000, 100, 0, 5000, 0, 1, 0⟩)]
    stage := fill Tables.initial.stage [(0, ⟨5, 20000, 0⟩)]
    berth := fill Tables.initial.berth [(0, some ⟨0, 0, .load, 7, 8, none, none⟩), (1, some ⟨1, 1, .pad, 10, 11, some 0, none⟩),
      (2, some ⟨4, 2, .unload, 7, 8, none, some 0⟩)] }

/-- The circuit in HOLD with its nodes ACTIVE and safe values commanded, at 1000 ms. -/
def w : State :=
  { State.reset with
    now := 1000
    tab := tab
    nodes := fill State.reset.nodes ([0, 1, 2].map fun n => (n, ⟨.active, some 900, none, false, false⟩))
    acts := fill State.reset.acts [(0, ⟨some .gateClose, true⟩), (1, ⟨some .gateClose, true⟩), (2, ⟨some .gateClose, true⟩),
      (3, ⟨some .switchMain, true⟩), (4, ⟨some .boosterSafe, true⟩), (5, ⟨some .finEngage, true⟩), (6, ⟨some .gateClose, true⟩),
      (7, ⟨some .lampOff, true⟩), (8, ⟨some .lockLock, true⟩), (9, ⟨some .genericOff, true⟩), (10, ⟨some .lampOff, true⟩),
      (11, ⟨some .lockLock, true⟩)]
    mc := { State.reset.mc with mode := .hold, layoutChecked := true } }

/-- Boat `b` of a state and path at a zone. -/
def boatAt (s : State) (b z : Nat) (st : BoatState) (path : List Nat) : State :=
  path.foldl (fun s z => s.putZs z { s.zst z with reserved := some b })
    ((s.putBoat b (some ⟨0, .main, z, st, false, path, some 200, none, some (0, 0), none, 0⟩)).putZs z { s.zst z with occupant := some b })
/-- A state with another mode. -/
def inMode (s : State) (m : Mode) : State := { s with mc := { s.mc with mode := m } }

/-- The record that `boatAt` gives a boat. -/
def boat (z : Nat) (st : BoatState) (path : List Nat) : Boat := ⟨0, .main, z, st, false, path, some 200, none, some (0, 0), none, 0⟩
/-- A MARKER-like frame of node 0 to a destination. -/
def frameTo (dst kind : Nat) (l : List RawRecord) : List Byte := buildFrame dst 8 kind (chainBytes l)
/-- A port whose transmitter is busy, with frames waiting. -/
def busy (fwd origin : List QFrame) : PortState := ⟨fwd, origin, some ⟨frameTo 1 3 [], []⟩⟩
/-- A frame of the part that is urgent, and one that is not. -/
def urgentFrame : QFrame := ⟨frameTo 8 2 [], []⟩
def plainFrame : QFrame := ⟨frameTo 1 8 [], []⟩
/-- A state of berth `b`. -/
def berthIn (s : State) (b : Nat) (st : BerthState) : State :=
  s.putBerth b { BerthStatus.initial with state := st, presence := true, latch := true, lamp := .on }
/-- A sequencer at work for boat 1. -/
def seqIn (s : State) (st : SeqState) (held : Option Nat) : State :=
  s.putSeq 0 ⟨st, some 1, some 0, some 1000, held, some 900, some 500, some 990⟩
/-- A node's state. -/
def nodeIn (s : State) (n : Nat) (r : Roster) : State := s.putNode n ⟨r, some 800, some 950, false, false⟩
/-- A command in the list. -/
def listed (s : State) (a : Nat) (v : ActValue) : State := { s with cmds := [⟨a, v, 3, some 950⟩] }

/-! ### Quiet states -/

/-- A bounded test for the holds of the defined zones and for a charge. -/
def calm (s : State) : Bool :=
  s.ev == Ev.none && (List.range 64).all (fun z => (s.zoneE z).all fun e =>
    (s.zst z).nodeHold == s.wantsNodeHold e && (s.zst z).userHold == ((s.zst z).latch || s.followHolds.contains z)) &&
  (List.range 2).all fun k => (s.seqS k).state != .charging
theorem zone_in_table {s : State} {z : Nat} {e : ZoneEntry} (h : s.zoneE z = some e) : z < 64 := by
  by_contra hz
  have h0 : s.tab.zone[z]? = none := by simp; omega
  simp only [State.zoneE, h0] at h
  cases h
/-- What passes the bounded test is quiet. -/
theorem quiet_of_calm {s : State} (h : calm s = true) : s.quiet := by
  simp only [calm, Bool.and_eq_true, List.all_eq_true, List.mem_range, beq_iff_eq, bne_iff_ne, ne_eq] at h
  refine ⟨h.1.1, fun z e he => ?_, fun k hk => h.2 k hk⟩
  have hz := h.1.2 z (zone_in_table he)
  rw [he] at hz
  simpa using hz
/-- The small circuit is quiet, in every mode that a statement asks for. -/
theorem w_quiet : w.quiet ∧ (inMode w .config).quiet ∧ (inMode w .run).quiet :=
  ⟨quiet_of_calm (by decide +kernel), quiet_of_calm (by decide +kernel), quiet_of_calm (by decide +kernel)⟩
/-- No channel of the small circuit carries anything. -/
theorem w_chanE (c : Nat) : w.chanE c = none := by
  show ((Vector.replicate 12 (none : Option Gen))[c]?.join) = none
  rw [Vector.getElem?_replicate]; split <;> rfl

/-! ### Worked values of the manual -/

theorem test_speed_of_R98 : speedOf 50 1 = 20000 ∧ speedOf 2000 65534 = 3051 ∧ speedOf 500 65535 = 0 := by decide +kernel
theorem test_mass_of_R104 : (⟨3, 1000, 0, 0, 0, 200, 1, 0⟩ : RunEntry).mass 1500 = 1700 := by decide +kernel
theorem test_fault_of_R14 : mergeFault (some .missed) .overdue = .missed ∧ mergeFault (some .missed) .double = .double := by decide +kernel
/-- Which frame the filter cannot parse: a control byte with its continuation flag set and nothing after it (R163). -/
theorem test_frame : parseFrame (frameTo 96 1 [⟨1, [3, 0]⟩]) = some [⟨1, [3, 0]⟩] ∧ parseFrame (buildFrame 96 8 1 [129, 3, 0]) = none ∧
    framingOk false (frameTo 96 1 []) = true ∧ checkOk (frameTo 96 1 []) = true := by decide +kernel
/-- No word spells a command. -/
theorem test_words : decodeTableWord 16 0 = none ∧ State.reset.withFetchWord 16 0 = State.reset := by decide +kernel
/-- The next state of an outcome has a property. -/
def after (o : Host.Outcome State Fault Refusal) (p : State → Bool) : Bool :=
  match o with
  | .next u => p u
  | _ => false

/-- A passage moves boat 1 from the berth to the pad. -/
theorem test_marker : after (exec (.marker 1000 8 1 0) (boatAt w 1 0 .granted [1])) (fun u =>
    u.occupant 1 == some 1 && u.occupant 0 == none && u.boatR 1 == some { boat 1 .waiting [] with entryTime := 1000 }) = true := by
  decide +kernel
/-- ESTOP raises STOP OUT and one MODE_CHANGED notice, which leaves at once. -/
theorem test_estop : after (exec (.estopAsserted 1000) w) (fun u =>
    u.mc.stopOut && u.mode == .stop && u.up.tx == some ⟨u.supervisorFrame 8 [noticeRecord (.modeChanged .stop .hold .estop)], []⟩) = true := by
  decide +kernel
/-- A press at a SECURED berth in RUN is requested, granted and released with its gate commanded OPEN. -/
theorem test_press : after (exec (.berth 1000 8 true true true) (berthIn (boatAt (inMode w .run) 1 0 .waiting []) 0 .secured)) (fun u =>
    (u.berthS 0).state == .released && (u.zst 1).reserved == some 1 && (u.actS 0).commanded == some .gateOpen && u.queue == []) = true := by
  decide +kernel
/-- STATUS is answered with a response frame to the supervisor. -/
theorem test_status : after (exec (.status 1000 true) w) (fun u =>
    u.req == none && u.up.tx == some ⟨w.supervisorFrame 7 [resultRecord ⟨.ok, 0, 0, w.statusData, false⟩], []⟩) = true := by
  decide +kernel
/-- A WRITE in RUN to a table other than STAGE is refused with MODE. -/
theorem test_write : after (exec (.write 1000 false (List.replicate 26 0)) (inMode w .run)) (fun u =>
    u.req == some ⟨[.plain .mode], none, none, false, false⟩ && u.tab == w.tab) = true := by
  decide +kernel

/-! ### Witnesses: invariants -/

/-- The part just after power-on, with a command waiting. -/
def idle : State := { State.reset with now := 5, pending := [.estopReleased 5] }

theorem idle_zone (z : Nat) : idle.zst z = .clear := by
  show (Vector.replicate 64 ZoneStatus.clear)[z]?.getD .clear = .clear
  rw [Vector.getElem?_replicate]; split <;> rfl
theorem idle_boat (b : Nat) : idle.boatR b = none := by
  show (if b = 0 then none else (Vector.replicate 24 (none : Option Boat))[b - 1]?.join) = none
  rw [Vector.getElem?_replicate]; split
  · rfl
  · split <;> rfl
theorem idle_zoneE (z : Nat) : idle.zoneE z = none := by
  show ((Vector.replicate 64 (none : Option ZoneEntry))[z]?.join) = none
  rw [Vector.getElem?_replicate]; split <;> rfl
theorem idle_runE (r : Nat) : idle.runE r = none := by
  show ((Vector.replicate 2 (none : Option RunEntry))[r]?.join) = none
  rw [Vector.getElem?_replicate]; split <;> rfl

/-- The premises of StepKeepsBounds and half of that of StepKeepsModeAndSequencersSound. -/
theorem test_witness_StepKeepsBounds : idle.queuesBounded ∧ idle.numbersBounded ∧ idle.listUnique ∧ idle.modeSound ∧
    after (step idle) (fun u => u.pending == []) = true := by
  refine ⟨⟨by decide +kernel, by decide +kernel, by decide +kernel, by decide +kernel, by decide +kernel, fun r h => nomatch h⟩, ⟨by decide +kernel, fun c => by cases c <;> decide⟩,
    ⟨by decide +kernel, by decide +kernel⟩, ⟨by decide +kernel, by decide +kernel⟩, by decide +kernel⟩
/-- The last premise of StepKeepsBounds. -/
theorem test_witness_StepKeepsBounds_reservations : idle.reservationsSound := by
  refine ⟨by decide +kernel, by decide +kernel, fun e h => (nomatch h), fun b x h => ?_, fun b x h => ?_, fun b r a h => ?_⟩
  · rw [idle_boat] at h; cases h
  · rw [idle_boat] at h; cases h
  · have h1 : idle.release b = none := by
      show (if b = 0 then none else (Vector.replicate 24 (none : Option Release))[b - 1]?.join) = none
      rw [Vector.getElem?_replicate]; split
      · rfl
      · split <;> rfl
    rw [h1] at h; cases h
/-- The premise of StepKeepsOccupancySound. -/
theorem test_witness_StepKeepsOccupancySound : idle.occupancySound := by
  refine ⟨fun b x h => ?_, fun z b h => ?_, fun z h => ?_⟩
  · rw [idle_boat] at h; cases h
  · unfold State.occupant at h; rw [idle_zone] at h; cases h
  · rw [idle_zone]; rfl
/-- The other half of the premise of StepKeepsModeAndSequencersSound, and half of that of StepKeepsLinesAndHoldsSound. -/
theorem test_witness_StepKeepsModeAndSequencersSound : idle.sequencersSound ∧ idle.linesSound := by
  refine ⟨fun _ => by decide +kernel, by unfold State.linesSound; decide +kernel⟩
/-- The premise of StepKeepsActuatorsSound. -/
theorem test_witness_StepKeepsActuatorsSound : idle.actuatorsSound := by
  intro a h
  have h1 : idle.authE a = none := by
    show ((Vector.replicate 64 (none : Option AuthEntry))[a]?.join) = none
    rw [Vector.getElem?_replicate]; split <;> rfl
  rw [h1]
  show (Vector.replicate 64 ActStatus.none)[a]?.getD .none = .none
  rw [Vector.getElem?_replicate]; split <;> rfl
/-- The other half of the premise of StepKeepsLinesAndHoldsSound, and the premise of StepKeepsRestSound. -/
theorem test_witness_StepKeepsRestSound : idle.holdsSound ∧ idle.restSound := by
  refine ⟨fun z e h => ?_, fun r e h => ?_, fun _ => ⟨fun z e a x h => ?_, fun r e i x h => ?_⟩⟩
  · rw [idle_zoneE] at h; cases h
  · rw [idle_runE] at h; cases h
  · rw [idle_zoneE] at h; cases h
  · rw [idle_runE] at h; cases h

/-! ### Witnesses: frames of groups of commands -/

theorem test_witness_SiteCommandsKeepTheirFrame : Instr.atSite (.limitAck 0 8) = true ∧ Instr.keepsMode (.limitAck 0 8) = true ∧
    Instr.keepsRuns (.limitAck 0 8) = true ∧ Instr.keepsRoster (.weight 0 8 0 0 true) = true := by decide +kernel
theorem test_witness_OnlyMarkersMoveBoats : Instr.atSite (.trap 0 8 0 5) = true ∧ ∀ t src sensor edge, Instr.trap 0 8 0 5 ≠ .marker t src sensor edge :=
  ⟨rfl, nofun⟩
theorem test_witness_SiteCommandsKeepStop : Instr.atSite (.estopReleased 0) = true ∧
    (inMode { w with mc := { w.mc with stopOut := true } } .stop).modeSound ∧ (inMode w .stop).mode = .stop := by
  refine ⟨rfl, ⟨by decide +kernel, by decide +kernel⟩, rfl⟩
theorem test_witness_ManagementFrame : Instr.isManagement (.read 0 false) = true ∧ (∀ t last img, Instr.read 0 false ≠ .write t last img) ∧
    Instr.last (.read 0 false) = false := ⟨rfl, nofun, rfl⟩

/-! ### Witnesses: supply, ESTOP and the line -/

theorem test_witness_PowerOnAndStraps : ∀ t addr rate estop, Instr.status 0 true ≠ .powerOn t addr rate estop := nofun
theorem test_witness_EstopBringsStop : (boatAt (inMode w .run) 1 0 .granted [1]).mode ≠ .stop ∧
    (boatAt (inMode w .run) 1 0 .granted [1]).boatR 1 = some (boat 0 .granted [1]) ∧
    (boatAt (inMode w .run) 1 0 .granted [1]).queued 1 = false ∧ (w.zoneE 0).bind ZoneEntry.gate = some 0 ∧
    w.authE 0 = some ⟨0, 0, .gate, .controller⟩ ∧ (w.runE 0).map RunEntry.stages = some 1 ∧ w.authE (w.stageOf 0 0).fin =
      some ⟨1, 1, .fin, .controller⟩ ∧ (w.launchE 0).map LaunchEntry.booster = some 4 ∧ w.authE 4 = some ⟨1, 0, .booster, .controller⟩ ∧
    w.authE 9 = some ⟨2, 0, .generic, .shared⟩ ∧ (inMode w .stop).mode = .stop := by decide +kernel
theorem test_witness_BadFramesAreCounted : ([0, 0, 0, 0, 0] : List Byte).length < 6 ∧ 128 ≤ frameDst [128, 0, 0, 0, 0, 0] ∧
    240 < frameLen [0, 0, 0, 241, 0, 0] ∧ ([0, 0, 0, 1, 0, 0] : List Byte).length ≠ 6 + frameLen [0, 0, 0, 1, 0, 0] ∧
    framingOk false [96, 8, 1, 0, 0, 0] = true ∧
    checkCode (([96, 8, 1, 0, 0, 0] : List Byte).take (4 + frameLen [96, 8, 1, 0, 0, 0])) ≠
      BitVec.ofNat 16 (wordAt [96, 8, 1, 0, 0, 0] (4 + frameLen [96, 8, 1, 0, 0, 0])) := by decide +kernel
theorem test_witness_FramesAreForwarded : framingOk false (frameTo 9 3 []) = true ∧ checkOk (frameTo 9 3 []) = true ∧
    parseFrame (frameTo 9 3 []) = some [] ∧ frameDst (frameTo 9 3 []) ≠ w.addr ∧ frameKind (frameTo 9 3 []) ≠ 2 ∧
    frameKind (frameTo 9 3 []) ≠ 6 ∧ w.dn.fwd.length < 8 ∧ w.up.fwd.length < 8 ∧
    (busy (List.replicate 8 plainFrame) []).fwd.length = 8 ∧ (busy [] []).tx = some ⟨frameTo 1 3 [], []⟩ := by decide +kernel
/-- Frames whose chain does not parse, for another address and for the part, of each kind a clause speaks of. -/
theorem test_witness_FramesAreForwarded_unparsed : framingOk false (buildFrame 9 8 3 [129, 3, 0]) = true ∧
    checkOk (buildFrame 9 8 3 [129, 3, 0]) = true ∧ parseFrame (buildFrame 9 8 3 [129, 3, 0]) = none ∧
    frameDst (buildFrame 9 8 3 [129, 3, 0]) ≠ w.addr ∧ frameKind (buildFrame 9 8 3 [129, 3, 0]) ≠ 2 ∧
    parseFrame (buildFrame 96 8 1 [129, 3, 0]) = none ∧ frameDst (buildFrame 96 8 1 [129, 3, 0]) = w.addr ∧
    checkOk (buildFrame 96 8 1 [129, 3, 0]) = true := by decide +kernel
/-- Requests for another address and for all, and frames for the part of a kind it does not take. -/
theorem test_witness_FramesAreForwarded_foreign : frameKind (buildFrame 9 1 6 []) = 6 ∧ frameDst (buildFrame 9 1 6 []) ≠ w.addr ∧
    checkOk (buildFrame 9 1 6 []) = true ∧ frameDst (buildFrame 127 1 6 []) = 127 ∧ (127 : Nat) ≠ w.addr ∧
    checkOk (buildFrame 127 1 6 []) = true ∧ frameDst (frameTo 96 8 []) = w.addr ∧ frameKind (frameTo 96 8 []) = 8 ∧
    parseFrame (frameTo 96 8 []) = some [] ∧ checkOk (frameTo 96 8 []) = true ∧ frameSrc (buildFrame 96 8 6 []) ≠ 1 := by decide +kernel
theorem test_witness_ForwardQueueRule : ({ w with up := busy (List.replicate 7 plainFrame) [] } : State).up.fwd.length < 8 ∧
    8 ≤ ({ w with up := busy (List.replicate 8 plainFrame) [] } : State).up.fwd.length ∧
    ({ w with dn := busy (List.replicate 7 plainFrame) [] } : State).dn.fwd.length < 8 ∧
    8 ≤ ({ w with dn := busy (List.replicate 8 plainFrame) [] } : State).dn.fwd.length := by decide +kernel

/-- A command of the supervisor for actuator number `num` of the node at address 8. -/
def supervisorCommand (num value : Nat) : RawRecord := ⟨16, enc1 num ++ enc1 0 ++ enc1 value ++ enc2 0⟩
def commandFrame (num value : Nat) : List Byte := buildFrame 8 1 2 (chainBytes [supervisorCommand num value])
theorem test_witness_SupervisorCommandsAreFiltered : framingOk false (commandFrame 3 1) = true ∧ checkOk (commandFrame 3 1) = true ∧
    parseFrame (commandFrame 3 1) = some [supervisorCommand 3 1] ∧ frameKind (commandFrame 3 1) = 2 ∧
    frameDst (commandFrame 3 1) ≠ w.addr ∧ w.mode ≠ .config ∧ w.removed (frameDst (commandFrame 3 1)) (supervisorCommand 3 1) = true ∧
    w.removed (frameDst (commandFrame 9 1)) (supervisorCommand 9 1) = false ∧ parseFrame (commandFrame 9 1) = some [supervisorCommand 9 1] ∧
    (inMode w .config).mode = .config ∧ w.authE 3 = some ⟨0, 3, .switch, .controller⟩ ∧ byteAt (supervisorCommand 3 1).body 0 = 3 ∧
    w.nodeOfAddress (frameDst (commandFrame 3 1)) = some 0 ∧
    ActValue.ofCode .switch (byteAt (supervisorCommand 3 1).body 2) (wordAt (supervisorCommand 3 1).body 3) = some .switchAlt := by
  decide +kernel
theorem test_witness_SupervisorCommandsAreFiltered_config : (inMode w .config).sequencersSound := fun _ => by decide +kernel
/-- Two commands in one frame, of which the filter removes the first. -/
def twoCommands : List RawRecord := [supervisorCommand 3 1, supervisorCommand 9 1]
theorem test_witness_SupervisorCommandsAreFiltered_several : parseFrame (buildFrame 8 1 2 (chainBytes twoCommands)) = some twoCommands ∧
    checkOk (buildFrame 8 1 2 (chainBytes twoCommands)) = true ∧
    twoCommands.filter (fun r => !w.removed 8 r) = [supervisorCommand 9 1] ∧ [supervisorCommand 9 1] ≠ twoCommands ∧
    ({ w with dn := busy [] [] } : State).dn.tx = some ⟨frameTo 1 3 [], []⟩ ∧ w.removed 127 (supervisorCommand 9 1) = true ∧
    w.tag < 16 := by decide +kernel
theorem test_witness_SupervisorCommandsAreFiltered_numbers : w.numbersBounded :=
  ⟨by decide +kernel, fun c => by cases c <;> decide⟩
/-- In CONFIG: a gate's command, an actuator of the supervisor's, and frames that do not parse or hold nothing. -/
theorem test_witness_SupervisorCommandsAreFiltered_kinds : parseFrame (commandFrame 0 1) = some [supervisorCommand 0 1] ∧
    ActValue.ofCode .gate (byteAt (supervisorCommand 0 1).body 2) (wordAt (supervisorCommand 0 1).body 3) = some .gateClose ∧
    w.authE 9 = some ⟨2, 0, .generic, .shared⟩ ∧ parseFrame (buildFrame 8 1 2 [129, 16, 0]) = none ∧
    checkOk (buildFrame 8 1 2 [129, 16, 0]) = true ∧ parseFrame (buildFrame 8 1 2 []) = some [] ∧ checkOk (buildFrame 8 1 2 []) = true := by
  decide +kernel
theorem test_witness_OneRecordFramesAreCommands : framingOk false (frameTo 96 1 [⟨1, [3, 0]⟩]) = true ∧
    checkOk (frameTo 96 1 [⟨1, [3, 0]⟩]) = true ∧ parseFrame (frameTo 96 1 [⟨1, [3, 0]⟩]) = some [⟨1, [3, 0]⟩] ∧
    nodeRecord ⟨1, [3, 0]⟩ = some (.marker 3 0) ∧ frameDst (frameTo 96 1 [⟨1, [3, 0]⟩]) = w.addr ∧
    frameKind (frameTo 96 1 [⟨1, [3, 0]⟩]) = 1 ∧ (NodeRecord.marker 3 0).toCommand 0 8 = some (.marker 0 8 3 0) ∧
    parseFrame (buildFrame 96 1 6 [44]) = some [⟨44, []⟩] ∧ frameKind (buildFrame 96 1 6 [44]) = 6 ∧
    frameSrc (buildFrame 96 1 6 [44]) = 1 ∧ (mgmtRecord ⟨44, []⟩).toCommand 0 true = some (.status 0 true) := by decide +kernel
/-- No request is open in the small circuit: the premise of every statement about a management record. -/
theorem test_witness_requestFree : w.requestFree := ⟨rfl, rfl⟩
theorem test_witness_ArbiterTakesClassesInOrder : [plainFrame, urgentFrame].find? QFrame.urgent = some urgentFrame ∧
    [plainFrame].find? QFrame.urgent = none := by decide +kernel

/-- The small circuit with its transmitters busy. -/
def wBusy : State := { w with up := busy [] (List.replicate 15 plainFrame), dn := busy [] (List.replicate 15 plainFrame) }
theorem test_witness_WaitingFramesArePlaced : wBusy.dn.tx = some ⟨frameTo 1 3 [], []⟩ ∧ wBusy.dn.room = true ∧
    (wBusy.putNode 1 ⟨.active, none, none, true, false⟩).nextLimit = some (1, ⟨9, .booster, 15000, 1⟩) ∧ wBusy.nextLimit = none ∧
    ({ wBusy with cmds := [⟨3, .switchAlt, 0, none⟩] } : State).cmds.find? (fun e => e.sent.isNone) = some ⟨3, .switchAlt, 0, none⟩ ∧
    wBusy.actNode 3 = some 0 ∧ wBusy.nodeE 0 = some ⟨8, .berth, 1, 1⟩ ∧ wBusy.up.tx = some ⟨frameTo 1 3 [], []⟩ ∧ wBusy.up.room = true ∧
    ({ wBusy with held := some plainFrame } : State).held = some plainFrame ∧ wBusy.held = none ∧
    ({ wBusy with notices := [.overdue 0 none] } : State).notices ≠ [] ∧ wBusy.ev.holdNotices = false := by decide +kernel
theorem test_witness_SupervisorCommandsAreHandedBack : ({ inMode w .config with resendDue := [0] } : State).mode = .config ∧
    0 ∈ ({ inMode w .config with resendDue := [0] } : State).resendDue ∧ (w.nodeS 0).state.present = true ∧
    (w.actS 0).commanded = some .gateClose ∧ ActValue.gateClose.kind = .gate ∧ ActValue.gateClose.inRange = true := by decide +kernel
theorem test_witness_SupervisorCommandsAreHandedBack_sound : ({ inMode w .config with resendDue := [0] } : State).sequencersSound :=
  fun _ => by decide +kernel

/-! ### Witnesses: records that match nothing -/

theorem test_witness_UnusedRecordsAreCounted : ((w.nodeOfAddress 8).bind fun n => w.zoneOfMarker n 7) = none ∧
    ((w.nodeOfAddress 9).bind fun n => w.trapOf n 1) = none ∧ w.berthOfSource 11 = none ∧
    w.berthOfSource 10 = some (2, ⟨4, 2, .unload, 7, 8, none, some 0⟩) ∧ w.boosterMatch 8 0 = none ∧ w.boosterMatch 9 0 = some 0 ∧
    (w.seqS 0).state ≠ .charging ∧ (w.seqS 0).state ≠ .firing ∧ w.nodeOfAddress 11 = none := by decide +kernel
theorem test_witness_UnusedRecordsAreCounted_scale : ∀ b e, w.berthOfSource 10 = some (b, e) → e.role ≠ .pad ∨ e.scale ≠ some 0 := by
  intro b e h
  rw [show w.berthOfSource 10 = some (2, ⟨4, 2, .unload, 7, 8, none, some 0⟩) by decide +kernel] at h
  cases h; decide +kernel

/-- Stale ACKs of a known node: no entry, an unsent one, another tag; and an actuator number at each side of the bound. -/
theorem test_witness_UnusedRecordsAreCounted_stale : w.nodeOfAddress 8 = some 0 ∧ w.cmds = [] ∧
    (∀ c ∈ ({ w with cmds := [⟨3, .switchAlt, 3, none⟩] } : State).cmds, c.sent = none) ∧
    (∀ c ∈ (listed w 3 .switchAlt).cmds, c.sent ≠ none ∧ c.tag ≠ 4) ∧ w.authE 3 = some ⟨0, 3, .switch, .controller⟩ ∧
    (15 : Nat) ≤ 15 ∧ (15 : Nat) < 16 := by decide +kernel

/-! ### Witnesses: passages, traps and brake runs -/

theorem test_witness_ExpectedPassageMovesBoat : w.nodeOfAddress 8 = some 0 ∧ w.zoneOfMarker 0 4 = some 4 ∧
    ((boatAt w 1 3 .moving [4, 5]).zst 4).reserved = some 1 ∧ (boatAt w 1 3 .moving [4, 5]).boatR 1 = some (boat 3 .moving [4, 5]) ∧
    (boatAt w 1 3 .moving [4, 5]).queued 1 = false ∧ (w.zoneE 4).map ZoneEntry.kind = some .berth := by decide +kernel
theorem test_witness_SkippedPassageRaisesMissed : w.zoneOfMarker 0 4 = some 4 ∧ ((boatAt w 1 2 .moving [3, 4, 5]).zst 4).reserved = some 1 ∧
    (boatAt w 1 2 .moving [3, 4, 5]).boatR 1 = some (boat 2 .moving ([3] ++ 4 :: [5])) ∧ 4 ∉ [3] ∧
    (boatAt w 1 2 .moving [3, 4, 5]).queued 1 = false ∧ (w.zoneE 3).isSome = true := by decide +kernel
theorem test_witness_UnmatchedPassagesRaiseFaults : ((boatAt w 1 0 .waiting []).zst 0).reserved = none ∧
    (boatAt w 1 0 .waiting []).occupant 0 = some 1 ∧ (boatAt w 1 0 .waiting []).boatR 1 = some (boat 0 .waiting []) ∧
    (boat 0 .waiting []).entryTime + 500 ≤ max w.now 1000 ∧ max ({ w with now := 0 } : State).now 499 < (boat 0 .waiting []).entryTime + 500 ∧
    (w.zst 0).reserved = none ∧ w.occupant 0 = none ∧ w.zoneOfMarker 0 0 = some 0 := by decide +kernel
theorem test_witness_TrapSpeedIsHandedOn : w.trapOf 0 0 = some (0, ⟨0, 0, 500, 2, .launch, none⟩) ∧
    w.brakeOf ⟨0, 0, 500, 2, .launch, none⟩ = none ∧ (boatAt w 1 2 .moving []).occupant 2 = some 1 ∧
    ((boatAt w 1 1 .granted [2]).zst 2).reserved = some 1 ∧ ((w.zoneE 2).bind fun z => z.speedLimit) = none ∧
    w.trapOf 1 0 = some (2, ⟨1, 0, 500, 2, .check, none⟩) ∧ (w.launchE 0).map LaunchEntry.trap = some 0 ∧
    ((seqIn w .firing none).seqS 0).state = .firing ∧ ((seqIn w .measuring none).seqS 0).state = .measuring ∧
    ((seqIn w .measuring none).seqS 0).boat = some 1 ∧ ((seqIn w .measuring none).seqS 0).band = some 0 := by decide +kernel
/-- A circuit whose launch section has no cooldown, with nothing queued. -/
def fast : State := { w with tab := { w.tab with launch := fill w.tab.launch [(0, some ⟨1, 4, 0, 0, 100, 0, 10⟩)] } }
theorem test_witness_TrapSpeedIsHandedOn_cooldown : (fast.launchE 0).map LaunchEntry.cooldown = some 0 ∧ fast.queue = [] ∧
    (fast.launchE 0).map LaunchEntry.trap = some 0 ∧ ((seqIn fast .measuring none).seqS 0).state = .measuring ∧
    ((seqIn fast .measuring none).seqS 0).boat = some 1 ∧ ((seqIn fast .measuring none).seqS 0).band = some 0 ∧
    fast.trapOf 0 0 = some (0, ⟨0, 0, 500, 2, .launch, none⟩) := by decide +kernel
/-- A zone with a speed limit, and a speed on each side of it. -/
theorem test_witness_TrapSpeedIsHandedOn_limit : speedOf 500 10000 = 5000 ∧
    (({ w with tab := { w.tab with zone := w.tab.zone.setIfInBounds 2 (some { zoneOf .channel 2 3 none none none none none none [] with
      speedLimit := some 4999 }) } } : State).zoneE 2).bind ZoneEntry.speedLimit = some 4999 := by decide +kernel
theorem test_witness_BrakeSelectionSetsRun : w.trapOf 0 1 = some (1, ⟨0, 1, 500, 3, .brake, some 0⟩) ∧
    w.runE 0 = some ⟨3, 1000, 100, 0, 5000, 0, 1, 0⟩ ∧ (boatAt w 1 3 .moving []).occupant 3 = some 1 ∧ ((boatAt w 1 3 .moving []).runS 0).state = .ready ∧
    (boatAt w 1 3 .moving []).boatR 1 = some (boat 3 .moving []) ∧ w.authE (w.stageOf 0 0).fin = some ⟨1, 1, .fin, .controller⟩ ∧
    ∀ l, l < 1 → (w.stageOf 0 l).fin = (w.stageOf 0 0).fin → l = 0 := by decide +kernel
theorem test_witness_BrakeSelectionSetsRun_boat : (boatAt w 1 3 .moving []).trapBoat 3 = some 1 := by decide +kernel
theorem test_witness_BrakeReportsWithoutSelection : w.occupant 3 = none ∧
    (((boatAt w 1 3 .moving []).putRun 0 ⟨.set, some 2, some 1, Vector.replicate 8 false⟩).runS 0).state = .set ∧
    (((boatAt w 1 3 .moving []).putRun 0 ⟨.set, some 2, some 1, Vector.replicate 8 false⟩).runS 0).boat ≠ some 1 := by decide +kernel
/-- A stage of the run with a fin, in the occupied run of a trap with no time. -/
theorem test_witness_BrakeReportsWithoutSelection_fins : (boatAt w 1 3 .moving []).occupant 3 = some 1 ∧
    (w.runE 0).map RunEntry.zone = some 3 ∧ (w.runE 0).map (fun q => decide (0 < q.stages)) = some true ∧ (w.stageOf 0 0).fin = 5 ∧
    (w.authE 5).map AuthEntry.kind = some .fin := by decide +kernel
theorem test_witness_BrakeArithmetic : (inMode w .run).mode = .run ∧ (20000 : Nat) ≤ (inMode w .run).capacity 0 1 ∧
    (∀ j, 1 ≤ j → j < 1 → w.capacity 0 j < 20000) ∧ (-16 : Int) ≤ 15 ∧ w.capacity 0 1 < 20001 := by decide +kernel

/-! ### Witnesses: berths and launches -/

/-- The pad's actuators are its own. -/
theorem test_witness_BerthRecordMovesState_own : w.berthOfSource 9 = some (1, ⟨1, 1, .pad, 10, 11, some 0, none⟩) ∧
    w.authE 10 = some ⟨1, 5, .lamp, .controller⟩ ∧ w.authE 11 = some ⟨1, 6, .lock, .controller⟩ ∧
    ∀ c, c < 6 → c ≠ 1 → ((w.berthE c).all fun f => f.lamp ≠ 10 ∧ f.lock ≠ 11) = true := by decide +kernel
/-- EMPTY berths at an arrival, with and without a boat, at the pad with a closed latch and an open one. -/
theorem test_witness_BerthRecordMovesState_empty : (w.berthS 0).state = .empty ∧ (w.berthS 0).presence = false ∧
    (boatAt w 1 0 .waiting []).occupant 0 = some 1 ∧ w.occupant 0 = none ∧ (boatAt w 1 1 .waiting []).occupant 1 = some 1 ∧
    w.lockConfirmed ⟨1, 1, .pad, 10, 11, some 0, none⟩ = true ∧
    ((w.putBerth 1 { BerthStatus.initial with latch := true }).berthS 1).latch = true ∧ (w.berthS 1).latch = false := by decide +kernel
/-- Latches that close, under a confirmed lock and another, and latches that open in each state. -/
theorem test_witness_BerthRecordMovesState_latch : ((w.putBerth 0 { BerthStatus.initial with state := .occupied }).berthS 0).latch = false ∧
    w.lockConfirmed ⟨0, 0, .load, 7, 8, none, none⟩ = true ∧
    (w.putAct 8 ⟨some .lockUnlock, true⟩).lockConfirmed ⟨0, 0, .load, 7, 8, none, none⟩ = false ∧
    ((berthIn w 0 .occupied).berthS 0).latch = true ∧ ((berthIn w 0 .requested).berthS 0).state = .requested ∧
    ((berthIn w 0 .fault).berthS 0).state = .fault ∧ ((berthIn w 0 .released).berthS 0).presence = true ∧ w.queue = [] := by decide +kernel
/-- A boat that leaves berth 0 for the pad, and the pad's berth that awaits it. -/
theorem test_witness_BerthStatesFollowZone_passage : w.nodeOfAddress 8 = some 0 ∧ w.zoneOfMarker 0 1 = some 1 ∧
    ((boatAt w 1 0 .granted [1]).zst 1).reserved = some 1 ∧ (boatAt w 1 0 .granted [1]).boatR 1 = some (boat 0 .granted [1]) ∧
    w.berthOfZone 0 = some (0, ⟨0, 0, .load, 7, 8, none, none⟩) ∧ w.berthOfZone 1 = some (1, ⟨1, 1, .pad, 10, 11, some 0, none⟩) ∧
    ((w.putBerth 1 { BerthStatus.initial with presence := true }).berthS 1).state = .empty ∧
    ((w.putBerth 1 { BerthStatus.initial with presence := true }).berthS 1).latch = false ∧ (w.berthS 0).state ≠ .fault := by decide +kernel
theorem test_witness_BerthStatesFollowZone_records : ({ w with queue := [⟨1, 0, [1], 0⟩] } : State).mode ≠ .stop ∧
    ⟨1, 0, [1], 0⟩ ∈ ({ w with queue := [⟨1, 0, [1], 0⟩] } : State).queue ∧ ((berthIn w 0 .requested).berthS 0).state = .requested ∧
    w.mode = .hold ∧ (boat 0 .waiting []).state = .waiting ∧ ((berthIn w 0 .fault).berthS 0).state = .fault := by decide +kernel
/-- Lamps that are commanded what the berth wants, and one that is not. -/
theorem test_witness_BerthStatesFollowZone_settled : (w.actS 7).commanded = some (w.berthS 0).lamp.value ∧
    (w.actS 8).commanded = some (w.berthS 0).lock.value ∧
    (w.actS 7).commanded ≠ some ((berthIn w 0 .secured).berthS 0).lamp.value ∧
    ((w.putAct 8 ⟨some .lockUnlock, true⟩).actS 8).commanded ≠ some (w.berthS 0).lock.value := by decide +kernel

theorem test_witness_BerthStatesFollowZone_alarms : w.berthOfSource 8 = some (0, ⟨0, 0, .load, 7, 8, none, none⟩) ∧
    ((berthIn w 0 .secured).berthS 0).presence = true ∧ ((berthIn w 0 .secured).berthS 0).latch = true ∧
    ((berthIn w 0 .secured).berthS 0).state = .secured ∧ ((berthIn w 0 .released).berthS 0).state = .released ∧
    ({ berthIn (boatAt w 1 0 .requested []) 0 .requested with queue := [⟨1, 0, [1], 0⟩] } : State).queued 1 = true := by decide +kernel
theorem test_witness_BerthPressMakesRequest : (berthIn (boatAt w 1 0 .waiting []) 0 .secured).lockConfirmed ⟨0, 0, .load, 7, 8, none, none⟩ = true ∧
    w.mode = .hold ∧ (∀ k, k < 2 → (w.seqS k).state ≠ .charging) ∧ (berthIn (boatAt w 1 0 .waiting []) 0 .secured).occupant 0 = some 1 ∧
    (boatAt w 1 0 .waiting []).boatR 1 = some (boat 0 .waiting []) ∧ w.stoppable 0 = true ∧ w.walk 0 .main = .ok [1] ∧
    ({ w with tab := { w.tab with zone := w.tab.zone.setIfInBounds 1 none } } : State).walk 0 .main = .error .undefined ∧
    w.sectionOfZone 1 = some 0 ∧ (w.launchE 0).isSome = true ∧ w.preCheck 0 { boat 1 .waiting [] with weight := none } = .error .noWeight ∧
    w.berthOfSource 9 = some (1, ⟨1, 1, .pad, 10, 11, some 0, none⟩) := by decide +kernel
/-- A pad whose pre-check passes. -/
theorem test_witness_BerthPressMakesRequest_pad : (berthIn (boatAt w 1 1 .waiting []) 1 .secured).preCheck 0 (boat 1 .waiting []) = .ok 0 ∧
    w.lockConfirmed ⟨1, 1, .pad, 10, 11, some 0, none⟩ = true ∧ w.stoppable 1 = true ∧ w.walk 1 .main = .ok [2, 3] := by decide +kernel
/-- A boat at the SECURED load berth, its path free and blocked, in RUN. -/
def ready (m : Mode) : State := berthIn (boatAt (inMode w m) 1 0 .waiting []) 0 .secured
theorem test_witness_BerthPressMakesRequest_run : (ready .run).quiet ∧ (boatAt (ready .run) 2 1 .waiting []).quiet ∧
    (∀ c, w.chanE c ≠ some (.berthButton 0)) ∧ (ready .run).queue = [] ∧ (ready .run).zoneFree 1 = true ∧
    (boatAt (ready .run) 2 1 .waiting []).zoneFree 1 = false ∧ (ready .run).zoneE 0 =
      some (zoneOf .berth 0 1 none none (some 0) (some 0) none none [0]) ∧ w.authE 0 = some ⟨0, 0, .gate, .controller⟩ :=
  ⟨quiet_of_calm (by decide +kernel), quiet_of_calm (by decide +kernel), fun c h => (by rw [w_chanE] at h; cases h), rfl,
    by decide +kernel, by decide +kernel, by decide +kernel, by decide +kernel⟩
theorem test_witness_BerthPressMakesRequest_others : (ready .config).mode = .config ∧ ((ready .config).berthS 0).state = .secured ∧
    ((ready .hold).putAct 8 ⟨some .lockLock, false⟩).lockConfirmed ⟨0, 0, .load, 7, 8, none, none⟩ = false ∧
    ((berthIn w 0 .occupied).berthS 0).latch = true ∧ ((berthIn w 0 .requested).berthS 0).state = .requested := by decide +kernel
theorem test_witness_BerthPressMakesRequest_sound : (ready .config).sequencersSound ∧ (ready .checking).sequencersSound ∧
    (ready .stop).sequencersSound := ⟨fun _ => by decide +kernel, fun _ => by decide +kernel, fun _ => by decide +kernel⟩
theorem test_witness_WeightAndTagAreTaken : w.berthOfSource 9 = some (1, ⟨1, 1, .pad, 10, 11, some 0, none⟩) ∧
    ((berthIn (boatAt w 1 1 .waiting []) 1 .secured).berthS 1).state = .secured ∧ (berthIn (boatAt w 1 1 .waiting []) 1 .secured).occupant 1 = some 1 ∧
    w.berthOfSource 10 = some (2, ⟨4, 2, .unload, 7, 8, none, some 0⟩) ∧ w.occupant 4 ≠ some 1 ∧ (boatAt w 1 4 .waiting []).occupant 4 = some 1 := by
  decide +kernel

/-- A charge that passes every re-check. -/
def charging : State := seqIn (inMode (berthIn (boatAt w 1 1 .granted [2, 3]) 1 .released) .run) .charging none
theorem test_witness_BoosterReadyFiresOrAborts : charging.boosterMatch 9 0 = some 0 ∧
    charging.launchE 0 = some ⟨1, 4, 0, 0, 100, 10, 10⟩ ∧ (charging.seqS 0).state = .charging ∧
    charging.recheck 0 ⟨1, 4, 0, 0, 100, 10, 10⟩ = none ∧ charging.authE 4 = some ⟨1, 0, .booster, .controller⟩ ∧ charging.launchE 1 = none ∧
    (charging.seqS 0).boat = some 1 ∧ (charging.seqS 0).band = some 0 ∧ (inMode charging .hold).recheck 0 ⟨1, 4, 0, 0, 100, 10, 10⟩ = some .mode := by
  decide +kernel
/-- Each reason for which a READY aborts occurs. -/
theorem test_witness_BoosterReadyFiresOrAborts_reasons :
    (berthIn charging 1 .empty |>.putBerth 1 .initial).recheck 0 ⟨1, 4, 0, 0, 100, 10, 10⟩ = some .latchOpen ∧
    (charging.putZs 2 .clear).recheck 0 ⟨1, 4, 0, 0, 100, 10, 10⟩ = some .reservation ∧
    (charging.putBoat 1 (some { boat 1 .granted [2, 3] with weight := none })).recheck 0 ⟨1, 4, 0, 0, 100, 10, 10⟩ =
      some .brakeCapacity := by decide +kernel
theorem test_witness_BoosterDoneEndsFiring : ((seqIn (boatAt w 1 1 .moving [2]) .firing none).seqS 0).state = .firing ∧
    (seqIn (boatAt w 1 1 .moving [2]) .firing none).pathOf 1 ≠ [] ∧ ((seqIn w .firing (some 1101)).seqS 0).held = some 1101 ∧
    classify (w.bandTarget 0 0) 10 1101 = .strong ∧ (seqIn w .firing none).pathOf 1 = [] ∧ ((seqIn w .charging none).seqS 0).state = .charging := by
  decide +kernel
theorem test_witness_BoosterDoneEndsFiring_cooldown : fast.boosterMatch 9 0 = some 0 ∧
    ((seqIn fast .firing (some 1101)).seqS 0).held = some 1101 ∧ ((seqIn fast .firing none).seqS 0).held = none ∧
    (seqIn fast .firing none).pathOf 1 = [] ∧ ((seqIn fast .firing none).seqS 0).band = some 0 ∧
    (fast.launchE 0).map LaunchEntry.cooldown = some 0 ∧ fast.queue = [] := by decide +kernel
theorem test_witness_LaunchTimersExpire : ((seqIn w .charging none).seqS 0).charge = some 900 ∧ 900 + 100 ≤ max w.now 1000 ∧
    ((seqIn w .firing none).seqS 0).done = some 500 ∧ 500 + 500 ≤ max w.now 1000 ∧
    ((seqIn w .cooldown none).seqS 0).cooldown = some 990 ∧ 990 + 10 ≤ max w.now 1000 := by decide +kernel

/-! ### Witnesses: nodes and acknowledgements -/

theorem test_witness_NodeRecordsMoveRoster : w.nodeE 2 = some ⟨10, .aux, 1, 0⟩ ∧ w.nodeOfAddress 10 = some 2 ∧
    ((nodeIn w 0 .joining).nodeS 0).state = .joining ∧ w.mode ≠ .run ∧ w.authE 0 = some ⟨0, 0, .gate, .controller⟩ ∧
    (w.actS 0).commanded = some .gateClose := by decide +kernel
/-- A HELLO that finds room for its LIMIT, in ABSENT, ACTIVE and JOINING, and one that finds the origin queue full. -/
def full : State := { nodeIn w 0 .joining with dn := busy [] (List.replicate 16 plainFrame) }
theorem test_witness_NodeRecordsMoveRoster_hello : w.quiet ∧ (nodeIn w 2 .absent).quiet ∧ (nodeIn w 2 .joining).quiet ∧
    w.dn.room = true ∧ w.nextLimit = none ∧ (nodeIn w 2 .joining).nextLimit = none ∧ w.nodeE 0 = some ⟨8, .berth, 1, 1⟩ ∧
    full.dn.room = false ∧ full.dn.tx = some ⟨frameTo 1 3 [], []⟩ ∧ (full.nodeS 0).join = some 950 ∧ full.nodeOfAddress 8 = some 0 :=
  ⟨quiet_of_calm (by decide +kernel), quiet_of_calm (by decide +kernel), quiet_of_calm (by decide +kernel), by decide +kernel⟩
theorem test_witness_AckAcceptedCompletesCommand : (listed w 3 .switchAlt).ackMatch 8 3 3 = some ⟨3, .switchAlt, 3, some 950⟩ ∧
    w.authE 3 = some ⟨0, 3, .switch, .controller⟩ ∧ (listed w 5 .finEngage).ackMatch 9 1 3 = some ⟨5, .finEngage, 3, some 950⟩ ∧
    ((w.putRun 0 ⟨.restoring, none, none, (Vector.replicate 8 false).setIfInBounds 0 true⟩).runS 0).state = .restoring ∧ (w.stageOf 0 0).fin = 5 := by
  decide +kernel
/-- A grant that waits on its switch throw. -/
def throwing (m : Mode) : State :=
  listed ((inMode (boatAt w 1 5 .granted [0]) m).putRel 1 (some ⟨⟨1, 5, [0], 0⟩, .throw 3⟩)) 3 .switchAlt
theorem test_witness_AckAcceptedCompletesCommand_throw : (throwing .run).throwsOn 3 = [1] ∧
    (throwing .run).release 1 = some ⟨⟨1, 5, [0], 0⟩, .throw 3⟩ ∧ (throwing .run).queued 1 = false ∧
    ((throwing .run).zoneE 5).bind ZoneEntry.gate = some 6 ∧ (throwing .run).authE 6 = some ⟨0, 4, .gate, .controller⟩ ∧
    (throwing .run).ackMatch 8 3 3 = some ⟨3, .switchAlt, 3, some 950⟩ ∧ (throwing .hold).mode = .hold ∧
    (throwing .hold).boatR 1 = some (boat 5 .granted [0]) := by decide +kernel
/-- A gate that opens for the granted boat in RUN. -/
def opening : State :=
  listed ((inMode (boatAt w 1 0 .granted [1]) .run).putRel 1 (some ⟨⟨1, 0, [1], 0⟩, .gate⟩)) 0 .gateOpen
theorem test_witness_AckAcceptedCompletesCommand_gate : opening.quiet ∧ opening.ackMatch 8 0 3 = some ⟨0, .gateOpen, 3, some 950⟩ ∧
    opening.nodeOfAddress 8 = some 0 ∧ (opening.nodeS 0).state ≠ .silent ∧ opening.authE 0 = some ⟨0, 0, .gate, .controller⟩ ∧
    (opening.zoneE 0).bind ZoneEntry.gate = some 0 ∧ opening.occupant 0 = some 1 ∧
    opening.release 1 = some ⟨⟨1, 0, [1], 0⟩, .gate⟩ ∧ opening.mode = .run :=
  ⟨quiet_of_calm (by decide +kernel), by decide +kernel⟩
/-- The small circuit without its unload berth, which shares lamp and lock with the load berth. -/
def alone : State := { w with tab := { w.tab with berth := w.tab.berth.setIfInBounds 2 none } }
/-- The load berth with a pending press, its latch closed and LOCK commanded. -/
def waiting (st : BerthState) : State :=
  listed ((boatAt alone 1 0 .waiting []).putBerth 0 { BerthStatus.initial with state := st, presence := true, latch := true, pending := true }) 8 .lockLock
theorem test_witness_AckAcceptedCompletesCommand_lock : (waiting .secured).quiet ∧ (waiting .occupied).quiet ∧
    (waiting .occupied).ackMatch 8 6 3 = some ⟨8, .lockLock, 3, some 950⟩ ∧ (waiting .occupied).nodeOfAddress 8 = some 0 ∧
    ((waiting .occupied).nodeS 0).state = .active ∧ (waiting .occupied).authE 8 = some ⟨0, 6, .lock, .controller⟩ ∧
    (waiting .occupied).berthE 0 = some ⟨0, 0, .load, 7, 8, none, none⟩ ∧
    (∀ d, d < 6 → d ≠ 0 → (((waiting .occupied).berthE d).all fun f => f.lamp ≠ 7 ∧ f.lock ≠ 8) = true) ∧
    ((waiting .occupied).actS 8).commanded = some ((waiting .occupied).berthS 0).lock.value ∧
    (waiting .occupied).occupant 0 = some 1 ∧ (waiting .occupied).boatR 1 = some (boat 0 .waiting []) ∧
    (waiting .occupied).walk 0 .main = .ok [1] :=
  ⟨quiet_of_calm (by decide +kernel), quiet_of_calm (by decide +kernel), by decide +kernel⟩
theorem test_witness_AckAcceptedCompletesCommand_lamp : (listed alone 7 .lampOff).quiet ∧
    (listed alone 7 .lampOff).ackMatch 8 5 3 = some ⟨7, .lampOff, 3, some 950⟩ ∧
    ((listed alone 7 .lampOff).actS 7).commanded = some ((listed alone 7 .lampOff).berthS 0).lamp.value ∧
    (listed alone 8 .lockLock).quiet ∧ ((listed alone 8 .lockLock).berthS 0).pending = false :=
  ⟨quiet_of_calm (by decide +kernel), by decide +kernel, by decide +kernel, quiet_of_calm (by decide +kernel), by decide +kernel⟩
theorem test_witness_ActuatorFailureLosesNode : w.actNode 3 = some 0 ∧ (w.nodeS 0).state.present = true ∧
    (listed w 3 .switchAlt).cmds.find? (fun c => c.act == 3) = some ⟨3, .switchAlt, 3, some 950⟩ ∧ 950 + 50 ≤ max w.now 1000 ∧
    max ({ w with now := 0 } : State).now 999 < 950 + 50 := by decide +kernel
/-- A throw that waits on the acknowledgement whose timer has run. -/
theorem test_witness_ActuatorFailureLosesNode_throw : (throwing .run).throwsOn 3 = [1] ∧
    (throwing .run).release 1 = some ⟨⟨1, 5, [0], 0⟩, .throw 3⟩ ∧ (throwing .run).actNode 3 = some 0 ∧
    ((throwing .run).nodeS 0).state.present = true ∧
    (throwing .run).cmds.find? (fun c => c.act == 3) = some ⟨3, .switchAlt, 3, some 950⟩ := by decide +kernel
theorem test_witness_NodeTimersMoveRoster : ((nodeIn w 0 .joining).nodeS 0).join = some 950 ∧ 950 + 50 ≤ max w.now 1000 ∧
    ((nodeIn w 1 .active).nodeS 1).lastHeard = some 800 ∧ 800 + 60 ≤ max w.now 1000 ∧ ((nodeIn w 1 .silent).nodeS 1).state = .silent ∧
    800 + 200 ≤ max w.now 1000 ∧ max ({ w with now := 0 } : State).now 859 < 800 + 60 ∧ (w.zoneE 0).map ZoneEntry.depends = some [0] ∧
    w.boosterNode 0 = some 1 := by decide +kernel

/-! ### Witnesses: timers, pulses and the check -/

/-- Zone 2 occupied by boat 1 with its watch running from 900 ms. -/
def watched : State := let s := boatAt w 1 2 .moving [3]; s.putZs 2 { s.zst 2 with watch := some 900 }
theorem test_witness_WatchStartsAndExpires : watched.zoneE 2 = some (zoneOf .channel 2 3 none none none none none none []) ∧
    (watched.zst 2).watch = some 900 ∧ 900 + 100 ≤ max watched.now 1000 ∧ watched.occupant 2 = some 1 ∧ watched.zoneOfMarker 0 3 = some 3 ∧
    (watched.zst 3).reserved = some 1 ∧ watched.boatR 1 = some (boat 2 .moving [3]) ∧ watched.queued 1 = false ∧ (w.zst 2).watch = none := by decide +kernel
theorem test_witness_WatchStartsAndExpires_starts : (boatAt w 1 0 .granted [1]).occupant 0 = some 1 ∧
    ((boatAt w 1 0 .granted [1]).putRel 1 (some ⟨⟨1, 0, [1], 0⟩, .gate⟩)).release 1 = some ⟨⟨1, 0, [1], 0⟩, .gate⟩ ∧
    (w.zoneE 0).bind ZoneEntry.gate = some 0 ∧ ((seqIn (boatAt w 1 1 .granted [2]) .firing none).seqS 0).boat = some 1 ∧
    (boatAt w 1 1 .granted [2]).occupant 1 = some 1 ∧ w.occupant 1 ≠ ((seqIn w .firing none).seqS 0).boat := by decide +kernel
/-- A circuit with users on channel 0. -/
def wired : State := { w with
  tab := { w.tab with user := fill w.tab.user [(0, ⟨1, .follow, 5⟩), (8, ⟨1, .rising, 0⟩), (16, ⟨1, .rising, 0⟩), (17, ⟨1, .follow, 0⟩), (20, ⟨1, .follow, 0⟩)] }
  pulses := State.reset.pulses.setIfInBounds 0 (some 1000) }
theorem test_witness_PulsesReachUsers : wired.pulses[0]? = some (some 1000) ∧ 1000 ≤ max wired.now 1000 ∧ (wired.userE 0).chan = 0 + 1 ∧
    (wired.userE 8).chan = 0 + 1 ∧ (wired.userE 8).mode ≠ .follow ∧ (wired.zoneE (wired.userE 8).param).isSome = true ∧
    (wired.userE 16).mode ≠ .follow ∧ (wired.userE 17).mode = .follow ∧ (wired.launchE (wired.userE 20).param).isSome = true ∧
    ((seqIn wired .charging none).seqS (wired.userE 20).param).state = .charging := by decide +kernel
theorem test_witness_PulsesReachUsers_trap :
    ({ wired with tab := { wired.tab with chan := wired.tab.chan.setIfInBounds 0 (some (.trapDone 0)) } } : State).chanE 0 = some (.trapDone 0) ∧
    wired.nodeOfAddress 8 = some 0 ∧ wired.trapOf 0 0 = some (0, ⟨0, 0, 500, 2, .launch, none⟩) ∧ (wired.userE 20).chan = 0 + 1 ∧
    ((seqIn wired .charging none).seqS 0).boat = some 1 := by decide +kernel
/-- A check about to examine an item. -/
def checkingAt (s : State) (n : Nat) : State := inMode { s with mc := { s.mc with check := some ⟨990, n⟩ } } .checking
/-- Users of every kind and mode on channel 8, whose generator is an input of the AUX_NODE. -/
def wiredInput (level : Bool) : State := { w with
  tab := { w.tab with
    chan := w.tab.chan.setIfInBounds 8 (some (.nodeInput 2 3))
    user := fill w.tab.user [(0, ⟨9, .rising, 5⟩), (1, ⟨9, .falling, 7⟩), (7, ⟨9, .follow, 5⟩), (8, ⟨9, .rising, 0⟩),
      (9, ⟨9, .falling, 1⟩), (15, ⟨9, .follow, 2⟩), (16, ⟨9, .rising, 0⟩), (17, ⟨9, .falling, 0⟩), (19, ⟨9, .follow, 0⟩),
      (20, ⟨9, .follow, 0⟩)] }
  inputs := State.reset.inputs.setIfInBounds 2 (if level then 8 else 0) }
/-- An event that raises the level, one that lowers it and one that leaves it; the edges of the statement all have their users. -/
theorem test_witness_PulsesReachUsers_edges : (wiredInput true).chanE 8 = (wiredInput false).chanE 8 ∧
    (wiredInput false).chanE 8 = some (.nodeInput 2 3) ∧ (wiredInput false).chanLevel 8 = false ∧ (wiredInput true).chanLevel 8 = true ∧
    (∀ x ∈ [0, 1, 7, 8, 9, 15, 16, 17, 19, 20], ((wiredInput true).userE x).chan = 8 + 1) ∧
    (∀ x ∈ [8, 9, 15], ((wiredInput true).zoneE ((wiredInput true).userE x).param).isSome = true) ∧
    ((wiredInput true).userE 0).mode = .rising ∧ ((wiredInput true).userE 1).mode = .falling ∧ ((wiredInput true).userE 7).mode = .follow ∧
    ((wiredInput true).userE 8).mode = .rising ∧ ((wiredInput true).userE 9).mode = .falling ∧ ((wiredInput true).userE 15).mode = .follow ∧
    (wiredInput false).pulses[7]? = some none ∧ (wiredInput false).userE 21 = .initial 21 := by decide +kernel
theorem test_witness_PulsesReachUsers_inhibit : ((wiredInput true).launchE ((wiredInput true).userE 20).param).isSome = true ∧
    ((seqIn (wiredInput true) .charging none).seqS ((wiredInput true).userE 20).param).state = .charging ∧
    ((seqIn (wiredInput true) .charging none).seqS 0).boat = some 1 := by decide +kernel
theorem test_witness_PulsesReachUsers_heartbeat : (wiredInput false).nodeOfAddress 10 = some 2 ∧
    (wiredInput false).nodeE 2 = some ⟨10, .aux, 1, 0⟩ ∧ ((wiredInput false).inputS 2).getLsbD 3 = false ∧
    (8 : BitVec 4).getLsbD 3 = true ∧ ((wiredInput true).inputS 2).getLsbD 3 = true ∧ (0 : BitVec 4).getLsbD 3 = false ∧
    ((seqIn (wiredInput false) .charging none).seqS 0).state = .charging := by decide +kernel
theorem test_witness_CheckItemEndsOrGoesOn : (checkingAt w 2).checkNth 2 = none ∧
    ({ w with tab := { w.tab with zone := w.tab.zone.setIfInBounds 1 none } } : State).checkNth 1 = some ⟨.zone, 0, .undefinedSuccessor, some 1⟩ ∧
    (checkingAt w 10).checkNth 10 = none ∧ (checkingAt w 10).mc.holdPending = false ∧ (checkingAt w 10).anyFault = false ∧
    (w.putZs 0 { ZoneStatus.clear with fault := some .double }).anyFault = true := by decide +kernel
/-- The circuit with another zone entry, and with another of some other table. -/
def rezoned (z : Nat) (e : ZoneEntry) : State := { w with tab := { w.tab with zone := w.tab.zone.setIfInBounds z (some e) } }
/-- Every item of the check fails on some circuit, and passes on some. -/
theorem test_witness_CheckItemsExamineTables : w.checkNth 1 = none ∧
    (rezoned 5 (zoneOf .transfer 5 0 (some 4) none (some 6) none none none [])).checkNth 2 = some ⟨.zone, 5, .switchPair, none⟩ ∧
    (rezoned 2 (zoneOf .channel 2 3 none none (some 0) none none none [])).checkNth 3 = some ⟨.zone, 2, .gate, none⟩ ∧
    (rezoned 2 (zoneOf .channel 2 1 none none none none none none [])).walk 1 .main = .error .loop ∧
    ((rezoned 2 (zoneOf .channel 2 1 none none none none none none [])).checkNth 4).map Failure.reason = some .pathLoop ∧
    w.checkNth 5 = none ∧ ((rezoned 0 (zoneOf .queue 0 1 none none (some 0) none none none [])).checkNth 5).isSome = true ∧
    w.checkNth 6 = none ∧ (({ w with tab := { w.tab with band := Tables.initial.band } } : State).checkNth 6).map Failure.reason = some .noBand ∧
    w.checkNth 7 = none ∧ (({ w with tab := { w.tab with run := Tables.initial.run } } : State).checkNth 7).map Failure.reason = some .pathEnd ∧
    (w.checkNth 8).map Failure.reason = some .authorityShared ∧ alone.checkNth 8 = none ∧
    w.checkNth 9 = none ∧ ((nodeIn w 0 .lost).checkNth 9).map Failure.reason = some .nodeNotActive ∧
    w.checkNth 10 = none ∧ (boatAt w 1 2 .moving []).checkNth 10 = some ⟨.boat, 0, .boatZone, some 2⟩ := by decide +kernel

/-! ### Witnesses: management records -/

theorem test_witness_SelectionMovesPointer : Table.ofCode 19 = none ∧ Table.ofCode 18 = some .checkResult ∧ Table.ofCode 0 = some .zone ∧
    Table.zone.entries ≤ 64 ∧ 63 < Table.zone.entries := by decide +kernel
/-- The pointer at an entry, in a mode. -/
def pointing (t : Table) (i : Nat) (m : Mode) : State := { inMode w m with ptr := (t, i) }
/-- An image of 26 bytes. -/
def image (l : List Byte) : List Byte := zeroFill 26 l
theorem test_witness_WriteIsTestedAndStored : 12 ≤ (pointing .zoneStatus 0 .run).ptr.1.code ∧ (pointing .berth 0 .checking).ptr.1.code < 10 ∧
    (pointing .zone 0 .run).ptr.1 ≠ .stage ∧ byteAt (image [5, 78, 31]) 0 = (w.stageE 0).fin ∧ wordAt (image [5, 78, 31]) 1 ≠ (w.stageE 0).nominal ∧
    wordAt (image [5, 78, 32, 240]) 1 = (w.stageE 0).nominal ∧ signed1 (byteAt (image [5, 78, 32, 240]) 3) = -16 ∧
    decodeBand (image [1, 0, 100, 1, 244, 0, 0]) = some (some ⟨100, 500, 0⟩, false) ∧ decodeTrap (image [2]) = none ∧
    decodeTrap (image [1, 0, 0, 1, 0, 2, 0, 255]) = some (some ⟨0, 0, 256, 2, .check, none⟩, false) ∧ w.trapE 0 = some ⟨0, 0, 500, 2, .launch, none⟩ ∧
    decodeZone (image [0]) = some (none, false) ∧ (boatAt w 1 0 .waiting []).occupant 0 = some 1 := by decide +kernel
theorem test_witness_WriteIsTestedAndStored_entries : decodeNode (image [1, 20, 5, 0, 0, 0, 0]) = some (some ⟨20, .aux, 0, 0⟩, false) ∧
    (∀ j, j < 48 → ((State.reset.nodeE j).all fun y => y.address ≠ 20) = true) ∧
    decodeAuth (image [1, 0, 15, 0, 0]) = some (some ⟨0, 15, .gate, .controller⟩, false) ∧ ActKind.gate ≠ .lamp := by decide +kernel
theorem test_witness_WriteIsTestedAndStored_values : wordAt (image [0, 50, 0, 60]) 0 ≠ 65535 ∧ wordAt (image [0, 50, 0, 60]) 2 ≠ 65535 ∧
    wordAt (image [255, 255]) 0 = 65535 ∧ byteAt (image [1, 2, 0, 255, 255, 0, 0, 255]) 0 = 1 ∧
    byteAt (image [1, 2, 0, 255, 255, 0, 0, 255]) 1 = 2 ∧ byteAt (image [1, 2, 0, 255, 255, 0, 0, 255]) 7 = 255 := by decide +kernel
/-- An image for each table, taken beside the entries of the circuit. -/
theorem test_witness_WritesTakeEffect : decodeZone (image [1, 2, 1, 255, 255, 0, 7, 0, 0, 100, 255, 255, 0, 0, 0, 0, 0, 255, 255, 255]) =
      some (some ⟨.queue, 1, none, none, 0, 7, some 0, 100, none, [], none, none, none⟩, false) ∧
    (∀ j, j < 64 → ((w.zoneE j).all fun y => y.markerSensor ≠ 7) = true) ∧ w.authE 0 = some ⟨0, 0, .gate, .controller⟩ ∧
    decodeZone (image [0]) = some (none, false) ∧ w.occupant 2 = none ∧ (w.zst 2).reserved = none ∧
    decodeTrap (image [1, 2, 0, 0, 10, 2, 0, 255]) = some (some ⟨2, 0, 50, 2, .check, none⟩, true) ∧
    (∀ j, j < 8 → ((w.trapE j).all fun y => y.node ≠ 2) = true) ∧
    decodeLaunch (image [1, 1, 4, 0, 0, 0, 100, 0, 10, 10]) = some (some ⟨1, 4, 0, 0, 100, 10, 10⟩, false) ∧ w.launchE 1 = none ∧
    decodeRun (image [1, 3, 3, 232, 0, 100, 0, 0, 19, 136, 0, 1, 0]) = some (some ⟨3, 1000, 100, 0, 5000, 0, 1, 0⟩, false) ∧
    w.runE 1 = none ∧ decodeRun (image [0]) = some (none, false) := by decide +kernel
theorem test_witness_WritesTakeEffect_more : decodeStage (image [5, 78, 32, 240]) = some (⟨5, 20000, -16⟩, false) ∧
    w.authE 5 = some ⟨1, 1, .fin, .controller⟩ ∧
    decodeBerth (image [1, 0, 0, 1, 7, 8, 255, 255]) = some (some ⟨0, 0, .load, 7, 8, none, none⟩, false) ∧
    (∀ j, j < 6 → j ≠ 0 → ((w.berthE j).all fun y => y.zone ≠ 0 ∧ y.node ≠ 0) = true) ∧
    (∀ j, j < 6 → j ≠ 0 → ((alone.berthE j).all fun y => y.lamp ≠ 7 ∧ y.lock ≠ 8) = true) ∧
    (alone.berthE 0).map BerthEntry.node = some 0 ∧ alone.berthE 2 = none ∧
    decodeBerth (image [0]) = some (none, false) ∧ decodeChannel 0 (image [0, 2]) = some (some (.modeIs .run)) ∧
    decodeUser 20 (image [1, 0, 0]) = some (⟨1, .follow, 0⟩, false) ∧ w.ev = Ev.none := by decide +kernel
/-- Images whose numbers lie outside their ranges. -/
theorem test_witness_WritesTakeEffect_clamps :
    decodeZone (image [1, 2, 1, 255, 255, 0, 7, 0, 0, 99, 1, 243, 0, 0, 0, 0, 0, 255, 255, 255]) =
      some (some ⟨.queue, 1, none, none, 0, 7, some 0, 100, some 500, [], none, none, none⟩, true) ∧
    decodeZone (image [1, 2, 1, 255, 255, 0, 7, 0, 234, 97, 255, 254, 0, 0, 0, 0, 0, 255, 255, 255]) =
      some (some ⟨.queue, 1, none, none, 0, 7, some 0, 60000, some 20000, [], none, none, none⟩, true) ∧
    decodeRun (image [1, 3, 0, 1, 19, 137, 78, 33, 78, 33, 201, 9, 9]) = some (some ⟨3, 1000, 5000, 20000, 20000, 200, 8, 8⟩, true) ∧
    decodeStage (image [5, 78, 33, 239]) = some (⟨5, 20000, -16⟩, true) := by decide +kernel
/-- A charge that a level which has become high aborts. -/
theorem test_witness_WritesTakeEffect_inhibit : (wired.userE 20).param = 0 ∧
    (({ inMode wired .run with tab := { wired.tab with chan := wired.tab.chan.setIfInBounds 0 (some (.modeIs .run)) } } : State).userLevel 20) = true ∧
    (wired.launchE 0).isSome = true ∧ ((seqIn wired .charging none).seqS 0).state = .charging := by decide +kernel
theorem test_witness_WritesTakeEffect_sound : (pointing .zone 0 .config).sequencersSound := fun _ => by decide +kernel
/-- Entries within their values, for every table. -/
theorem test_witness_EntryImagesDecodeBack :
    (zoneOf .berth 0 1 none none (some 0) (some 0) none none [0]).fits ∧ (⟨100, 500⟩ : ClassEntry).fits ∧
    (⟨8, .berth, 1, 1⟩ : NodeEntry).fits ∧ (⟨0, 0, .gate, .controller⟩ : AuthEntry).fits ∧
    (⟨0, 1, 500, 3, .brake, some 0⟩ : TrapEntry).fits ∧ (⟨1, 4, 0, 0, 100, 10, 10⟩ : LaunchEntry).fits ∧
    (⟨1000, 1000, 2000⟩ : BandEntry).fits ∧ (⟨3, 1000, 100, 0, 5000, 0, 1, 0⟩ : RunEntry).fits ∧ (⟨5, 20000, 0⟩ : StageEntry).fits ∧
    (⟨1, 1, .pad, 10, 11, some 0, none⟩ : BerthEntry).fits ∧ (Gen.zoneOccupied 31).fits 0 ∧ (⟨1, .follow, 5⟩ : UserEntry).fits 0 := by
  simp [ZoneEntry.fits, atMost, zoneOf, ZKind.gated, ClassEntry.fits, NodeEntry.fits, AuthEntry.fits, TrapEntry.fits, LaunchEntry.fits,
    BandEntry.fits, RunEntry.fits, StageEntry.fits, BerthEntry.fits, Gen.fits, UserEntry.fits]
theorem test_witness_ImagesHaveStatedBytes : w.zoneE 9 = none ∧ (boatAt w 1 0 .granted [1]).boatR 1 = some (boat 0 .granted [1]) ∧
    (boat 0 .granted [1]).path.length ≤ 16 ∧ (∀ z ∈ (boat 0 .granted [1]).path, z < 64) ∧ Counter.upReceived.place < 8 ∧
    8 ≤ Counter.mgmtOverrun.place := by decide +kernel
theorem test_witness_ReadStatusCountersAndMask : (0x3FFFFF : BitVec 24).getLsbD 22 = false ∧ (0x3FFFFF : BitVec 24).getLsbD 23 = false ∧
    (0x400000 : BitVec 24).getLsbD 22 = true := by decide +kernel
/-- A request of `n` results, and one that no more can join. -/
def asked (n : Nat) : State := { w with req := some ⟨List.replicate n (.plain .ok), none, none, false, false⟩ }
/-- A request frame of records. -/
def requestFrame (l : List RawRecord) : List Byte := buildFrame 96 1 6 (chainBytes l)
theorem test_witness_RequestsAreAnswered : MgmtRecord.status.toCommand 0 true = some (.status 0 true) ∧
    MgmtRecord.status.toCommand 0 false = some (.status 0 false) ∧ (MgmtResult.plain .ok).resetMode = false ∧
    (asked 2).req = some ⟨List.replicate 2 (.plain .ok), none, none, false, false⟩ ∧
    ((asked 8).req.map Request.count) = some 8 ∧ wBusy.up.tx = some ⟨frameTo 1 3 [], []⟩ ∧ wBusy.up.room = true ∧
    w.req = none ∧ ({ w with held := some plainFrame } : State).held = some plainFrame ∧
    ({ w with up := busy [] (List.replicate 16 plainFrame) } : State).up.room = false := by decide +kernel
/-- Request frames that do not parse, of nine records, of none and of two. -/
theorem test_witness_RequestsAreAnswered_frames : parseFrame (buildFrame 96 1 6 [129, 44, 0]) = none ∧
    checkOk (buildFrame 96 1 6 [129, 44, 0]) = true ∧ frameDst (buildFrame 96 1 6 [129, 44, 0]) = w.addr ∧
    parseFrame (requestFrame (List.replicate 9 ⟨44, []⟩)) = some (List.replicate 9 ⟨44, []⟩) ∧ parseFrame (requestFrame []) = some [] ∧
    checkOk (requestFrame []) = true ∧ frameKind (requestFrame []) = 6 ∧ frameSrc (requestFrame []) = 1 ∧
    parseFrame (requestFrame [⟨44, []⟩, ⟨35, []⟩]) = some [⟨44, []⟩, ⟨35, []⟩] ∧
    [(⟨44, []⟩ : RawRecord), ⟨35, []⟩].map (fun r => (mgmtRecord r).toCommand 0 false) =
      [Instr.status 0 false, .read 0 false].map some := by decide +kernel
theorem test_witness_ModeRecordsFollowTable : (w.modeAnswer 0).2 ≠ w.mode ∧ (w.modeAnswer 1).2 ≠ w.mode ∧
    ((inMode w .run).modeAnswer 2).2 ≠ .run ∧ ((inMode w .stop).modeAnswer 3).2 ≠ .stop ∧ (inMode w .config).mc.estop = false := by decide +kernel
theorem test_witness_BoatAndZoneRecords : (inMode w .config).stoppable 0 = true ∧ w.stoppable 2 = false ∧ w.boatR 24 = none ∧
    w.occupant 0 = none ∧ (w.zst 0).reserved = none ∧ ((boatAt w 1 0 .waiting []).boatR 1).isSome = true ∧
    (boatAt w 1 0 .waiting []).boatR 1 = some (boat 0 .waiting []) ∧ (boatAt w 1 0 .moving []).boatR 1 = some (boat 0 .moving []) := by decide +kernel
theorem test_witness_BoatAndZoneRecords_clear : (w.zoneE 5).isSome = true ∧ w.zoneE 64 = none ∧ (boatAt w 1 0 .waiting []).occupant 0 = some 1 := by decide +kernel
theorem test_witness_ResetsTakeEffect : (w.launchE 0).map LaunchEntry.booster = some 4 ∧ w.authE 4 = some ⟨1, 0, .booster, .controller⟩ ∧
    (w.berthE 0).map BerthEntry.lamp = some 7 ∧ (w.berthE 0).map BerthEntry.lock = some 8 ∧ (w.stageOf 0 0).fin = 5 ∧
    (w.zoneE 0).bind ZoneEntry.gate = some 0 ∧ (w.nodeS 1).state.present = true ∧ w.mc.estop = false ∧ ({ w with mc := { w.mc with estop := true } } : State).mc.estop = true := by decide +kernel

/-! ### Witnesses: shared operations -/

theorem test_witness_NoticeAndFaultRules : ({ w with mask := 0 } : State).mask.getLsbD (Notice.overdue 0 none).kind = false ∧
    w.mask.getLsbD (Notice.overdue 0 none).kind = true ∧ w.notices.length < 16 ∧
    16 ≤ ({ w with notices := List.replicate 16 (.overdue 0 none) } : State).notices.length ∧ (w.zoneE 0).isSome = true := by decide +kernel
theorem test_witness_HandedCommandRule : w.authE 0 = some ⟨0, 0, .gate, .controller⟩ ∧ ActValue.gateOpen.kind = .gate ∧
    (w.nodeS 0).state.present = true ∧ ((nodeIn w 0 .lost).nodeS 0).state.present = false ∧ (ActValue.boosterRequest 15001).inRange = false := by decide +kernel
theorem test_witness_HandedCommandRule_refused : ∀ e, w.authE 63 = some e → ActValue.gateOpen.kind ≠ e.kind ∨ ActValue.gateOpen.inRange = false := by
  intro e h
  rw [show w.authE 63 = none by decide +kernel] at h
  cases h
theorem test_witness_RequestRule : (boatAt w 1 0 .waiting []).boatR 1 = some (boat 0 .waiting []) ∧ w.mode = .hold ∧ w.stoppable 0 = true ∧
    w.walk 0 .main = .ok [1] ∧ w.walk 5 .bay = .ok [4] ∧ (boatAt w 1 0 .granted []).boatR 1 = some (boat 0 .granted []) ∧
    ({ w with tab := { w.tab with zone := w.tab.zone.setIfInBounds 1 none } } : State).zoneE 1 = none := by decide +kernel

/-- A run of zones that are not stoppable, from zone 10 through `n` more and on to zone `last`. -/
def longWay (n last : Nat) : State :=
  { w with tab := { w.tab with zone := fill w.tab.zone ((10, some (zoneOf .queue 10 11 none none (some 0) none none none [])) ::
    (List.range n).map fun i => (11 + i, some (zoneOf .channel (11 + i) (if i + 1 = n then last else 12 + i) none none none none none none []))) } }
/-- Walks that end after one zone passed, at the sixteenth zone, at an undefined seventeenth zone, at the origin and for their
length, and a boat in a zone that is not stoppable. -/
theorem test_witness_RequestRule_walk : w.walk 1 .main = .ok ([2] ++ [3]) ∧ w.stoppable 3 = true ∧ w.stoppable 2 = false ∧
    (boatAt w 1 2 .waiting []).boatR 1 = some (boat 2 .waiting []) ∧
    (longWay 15 3).walk 10 .main = .ok ((List.range 15).map (11 + ·) ++ [3]) ∧ (longWay 16 60).walk 10 .main = .error .undefined ∧
    (longWay 15 60).walk 10 .main = .error .undefined ∧ (longWay 3 10).walk 10 .main = .error .loop ∧
    (longWay 16 10).walk 10 .main = .error .loop ∧ (longWay 16 3).walk 10 .main = .error .length := by decide +kernel
/-- From the pad the walk passes the channel and comes to the brake run. -/
theorem test_witness_RequestRule_passes : w.passesTo 1 2 [2] 3 :=
  ⟨rfl, by decide, _, show w.zoneE 2 = some (zoneOf .channel 2 3 none none none none none none []) by decide +kernel, rfl, rfl⟩

/-- A request for the pad behind one whose path is taken, in RUN. -/
def queued : State := { boatAt (inMode w .run) 1 0 .requested [] with queue := [⟨2, 5, [0], 0⟩, ⟨1, 0, [1], 1⟩] }
theorem test_witness_GrantRule : w.mode ≠ .run ∧ queued.queue = [⟨2, 5, [0], 0⟩] ++ ⟨1, 0, [1], 1⟩ :: [] ∧
    queued.grantable ⟨2, 5, [0], 0⟩ = false ∧ queued.grantable ⟨1, 0, [1], 1⟩ = true ∧
    queued.boatR 1 = some (boat 0 .requested []) ∧ (queued.zoneE 0).map ZoneEntry.kind = some .berth ∧
    (queued.zoneE 0).bind ZoneEntry.gate = some 0 ∧ queued.authE 0 = some ⟨0, 0, .gate, .controller⟩ ∧
    queued.berthOfZone 0 = some (0, ⟨0, 0, .load, 7, 8, none, none⟩) ∧ ((berthIn queued 0 .requested).berthS 0).state = .requested := by
  decide +kernel
/-- Grants from a TRANSFER zone, to the main route and to the alternate. -/
theorem test_witness_GrantRule_transfer : w.zoneE 5 = some (zoneOf .transfer 5 0 (some 4) (some 3) (some 6) none none none []) ∧
    (boatAt w 1 5 .requested []).boatR 1 = some (boat 5 .requested []) ∧ w.authE 3 = some ⟨0, 3, .switch, .controller⟩ ∧
    [4].head? = some 4 ∧ [0].head? ≠ some 4 ∧ (6 : Nat) ≠ 3 := by decide +kernel
/-- A LAUNCH origin with a band, and one that an inhibit or a lost booster aborts at once. -/
theorem test_witness_GrantRule_launch : (w.zoneE 1).map ZoneEntry.kind = some .launch ∧ (w.zoneE 1).bind ZoneEntry.sec = some 0 ∧
    w.launchE 0 = some ⟨1, 4, 0, 0, 100, 10, 10⟩ ∧ (boat 1 .requested []).band = some (0, 0) ∧ w.inhibited 0 = false ∧
    w.authE 4 = some ⟨1, 0, .booster, .controller⟩ ∧ w.nodeActive 1 = true ∧ w.nodeE 1 = some ⟨9, .booster, 15000, 1⟩ ∧
    min (w.bandTarget 0 0) 15000 ≤ 15000 ∧ (nodeIn w 1 .lost).nodeActive 1 = false ∧
    ({ inMode wired .run with tab := { wired.tab with chan := wired.tab.chan.setIfInBounds 0 (some (.modeIs .run)) } } : State).inhibited 0 = true := by
  decide +kernel
/-- The pad's berth at a grant of its launch, and at one that is aborted at once with the latch closed and LOCK confirmed. -/
theorem test_witness_GrantRule_pad : w.berthOfZone 1 = some (1, ⟨1, 1, .pad, 10, 11, some 0, none⟩) ∧
    ((berthIn (boatAt w 1 1 .requested []) 1 .requested).berthS 1).state = .requested ∧
    ((berthIn (boatAt w 1 1 .requested []) 1 .requested).berthS 1).presence = true ∧
    ((berthIn (boatAt w 1 1 .requested []) 1 .requested).berthS 1).latch = true ∧
    (berthIn (boatAt w 1 1 .requested []) 1 .requested).lockConfirmed ⟨1, 1, .pad, 10, 11, some 0, none⟩ = true ∧
    (berthIn (boatAt w 1 1 .requested []) 1 .requested).occupant 1 = some 1 ∧ (11 : Nat) ≠ 4 ∧
    (w.launchE 0).map LaunchEntry.zone = some 1 := by decide +kernel
/-- A cooldown that ends with an entry waiting. -/
def cooling (b z : Nat) (path : List Nat) : State :=
  { seqIn (boatAt (inMode w .run) b z .requested []) .cooldown none with queue := [⟨b, z, path, 0⟩] }
theorem test_witness_GrantRule_cooldown : (cooling 1 0 [1]).quiet ∧ (cooling 1 1 [2, 3]).quiet ∧ (cooling 1 0 [1]).mode = .run ∧
    ((cooling 1 0 [1]).seqS 0).state = .cooldown ∧ ((cooling 1 0 [1]).seqS 0).cooldown = some 990 ∧ 990 + 10 ≤ max (cooling 1 0 [1]).now 1000 ∧
    (∀ z ∈ [1], (cooling 1 0 [1]).zoneFree z = true) ∧ (∀ z ∈ [2, 3], (cooling 1 1 [2, 3]).zoneFree z = true) ∧
    (cooling 1 1 [2, 3]).boatR 1 = some (boat 1 .requested []) :=
  ⟨quiet_of_calm (by decide +kernel), quiet_of_calm (by decide +kernel), by decide +kernel⟩

end Sys2Proof.Test
end

section
/-! Boats and zones in agreement, through every update of which the commands are made (R10, R18). -/

namespace Sys2Proof.Machine

/-- A zone beyond the table reads as clear. -/
theorem zst_outside (s : State) {z : Nat} (hz : ¬ z < 64) : s.zst z = .clear := by
  unfold State.zst
  rw [Vector.getElem?_eq_none (by omega)]
  rfl

/-- A zone that has an occupant lies in the table. -/
theorem occupant_range {s : State} {z b : Nat} (h : s.occupant z = some b) : z < 64 := by
  by_contra hz
  unfold State.occupant at h
  rw [zst_outside s hz] at h
  cases h

/-- A reserved zone lies in the table. -/
theorem reserved_range {s : State} {z b : Nat} (h : (s.zst z).reserved = some b) : z < 64 := by
  by_contra hz
  rw [zst_outside s hz] at h
  cases h

/-- A stoppable zone lies in the table. -/
theorem stoppable_range {s : State} {z : Nat} (h : s.stoppable z = true) : z < 64 := by
  by_contra hz
  unfold State.stoppable State.zoneE at h
  rw [Vector.getElem?_eq_none (by omega)] at h
  cases h

theorem zst_modZs (s : State) (z w : Nat) (f : ZoneStatus → ZoneStatus) :
    (s.modZs z f).zst w = if w = z ∧ z < 64 then f (s.zst z) else s.zst w := zst_setZs s z w _

theorem ZoneStatus.Loose.refl (q : ZoneStatus) : q.Loose q := ⟨rfl, .inl rfl⟩

/-- The agreement looks at the zones of the boat records and at the zones' occupants and reservations only. -/
theorem State.occupancySound.congr {s u : State} (hs : s.occupancySound)
    (hb : ∀ b, (u.boatR b).map Boat.zone = (s.boatR b).map Boat.zone) (hz : ∀ z, (s.zst z).Loose (u.zst z)) :
    u.occupancySound := by
  obtain ⟨hboat, hocc, hres⟩ := hs
  have ho : ∀ z, u.occupant z = s.occupant z := fun z => (hz z).1
  refine ⟨fun b x hx => ?_, fun z b h => ?_, fun z h => ?_⟩
  · have hm := hb b
    rw [hx, Option.map_some, eq_comm, Option.map_eq_some_iff] at hm
    obtain ⟨y, hy, hyz⟩ := hm
    rw [ho, ← hyz]
    exact hboat b y hy
  · rw [ho] at h
    obtain ⟨x, hx, hxz⟩ := hocc z b h
    have hm := hb b
    rw [hx, Option.map_some, Option.map_eq_some_iff] at hm
    obtain ⟨y, hy, hyz⟩ := hm
    exact ⟨y, hy, hyz.trans hxz⟩
  · have hold := hres z (by rw [← ho]; exact h)
    rcases (hz z).2 with hr | hr | ⟨hn, _⟩
    · rw [hr, hold]
    · exact hr
    · unfold State.occupant at h
      rw [hn] at h
      cases h

/-- Nothing but the boat register and the zone status counts. -/
theorem State.occupancySound.same {s u : State} (hs : s.occupancySound) (hb : u.boats = s.boats) (hz : u.zs = s.zs) :
    u.occupancySound :=
  hs.congr (fun b => by unfold State.boatR; rw [hb]) fun z => by unfold State.zst; rw [hz]; exact .refl _

/-- A boat record may change where its zone does not. -/
theorem State.occupancySound.modBoat {s : State} (hs : s.occupancySound) (b : Nat) (f : Boat → Boat)
    (hf : ∀ x : Boat, (f x).zone = x.zone) : (s.modBoat b f).occupancySound := by
  refine hs.congr (fun c => ?_) fun z => ?_
  · rw [boatR_modBoat]
    split
    · next hc => subst hc; rw [Option.map_map]; congr 1; funext x; exact hf x
    · rfl
  · unfold State.zst; rw [modBoat_zs]; exact .refl _

/-- A zone's status may change loosely. -/
theorem State.occupancySound.putZs {s : State} (hs : s.occupancySound) (z : Nat) (q : ZoneStatus) (hq : (s.zst z).Loose q) :
    (s.putZs z q).occupancySound := by
  refine hs.congr (fun c => rfl) fun w => ?_
  rw [zst_putZs]
  split
  · next hc => rw [hc.1]; exact hq
  · exact .refl _

/-- A boat enters a zone reserved for it (R27): the agreement moves with it. -/
theorem State.occupancySound.moveZones {s : State} (hs : s.occupancySound) (b z : Nat) (x : Boat) (rest : List Nat)
    (st : BoatState) (hr : (s.zst z).reserved = some b) (hx : s.boatR b = some x) :
    (((s.modZs x.zone fun q => { q with occupant := none, watch := none }).modZs z fun q =>
      { q with reserved := none, occupant := some b }).modBoat b fun x =>
        { x with path := rest, zone := z, entryTime := s.now, state := st }).occupancySound := by
  obtain ⟨hboat, hocc, hres⟩ := hs
  have hz : z < 64 := reserved_range hr
  have hxo : s.occupant x.zone = some b := hboat b x hx
  have hxz : x.zone < 64 := occupant_range hxo
  have hzo : s.occupant z = none := by
    by_contra h
    have := hres z (Option.isSome_iff_ne_none.mpr h)
    rw [hr] at this
    cases this
  have hne : z ≠ x.zone := fun h => by rw [h, hxo] at hzo; cases hzo
  have hzst : ∀ w, (((s.modZs x.zone fun q => { q with occupant := none, watch := none }).modZs z fun q =>
      { q with reserved := none, occupant := some b }).modBoat b fun x =>
        { x with path := rest, zone := z, entryTime := s.now, state := st }).zst w =
      if w = z then { s.zst z with reserved := none, occupant := some b }
      else if w = x.zone then { s.zst x.zone with occupant := none, watch := none } else s.zst w := by
    intro w
    have h0 : ∀ (t : State) f, (t.modBoat b f).zst w = t.zst w := fun t f => by unfold State.zst; rw [modBoat_zs]
    rw [h0, zst_modZs, zst_modZs, zst_modZs]
    simp [hz, hxz, hne]
  have hbr : ∀ c, (((s.modZs x.zone fun q => { q with occupant := none, watch := none }).modZs z fun q =>
      { q with reserved := none, occupant := some b }).modBoat b fun x =>
        { x with path := rest, zone := z, entryTime := s.now, state := st }).boatR c =
      if c = b then some { x with path := rest, zone := z, entryTime := s.now, state := st } else s.boatR c := by
    intro c
    rw [boatR_modBoat]
    show (if c = b then (s.boatR b).map _ else s.boatR c) = _
    rw [hx]; rfl
  refine ⟨fun c y hy => ?_, fun w c h => ?_, fun w h => ?_⟩
  · unfold State.occupant
    rw [hbr] at hy
    rw [hzst]
    split at hy
    · next hc => cases hy; rw [hc, if_pos rfl]
    · next hc =>
      have hyo := hboat c y hy
      have hyz : y.zone ≠ z := fun h => by rw [h, hzo] at hyo; cases hyo
      have hyx : y.zone ≠ x.zone := fun h => hc (by rw [h, hxo] at hyo; injection hyo with h'; exact h'.symm)
      rw [if_neg hyz, if_neg hyx]
      exact hyo
  · unfold State.occupant at h
    rw [hzst] at h
    rw [hbr]
    split at h
    · next hw => cases h; rw [if_pos rfl]; exact ⟨_, rfl, hw.symm⟩
    · split at h
      · cases h
      · next hw =>
        obtain ⟨y, hy, hyz⟩ := hocc w c h
        have hc : c ≠ b := fun hc => by rw [hc, hx] at hy; cases hy; exact hw hyz.symm
        rw [if_neg hc]
        exact ⟨y, hy, hyz⟩
  · unfold State.occupant at h
    rw [hzst] at h ⊢
    split
    · rfl
    · next hwz =>
      rw [if_neg hwz] at h
      split
      · next hwx => rw [if_pos hwx] at h; cases h
      · next hwx => rw [if_neg hwx] at h; exact hres w h

/-- A boat is placed in a zone without occupant and reservation (R21). -/
theorem State.occupancySound.addBoat {s : State} (hs : s.occupancySound) (b : Nat) (x : Boat) (h1 : 1 ≤ b) (h24 : b ≤ 24)
    (hst : s.stoppable x.zone = true) (hb : s.boatR b = none) (ho : s.occupant x.zone = none)
    (hr : (s.zst x.zone).reserved = none) :
    ((s.putBoat b (some x)).modZs x.zone fun q => { q with occupant := some b }).occupancySound := by
  obtain ⟨hboat, hocc, hres⟩ := hs
  have hxz := stoppable_range hst
  have hzst : ∀ w, ((s.putBoat b (some x)).modZs x.zone fun q => { q with occupant := some b }).zst w =
      if w = x.zone then { s.zst x.zone with occupant := some b } else s.zst w := by
    intro w
    have h0 : ∀ v, (s.putBoat b (some x)).zst v = s.zst v := fun v => by unfold State.zst; rw [putBoat_zs]
    rw [zst_modZs, h0, h0]
    simp [hxz]
  have hbr : ∀ c, ((s.putBoat b (some x)).modZs x.zone fun q => { q with occupant := some b }).boatR c =
      if c = b then some x else s.boatR c := by
    intro c
    show (s.putBoat b (some x)).boatR c = _
    rw [boatR_putBoat]
    simp [h1, h24]
  refine ⟨fun c y hy => ?_, fun w c h => ?_, fun w h => ?_⟩
  · unfold State.occupant
    rw [hbr] at hy
    rw [hzst]
    split at hy
    · next hc => cases hy; rw [hc, if_pos rfl]
    · have hyo := hboat c y hy
      rw [if_neg fun h => by rw [h, ho] at hyo; cases hyo]
      exact hyo
  · unfold State.occupant at h
    rw [hzst] at h
    rw [hbr]
    split at h
    · next hw => cases h; exact ⟨x, if_pos rfl, hw.symm⟩
    · obtain ⟨y, hy, hyz⟩ := hocc w c h
      rw [if_neg fun hc => by rw [hc, hb] at hy; cases hy]
      exact ⟨y, hy, hyz⟩
  · unfold State.occupant at h
    rw [hzst] at h ⊢
    split
    · exact hr
    · next hw => rw [if_neg hw] at h; exact hres w h

/-- A boat is retired from its zone (R22). -/
theorem State.occupancySound.dropBoat {s : State} (hs : s.occupancySound) (b : Nat) (x : Boat) (hx : s.boatR b = some x) :
    ((s.modZs x.zone fun q => { q with occupant := none, watch := none }).putBoat b none).occupancySound := by
  obtain ⟨hboat, hocc, hres⟩ := hs
  have hxo := hboat b x hx
  have hxz := occupant_range hxo
  have hzst : ∀ w, ((s.modZs x.zone fun q => { q with occupant := none, watch := none }).putBoat b none).zst w =
      if w = x.zone then { s.zst x.zone with occupant := none, watch := none } else s.zst w := by
    intro w
    have h0 : ∀ t : State, (t.putBoat b none).zst w = t.zst w := fun t => by unfold State.zst; rw [putBoat_zs]
    rw [h0, zst_modZs]
    simp [hxz]
  have hbr : ∀ c, ((s.modZs x.zone fun q => { q with occupant := none, watch := none }).putBoat b none).boatR c =
      if c = b then none else s.boatR c := by
    intro c
    have := boatR_range s hx
    rw [boatR_putBoat]
    simp [this, show (s.modZs x.zone fun q => { q with occupant := none, watch := none }).boatR c = s.boatR c from rfl]
  refine ⟨fun c y hy => ?_, fun w c h => ?_, fun w h => ?_⟩
  · unfold State.occupant
    rw [hbr] at hy
    rw [hzst]
    split at hy
    · cases hy
    · next hc =>
      have hyo := hboat c y hy
      rw [if_neg fun h => hc (by rw [h, hxo] at hyo; injection hyo with h'; exact h'.symm)]
      exact hyo
  · unfold State.occupant at h
    rw [hzst] at h
    rw [hbr]
    split at h
    · cases h
    · next hw =>
      obtain ⟨y, hy, hyz⟩ := hocc w c h
      rw [if_neg fun hc => by rw [hc, hx] at hy; cases hy; exact hw hyz.symm]
      exact ⟨y, hy, hyz⟩
  · unfold State.occupant at h
    rw [hzst] at h ⊢
    split
    · next hw => rw [if_pos hw] at h; cases h
    · next hw => rw [if_neg hw] at h; exact hres w h

/-- With no boat in the register and no zone occupied, boats and zones agree. -/
theorem occupancySound_of_clear {s : State} (hb : ∀ b, s.boatR b = none) (hz : ∀ z, s.occupant z = none) : s.occupancySound :=
  ⟨fun b x hx => (by rw [hb] at hx; cases hx), fun z b h => (by rw [hz] at h; cases h),
    fun z h => (by rw [hz] at h; cases h)⟩

/-- An empty register holds no boat. -/
theorem boatR_of_empty {s : State} (h : s.boats = Vector.replicate 24 none) (b : Nat) : s.boatR b = none := by
  unfold State.boatR
  rw [h, Vector.getElem?_replicate]
  split
  · rfl
  · split <;> rfl

/-- The zones of a part that has just been powered are clear. -/
theorem zst_of_clear {s : State} (h : s.zs = Vector.replicate 64 .clear) (z : Nat) : s.zst z = .clear := by
  unfold State.zst
  rw [h, Vector.getElem?_replicate]
  split <;> rfl

theorem handRaw_boats_zs (s : State) (a : Nat) (v : ActValue) : (s.handRaw a v).boats = s.boats ∧ (s.handRaw a v).zs = s.zs := by
  unfold State.handRaw
  split
  · exact ⟨rfl, rfl⟩
  · dsimp only
    split <;> exact ⟨rfl, rfl⟩

theorem placeHeld_boats_zs (s : State) : s.placeHeld.boats = s.boats ∧ s.placeHeld.zs = s.zs := by
  unfold State.placeHeld
  split
  · exact ⟨rfl, rfl⟩
  · split <;> exact ⟨rfl, rfl⟩

theorem buildNotice_boats_zs (s : State) : s.buildNotice.boats = s.boats ∧ s.buildNotice.zs = s.zs := by
  unfold State.buildNotice
  split <;> exact ⟨rfl, rfl⟩

/-- A soft change of a boat record keeps its zone. -/
theorem Boat.Soft.zone {x y : Boat} (h : x.Soft y) : y.zone = x.zone := by
  unfold Boat.Soft at h
  rw [← h]

/-- Quiet updates, changes of mode and runs keep boats and zones in agreement. -/
theorem occupancySound_calm : Calm State.occupancySound where
  startUp hs := hs.same rfl rfl
  placeHeld {s} hs := hs.same (placeHeld_boats_zs s).1 (placeHeld_boats_zs s).2
  buildNotice {s} hs := hs.same (buildNotice_boats_zs s).1 (buildNotice_boats_zs s).2
  startDn hs := hs.same rfl rfl
  placeLimit _ _ _ hs := hs.same rfl rfl
  placeCommands _ _ hs := hs.same rfl rfl
  queueNotice _ _ hs := hs.same rfl rfl
  dropNotice hs := hs.same rfl rfl
  handRaw {s} a v _ hs := hs.same (handRaw_boats_zs s a v).1 (handRaw_boats_zs s a v).2
  handAny {s} a v _ hs := hs.same (handRaw_boats_zs s a v).1 (handRaw_boats_zs s a v).2
  modEv _ hs := hs.same rfl rfl
  putZs z q hq hs := hs.putZs z q hq.2.2
  putBerth _ _ _ hs := hs.same rfl rfl
  putNode _ _ _ hs := hs.same rfl rfl
  modBoat b f hf hs := hs.modBoat b f fun x => (hf x).zone
  putRel _ _ hs := hs.same (by simp) (by simp)
  filterQueue _ hs := hs.same rfl rfl
  putSeq _ _ _ _ hs := hs.same rfl rfl
  driveLines hs := hs.same rfl rfl
  bump _ hs := hs.same rfl rfl
  useFree hs := hs.same rfl rfl
  putRun _ _ hs := hs.same rfl rfl
  setQueue _ _ hs := hs.same rfl rfl
  looseZs z q hq hs := hs.putZs z q hq
  looseBerth _ _ hs := hs.same rfl rfl
  looseSeq _ _ _ hs := hs.same rfl rfl
  loosePulse _ _ hs := hs.same rfl rfl
  tripBoat b f hf hs := hs.modBoat b f fun x => (hf x).1
  modMc _ hs := hs.same rfl rfl

/-- Stopping every watch keeps occupants and reservations (R35). -/
theorem stopWatches_loose (s : State) (z : Nat) : (s.zst z).Loose (s.stopWatches.zst z) := by
  have h : s.stopWatches.zst z = { s.zst z with watch := none } := by
    show ((s.zs.map fun q => { q with watch := none })[z]?).getD ZoneStatus.clear = _
    rw [Vector.getElem?_map]
    unfold State.zst
    cases s.zs[z]? <;> rfl
  rw [h]
  exact ⟨rfl, .inl rfl⟩

theorem State.occupancySound.stopWatches {s : State} (hs : s.occupancySound) : s.stopWatches.occupancySound :=
  hs.congr (fun _ => rfl) (stopWatches_loose s)

theorem State.occupancySound.changeMode {s : State} (hs : s.occupancySound) (m : Mode) (c : Cause) :
    (s.changeMode m c).occupancySound := occupancySound_calm.changeMode (fun h => h.stopWatches) m c hs

/-- Clearing every zone and emptying the register leaves them in agreement (R17, R39). -/
theorem occupancySound_wipe (s : State) : s.wipe.occupancySound := by
  refine occupancySound_of_clear (boatR_of_empty rfl) fun z => ?_
  show (((s.zs.map ZoneStatus.wiped)[z]?).getD ZoneStatus.clear).occupant = none
  rw [Vector.getElem?_map]
  cases s.zs[z]? <;> rfl

/-- A replaced authority entry touches no boat and no zone. -/
theorem storeAuth_boats_zs (s : State) (a : Nat) (x : Option AuthEntry) :
    (s.storeAuth a x).boats = s.boats ∧ (s.storeAuth a x).zs = s.zs := by
  unfold State.storeAuth
  dsimp only
  split
  · split <;> exact ⟨rfl, rfl⟩
  · exact ⟨rfl, rfl⟩
  · exact ⟨rfl, rfl⟩

theorem State.occupancySound.modMc {s : State} (hs : s.occupancySound) (f : ModeCtl → ModeCtl) : (s.modMc f).occupancySound :=
  hs.same rfl rfl

theorem State.occupancySound.checkPassed {s : State} (hs : s.occupancySound) : s.checkPassed.occupancySound := by
  unfold State.checkPassed
  dsimp only
  split <;> exact (hs.modMc _).changeMode _ _

/-- Every update of which the commands are made keeps boats and zones in agreement. -/
theorem occupancySound_whole : Whole State.occupancySound where
  toModal := occupancySound_calm.toModal
  at_ _ hs := hs.same rfl rfl
  setRoster _ _ hs := hs.same rfl rfl
  putInputs _ _ hs := hs.same rfl rfl
  keepCmds _ hs := hs.same rfl rfl
  confirm _ _ hs := hs.same rfl rfl
  estop _ hs := hs.modMc _
  checkNext _ _ _ hs := hs.modMc _
  checkFailed _ _ _ hs := (hs.modMc _).changeMode _ _
  checkPassed _ hs := hs.checkPassed
  sentUp hs := hs.same rfl rfl
  sentDn _ hs := hs.same rfl rfl
  setResendDue _ hs := hs.same rfl rfl
  moveZones b z x rest st hr hx hs := hs.moveZones b z x rest st hr hx
  setPending _ hs := hs.same rfl rfl
  addBoat b x h1 h24 hst hb ho hr hs := hs.addBoat b x h1 h24 hst hb ho hr
  dropBoat b x hx hs := hs.dropBoat b x hx
  reroute b _ hs := hs.modBoat b _ fun _ => rfl
  adopt _ _ _ _ _ hs := hs.same rfl rfl
  stopWatches hs := hs.stopWatches
  changeMode m c _ _ hs := hs.changeMode m c
  holdPending hs := hs.modMc _
  checkBegin _ hs := (hs.modMc _).changeMode _ _
  modTab _ _ hs := hs.same rfl rfl
  storeAuth {s} a x hs := hs.same (storeAuth_boats_zs s a x).1 (storeAuth_boats_zs s a x).2
  wipe {s} _ := occupancySound_wipe s
  resetFull _ := occupancySound_of_clear (boatR_of_empty rfl) fun z => congrArg ZoneStatus.occupant (zst_of_clear rfl z)
  setReq _ _ hs := hs.same rfl rfl
  setPtr _ hs := hs.same rfl rfl
  setHolder _ hs := hs.same rfl rfl
  setMask _ hs := hs.same rfl rfl
  setHeld _ hs := hs.same rfl rfl
  clearCounters hs := hs.same rfl rfl
  joinUp _ _ hs := hs.same rfl rfl
  joinDn _ _ hs := hs.same rfl rfl

/-- Settles O8: every update of which the commands are made keeps the agreement, and power-on clears both sides. -/
theorem stepKeepsOccupancySound : Obligations.StepKeepsOccupancySound := fun _ _ hs hu =>
  occupancySound_whole.step
    (fun _ _ _ _ => occupancySound_of_clear (boatR_of_empty rfl) fun z => congrArg ZoneStatus.occupant (zst_of_clear rfl z)) hu hs

end Sys2Proof.Machine
end

section
/-! Power-on, notices, faults, and the walk of a path (R3, R14, R40 to R43, R148, R180). -/

namespace Sys2Proof.Machine

/-! ### The tables and records of power-on -/

/-- A table filled with one entry reads as that entry, or as the default beyond its end. -/
theorem getD_replicate_self {α : Type} (n i : Nat) (x : α) : ((Vector.replicate n x)[i]?).getD x = x := by
  rw [Vector.getElem?_replicate]
  split <;> rfl

/-- A table filled with undefined entries has none. -/
theorem join_replicate_none (α : Type) (n i : Nat) : ((Vector.replicate n (none : Option α))[i]?).join = none := by
  rw [Vector.getElem?_replicate]
  split <;> rfl

/-- No zone is defined in the tables of power-on (R17). -/
theorem zoneE_of_initial {s : State} (h : s.tab = .initial) (z : Nat) : s.zoneE z = none := by
  unfold State.zoneE
  rw [h]
  exact join_replicate_none ZoneEntry 64 z

/-- No run is defined in the tables of power-on (R116). -/
theorem runE_of_initial {s : State} (h : s.tab = .initial) (r : Nat) : s.runE r = none := by
  unfold State.runE
  rw [h]
  exact join_replicate_none RunEntry 2 r

/-- No actuator is defined in the tables of power-on (R136). -/
theorem authE_of_initial {s : State} (h : s.tab = .initial) (a : Nat) : s.authE a = none := by
  unfold State.authE
  rw [h]
  exact join_replicate_none AuthEntry 64 a

/-- No release is in progress after power-on (R58). -/
theorem release_of_empty {s : State} (h : s.rel = Vector.replicate 24 none) (b : Nat) : s.release b = none := by
  unfold State.release
  rw [h]
  split
  · rfl
  · exact join_replicate_none Release 24 _

/-- With no zone defined there is no hold to place. -/
theorem holdsSound_of_initial {s : State} (h : s.tab = .initial) : s.holdsSound := fun z e he => by
  rw [zoneE_of_initial h] at he
  cases he

theorem reset_queuesBounded : State.reset.queuesBounded :=
  ⟨by decide, by decide, by decide, by decide, by decide, fun _ h => nomatch h⟩

theorem reset_numbersBounded : State.reset.numbersBounded := ⟨by decide, fun c => by cases c <;> decide⟩

theorem reset_listUnique : State.reset.listUnique := ⟨List.nodup_nil, fun _ h => nomatch h⟩

theorem reset_modeSound : State.reset.modeSound := ⟨by decide, by decide⟩

theorem reset_occupancySound : State.reset.occupancySound :=
  occupancySound_of_clear (boatR_of_empty rfl) fun z => congrArg ZoneStatus.occupant (zst_of_clear rfl z)

theorem reset_sequencersSound : State.reset.sequencersSound := fun _ => ⟨by decide, by decide⟩

theorem reset_linesSound : State.reset.linesSound := by
  unfold State.linesSound
  decide +kernel

theorem reset_actuatorsSound : State.reset.actuatorsSound := by
  intro a _
  rw [authE_of_initial rfl]
  exact getD_replicate_self 64 a ActStatus.none

theorem reset_restSound : State.reset.restSound := by
  refine ⟨fun r e he => ?_, fun _ => ⟨fun z e a x he => ?_, fun r e i x he => ?_⟩⟩
  · rw [runE_of_initial rfl] at he; cases he
  · rw [zoneE_of_initial rfl] at he; cases he
  · rw [runE_of_initial rfl] at he; cases he

theorem reset_reservationsSound : State.reset.reservationsSound := by
  refine ⟨Nat.zero_le _, List.nodup_nil, fun _ h => (nomatch h), fun b x hx => ?_, fun b x hx => ?_, fun b r a hr => ?_⟩
  · rw [boatR_of_empty rfl] at hx; cases hx
  · rw [boatR_of_empty rfl] at hx; cases hx
  · rw [release_of_empty rfl] at hr; cases hr

/-- Settles O3: each invariant holds of the empty register, tables and queues of power-on. -/
theorem resetIsSound : Obligations.ResetIsSound :=
  ⟨reset_queuesBounded, reset_numbersBounded, reset_listUnique, reset_modeSound, reset_occupancySound, reset_sequencersSound,
    reset_linesSound, reset_actuatorsSound, holdsSound_of_initial rfl, reset_restSound, reset_reservationsSound⟩

/-! ### Notices and faults -/

/-- A notice of a masked kind is discarded (R180). -/
theorem notice_masked {s : State} {n : Notice} (h : s.mask.getLsbD n.kind = false) : s.notice n = s := by
  unfold State.notice
  rw [h]
  rfl

/-- A notice of an enabled kind is queued while there is room (R180). -/
theorem notice_queued {s : State} {n : Notice} (h : s.mask.getLsbD n.kind = true) (hl : s.notices.length < 16) :
    s.notice n = ({ s with notices := s.notices ++ [n] } : State).pumpUp := by
  unfold State.notice
  rw [h, if_neg (by decide), if_pos (show s.notices.length < Config.noticeCap from hl)]

/-- A notice of an enabled kind is dropped and counted where there is no room (R180). -/
theorem notice_dropped {s : State} {n : Notice} (h : s.mask.getLsbD n.kind = true) (hl : 16 ≤ s.notices.length) :
    s.notice n = s.bump .noticesDropped := by
  unfold State.notice
  rw [h, if_neg (by decide), if_neg (by unfold Config.noticeCap; omega)]

/-- A defined zone lies in the table. -/
theorem zoneE_range {s : State} {z : Nat} (h : (s.zoneE z).isSome = true) : z < 64 := by
  by_contra hz
  unfold State.zoneE at h
  rw [Vector.getElem?_eq_none (by omega)] at h
  cases h

/-- A fault raised on a defined zone merges with the one it has (R14), and touches no other zone. -/
theorem zst_raiseFault {s : State} {z : Nat} (f : ZFault) (hz : (s.zoneE z).isSome = true) (w : Nat) :
    (s.raiseFault z f).zst w = if w = z then { s.zst z with fault := some (mergeFault (s.zst z).fault f) } else s.zst w := by
  unfold State.raiseFault
  rw [if_neg (by cases h : s.zoneE z <;> simp_all), zst_modZs]
  simp [zoneE_range hz]

/-- DOUBLE is the most severe fault (R14). -/
theorem mergeFault_double (f : ZFault) : mergeFault (some .double) f = .double ∧ mergeFault (some f) .double = .double := by
  cases f <;> exact ⟨rfl, rfl⟩

/-- Nothing but DOUBLE is more severe than UNEXPECTED (R14). -/
theorem mergeFault_unexpected {f : ZFault} (h : f ≠ .double) :
    mergeFault (some .unexpected) f = .unexpected ∧ mergeFault (some f) .unexpected = .unexpected := by
  cases f
  case double => exact absurd rfl h
  all_goals exact ⟨rfl, rfl⟩

/-- MISSED is more severe than OVERDUE alone (R14). -/
theorem mergeFault_missed {f : ZFault} (h : f ≠ .double) (h' : f ≠ .unexpected) :
    mergeFault (some .missed) f = .missed ∧ mergeFault (some f) .missed = .missed := by
  cases f
  case double => exact absurd rfl h
  case unexpected => exact absurd rfl h'
  all_goals exact ⟨rfl, rfl⟩

/-- Settles O58: the three branches of a notice, and the order of severity. -/
theorem noticeAndFaultRules : Obligations.NoticeAndFaultRules :=
  ⟨fun _ _ => notice_masked, fun _ _ => notice_queued, fun _ _ => notice_dropped, fun _ => rfl, mergeFault_double,
    fun _ => mergeFault_unexpected, fun _ => mergeFault_missed, rfl, fun z f s hz => by rw [zst_raiseFault f hz, if_pos rfl]⟩

/-! ### The walk of a path -/

/-- At an undefined zone the walk fails (R41). -/
theorem walkFrom_undefined {s : State} (o fuel : Nat) {z : Nat} (acc : List Nat) (hz : s.zoneE z = none) :
    s.walkFrom o fuel z acc = .error .undefined := by
  unfold State.walkFrom
  rw [hz]

/-- Back at a defined origin the walk fails (R41). -/
theorem walkFrom_origin {s : State} {o : Nat} (fuel : Nat) (acc : List Nat) (ho : (s.zoneE o).isSome = true) :
    s.walkFrom o fuel o acc = .error .loop := by
  obtain ⟨e, he⟩ := Option.isSome_iff_exists.mp ho
  unfold State.walkFrom
  rw [he]
  exact if_pos rfl

/-- With 16 zones on the path another one is too many (R41). -/
theorem walkFrom_full {s : State} {o z : Nat} (acc : List Nat) (hz : (s.zoneE z).isSome = true) (ho : z ≠ o) :
    s.walkFrom o 0 z acc = .error .length := by
  obtain ⟨e, he⟩ := Option.isSome_iff_exists.mp hz
  unfold State.walkFrom
  rw [he]
  exact if_neg ho

/-- At a zone that is not the origin the walk ends or goes on to the main successor (R40). -/
theorem walkFrom_next {s : State} {o z : Nat} {e : ZoneEntry} (n : Nat) (acc : List Nat) (hz : s.zoneE z = some e) (ho : z ≠ o) :
    s.walkFrom o (n + 1) z acc = if e.kind.stoppable then .ok (acc ++ [z]) else s.walkFrom o n e.main (acc ++ [z]) := by
  rw [State.walkFrom.eq_def]
  simp only [hz]
  exact if_neg ho

theorem stoppable_iff {s : State} {z : Nat} : s.stoppable z = true ↔ ∃ e, s.zoneE z = some e ∧ e.kind.stoppable = true := by
  unfold State.stoppable
  cases s.zoneE z <;> simp

/-- The walk passes what can be passed. -/
theorem walkFrom_passes {s : State} {o : Nat} (l : List Nat) {fuel z y : Nat} (acc : List Nat) (hl : l.length ≤ fuel)
    (hp : s.passesTo o z l y) : s.walkFrom o fuel z acc = s.walkFrom o (fuel - l.length) y (acc ++ l) := by
  induction l generalizing fuel z acc with
  | nil =>
    cases (show z = y from hp)
    simp
  | cons w l ih =>
    obtain ⟨rfl, ho, e, he, hs, hp⟩ := hp
    obtain ⟨n, rfl⟩ : ∃ n, fuel = n + 1 := ⟨fuel - 1, by simp at hl; omega⟩
    rw [walkFrom_next n acc he ho, hs, if_neg (by decide), ih _ (by simpa using hl) hp]
    simp

/-- A zone at which the walk ends, with room for `n` more. -/
def State.walkEnds (s : State) (o n y : Nat) : Prop :=
  s.zoneE y = none ∨ ((s.zoneE y).isSome = true ∧ (y = o ∨ (y ≠ o ∧ (n = 0 ∨ s.stoppable y = true))))

/-- The walk passes some zones and ends at the next. -/
theorem walk_comes_to_end (s : State) (o fuel z : Nat) :
    ∃ l y, l.length ≤ fuel ∧ s.passesTo o z l y ∧ s.walkEnds o (fuel - l.length) y := by
  induction fuel generalizing z with
  | zero =>
    refine ⟨[], z, Nat.le_refl _, rfl, ?_⟩
    cases h : s.zoneE z with
    | none => exact .inl h
    | some e => exact .inr ⟨by rw [h]; rfl, (em (z = o)).imp_right fun ho => ⟨ho, .inl rfl⟩⟩
  | succ n ih =>
    cases h : s.zoneE z with
    | none => exact ⟨[], z, Nat.zero_le _, rfl, .inl h⟩
    | some e =>
      by_cases ho : z = o
      · exact ⟨[], z, Nat.zero_le _, rfl, .inr ⟨by rw [h]; rfl, .inl ho⟩⟩
      · cases hs : e.kind.stoppable with
        | true => exact ⟨[], z, Nat.zero_le _, rfl, .inr ⟨by rw [h]; rfl, .inr ⟨ho, .inr (stoppable_iff.mpr ⟨e, h, hs⟩)⟩⟩⟩
        | false =>
          obtain ⟨l, y, hl, hp, hy⟩ := ih e.main
          exact ⟨z :: l, y, Nat.succ_le_succ hl, ⟨rfl, ho, e, h, hs, hp⟩, by simpa using hy⟩

/-- Where the walk succeeds it has passed some zones and stands at a stoppable one (R40). -/
theorem walkFrom_ok_iff {s : State} {o z fuel : Nat} {p : List Nat} : s.walkFrom o fuel z [] = .ok p ↔
    ∃ l y, p = l ++ [y] ∧ l.length < fuel ∧ s.passesTo o z l y ∧ y ≠ o ∧ s.stoppable y = true := by
  constructor
  · intro h
    obtain ⟨l, y, hl, hp, hy⟩ := walk_comes_to_end s o fuel z
    rw [walkFrom_passes l [] hl hp] at h
    rcases hy with hy | ⟨hd, rfl | ⟨ho, hn⟩⟩
    · rw [walkFrom_undefined _ _ _ hy] at h; cases h
    · rw [walkFrom_origin _ _ hd] at h; cases h
    · cases hr : fuel - l.length with
      | zero => rw [hr, walkFrom_full _ hd ho] at h; cases h
      | succ n =>
        have hs : s.stoppable y = true := hn.resolve_left (by omega)
        obtain ⟨e, he, hk⟩ := stoppable_iff.mp hs
        rw [hr, walkFrom_next n _ he ho, if_pos hk] at h
        cases h
        exact ⟨l, y, rfl, by omega, hp, ho, hs⟩
  · rintro ⟨l, y, rfl, hl, hp, ho, hs⟩
    obtain ⟨e, he, hk⟩ := stoppable_iff.mp hs
    obtain ⟨n, hn⟩ : ∃ n, fuel - l.length = n + 1 := ⟨fuel - l.length - 1, by omega⟩
    rw [walkFrom_passes l [] (Nat.le_of_lt hl) hp, hn, walkFrom_next n _ he ho, if_pos hk]
    rfl

/-- The walk fails with UNDEFINED where it comes to an undefined zone (R41). -/
theorem walkFrom_undefined_iff {s : State} {o z fuel : Nat} : s.walkFrom o fuel z [] = .error .undefined ↔
    ∃ l y, l.length ≤ fuel ∧ s.passesTo o z l y ∧ s.zoneE y = none := by
  constructor
  · intro h
    obtain ⟨l, y, hl, hp, hy⟩ := walk_comes_to_end s o fuel z
    rw [walkFrom_passes l [] hl hp] at h
    rcases hy with hy | ⟨hd, rfl | ⟨ho, hn⟩⟩
    · exact ⟨l, y, hl, hp, hy⟩
    · rw [walkFrom_origin _ _ hd] at h; cases h
    · cases hr : fuel - l.length with
      | zero => rw [hr, walkFrom_full _ hd ho] at h; cases h
      | succ n =>
        obtain ⟨e, he, hk⟩ := stoppable_iff.mp (hn.resolve_left (by omega))
        rw [hr, walkFrom_next n _ he ho, if_pos hk] at h
        cases h
  · rintro ⟨l, y, hl, hp, hy⟩
    rw [walkFrom_passes l [] hl hp, walkFrom_undefined _ _ _ hy]

/-- The walk fails with LOOP where it comes back to its defined origin (R41). -/
theorem walkFrom_loop_iff {s : State} {o z fuel : Nat} (hd : (s.zoneE o).isSome = true) : s.walkFrom o fuel z [] = .error .loop ↔
    ∃ l, l.length ≤ fuel ∧ s.passesTo o z l o := by
  constructor
  · intro h
    obtain ⟨l, y, hl, hp, hy⟩ := walk_comes_to_end s o fuel z
    rw [walkFrom_passes l [] hl hp] at h
    rcases hy with hy | ⟨hd, rfl | ⟨ho, hn⟩⟩
    · rw [walkFrom_undefined _ _ _ hy] at h; cases h
    · exact ⟨l, hl, hp⟩
    · cases hr : fuel - l.length with
      | zero => rw [hr, walkFrom_full _ hd ho] at h; cases h
      | succ n =>
        obtain ⟨e, he, hk⟩ := stoppable_iff.mp (hn.resolve_left (by omega))
        rw [hr, walkFrom_next n _ he ho, if_pos hk] at h
        cases h
  · rintro ⟨l, hl, hp⟩
    rw [walkFrom_passes l [] hl hp, walkFrom_origin _ _ hd]

/-- The walk fails with LENGTH where it has passed as many zones as it may and another follows (R41). -/
theorem walkFrom_length_iff {s : State} {o z fuel : Nat} : s.walkFrom o fuel z [] = .error .length ↔
    ∃ l y, l.length = fuel ∧ s.passesTo o z l y ∧ y ≠ o ∧ (s.zoneE y).isSome = true := by
  constructor
  · intro h
    obtain ⟨l, y, hl, hp, hy⟩ := walk_comes_to_end s o fuel z
    rw [walkFrom_passes l [] hl hp] at h
    rcases hy with hy | ⟨hd, rfl | ⟨ho, hn⟩⟩
    · rw [walkFrom_undefined _ _ _ hy] at h; cases h
    · rw [walkFrom_origin _ _ hd] at h; cases h
    · cases hr : fuel - l.length with
      | zero => exact ⟨l, y, by omega, hp, ho, hd⟩
      | succ n =>
        obtain ⟨e, he, hk⟩ := stoppable_iff.mp (hn.resolve_left (by omega))
        rw [hr, walkFrom_next n _ he ho, if_pos hk] at h
        cases h
  · rintro ⟨l, y, hl, hp, ho, hd⟩
    rw [walkFrom_passes l [] (Nat.le_of_eq hl) hp, hl, Nat.sub_self, walkFrom_full _ hd ho]

/-- The walk starts at the successor of the route (R3, R40). -/
theorem walk_defined {s : State} {o : Nat} {e : ZoneEntry} (r : Route) (ho : s.zoneE o = some e) :
    s.walk o r = s.walkFrom o 16 (e.successor r) [] := by
  unfold State.walk
  rw [ho]

/-- A zone that is passed is defined, is not stoppable and is not the origin. -/
theorem passesTo_mem {s : State} {o z y : Nat} {l : List Nat} (hp : s.passesTo o z l y) :
    ∀ w ∈ l, w ≠ o ∧ (s.zoneE w).isSome = true ∧ s.stoppable w = false := by
  induction l generalizing z with
  | nil => exact fun _ h => nomatch h
  | cons v l ih =>
    obtain ⟨rfl, ho, e, he, hs, hp⟩ := hp
    intro w hw
    rcases List.mem_cons.mp hw with rfl | hw
    · exact ⟨ho, by rw [he]; rfl, by unfold State.stoppable; rw [he]; exact hs⟩
    · exact ih hp w hw

/-- What a path is (R40, R41). -/
theorem walk_ok_path {s : State} {o : Nat} {r : Route} {p : List Nat} (h : s.walk o r = .ok p) :
    p ≠ [] ∧ p.length ≤ 16 ∧ o ∉ p ∧ (∀ z ∈ p, (s.zoneE z).isSome = true) ∧
      (∃ z, p.getLast? = some z ∧ s.stoppable z = true) ∧ ∀ z ∈ p.dropLast, s.stoppable z = false := by
  cases ho : s.zoneE o with
  | none => unfold State.walk at h; rw [ho] at h; cases h
  | some e =>
    rw [walk_defined r ho] at h
    obtain ⟨l, y, rfl, hl, hp, hy, hs⟩ := walkFrom_ok_iff.mp h
    have hm := passesTo_mem hp
    obtain ⟨ey, hey, _⟩ := stoppable_iff.mp hs
    refine ⟨by simp, by simpa using hl, fun hmem => ?_, fun z hz => ?_, ⟨y, by simp, hs⟩, fun z hz => ?_⟩
    · rcases List.mem_append.mp hmem with h' | h'
      · exact (hm o h').1 rfl
      · exact hy (List.mem_singleton.mp h').symm
    · rcases List.mem_append.mp hz with h' | h'
      · exact (hm z h').2.1
      · rw [List.mem_singleton.mp h', hey]; rfl
    · rw [List.dropLast_concat] at hz
      exact (hm z hz).2.2

/-- A zone without an alternate successor is left for the main one (R3). -/
theorem successor_of_alt_none {e : ZoneEntry} (r : Route) (h : e.alt = none) : e.successor r = e.main := by
  unfold ZoneEntry.successor
  rw [h]
  cases e.kind <;> cases r <;> rfl

/-- The alternate successor is taken from a TRANSFER zone by the route BAY (R3). -/
theorem successor_of_alt_some {e : ZoneEntry} {a : Nat} (r : Route) (h : e.alt = some a) :
    e.successor r = if e.kind = .transfer ∧ r = .bay then a else e.main := by
  unfold ZoneEntry.successor
  rw [h]
  cases e.kind <;> cases r <;> rfl

/-! ### Requests -/

theorem requestsTaken_of {s : State} (hm : s.mode = .run ∨ s.mode = .hold) : s.mode.requestsTaken = true := by
  rcases hm with hm | hm <;> rw [hm] <;> rfl

/-- Without a record, or outside RUN and HOLD, a request is refused (R42). -/
theorem request_refused {s : State} {b : Nat}
    (h : s.boatR b = none ∨ s.mode = .config ∨ s.mode = .checking ∨ s.mode = .stop) : s.request b = (s, .refused) := by
  unfold State.request
  cases hb : s.boatR b with
  | none => rfl
  | some x =>
    have hm : s.mode.requestsTaken = false := by
      rcases h with h | h | h | h
      · rw [hb] at h; cases h
      all_goals rw [h]; rfl
    rw [hm]
    rfl

/-- A boat that is not WAITING makes no request (R42). -/
theorem request_ignored {s : State} {b : Nat} {x : Boat} (hb : s.boatR b = some x) (hm : s.mode = .run ∨ s.mode = .hold)
    (hx : x.state ≠ .waiting) : s.request b = (s, .ignored) := by
  unfold State.request
  simp only [hb, requestsTaken_of hm, Bool.not_true, Bool.false_eq_true, if_false]
  rw [if_pos hx]

/-- A boat in a zone that is not stoppable is refused (R42). -/
theorem request_unstoppable {s : State} {b : Nat} {x : Boat} (hb : s.boatR b = some x) (hm : s.mode = .run ∨ s.mode = .hold)
    (hx : x.state = .waiting) (hz : s.stoppable x.zone = false) : s.request b = (s, .refused) := by
  unfold State.request
  simp only [hb, requestsTaken_of hm, Bool.not_true, Bool.false_eq_true, if_false, hx, ne_eq, not_true_eq_false, hz,
    Bool.not_false, if_true]

/-- A request fails with the reason of its walk (R42). -/
theorem request_walk_error {s : State} {b : Nat} {x : Boat} {reason : PathReason} (hb : s.boatR b = some x)
    (hm : s.mode = .run ∨ s.mode = .hold) (hx : x.state = .waiting) (hz : s.stoppable x.zone = true)
    (hw : s.walk x.zone x.route = .error reason) : s.request b = (s.notice (.path b x.zone reason), .refused) := by
  unfold State.request
  simp only [hb, requestsTaken_of hm, Bool.not_true, Bool.false_eq_true, if_false, hx, ne_eq, not_true_eq_false, hz, hw]

/-- A request whose walk finds a path is accepted (R42, R43). -/
theorem request_walk_ok {s : State} {b : Nat} {x : Boat} {p : List Nat} (hb : s.boatR b = some x)
    (hm : s.mode = .run ∨ s.mode = .hold) (hx : x.state = .waiting) (hz : s.stoppable x.zone = true)
    (hw : s.walk x.zone x.route = .ok p) : s.request b = (s.enqueue b x.zone p, .accepted) := by
  unfold State.request
  simp only [hb, requestsTaken_of hm, Bool.not_true, Bool.false_eq_true, if_false, hx, ne_eq, not_true_eq_false, hz, hw]

/-- A new entry stands at the tail, its boat is REQUESTED and a scan is due (R43, R45). -/
theorem enqueue_effect {s : State} {b : Nat} {x : Boat} (hb : s.boatR b = some x) (o : Nat) (p : List Nat) :
    (s.enqueue b o p).queue = s.queue ++ [⟨b, o, p, s.reqSeq⟩] ∧
      (s.enqueue b o p).boatR b = some { x with state := .requested } ∧ (s.enqueue b o p).ev.scanDue = true := by
  unfold State.enqueue State.scanWanted State.setBoatState
  refine ⟨by simp, ?_, by simp⟩
  show (State.modBoat _ b _).boatR b = _
  rw [boatR_modBoat, if_pos rfl]
  show (s.boatR b).map _ = _
  rw [hb]
  rfl

/-- Settles O60: the branches of a request, and what each end of the walk says of the zones it has passed. -/
theorem requestRule : Obligations.RequestRule := by
  refine ⟨fun _ _ => request_refused, fun _ _ _ => request_ignored, fun _ _ _ => request_unstoppable,
    fun _ _ _ _ => request_walk_error, fun b x p s hb hm hx hz hw => ?_, fun e r => ?_, fun _ _ _ _ => walk_ok_path,
    fun o r e s ho hn => ?_, fun o r e p s ho => ?_, fun o r e s ho => ?_, fun o r e s ho => ?_, fun o r e s ho => ?_⟩
  · rw [request_walk_ok hb hm hx hz hw]
    exact ⟨rfl, enqueue_effect hb x.zone p⟩
  · split
    · next h => exact successor_of_alt_none r h
    · next h => exact successor_of_alt_some r h
  · rw [walk_defined r ho, walkFrom_undefined _ _ _ hn]
  · rw [walk_defined r ho, walkFrom_ok_iff]
  · rw [walk_defined r ho, walkFrom_undefined_iff]
  · rw [walk_defined r ho, walkFrom_loop_iff (by rw [ho]; rfl)]
  · rw [walk_defined r ho, walkFrom_length_iff]

end Sys2Proof.Machine
end

section
/-! What holds, levels and lines are read from, and the operations that leave all of it alone: one lemma for each (R12, R13, R150,
R154). -/

namespace Sys2Proof.Machine

/-- What of a zone's status the holds and levels are made of. -/
structure ZoneHolds where
  occupant : Option Nat
  nodeHold : Bool
  userHold : Bool
  latch : Bool

/-- What of the state the NODE and USER holds, the levels and the auxiliary lines are read from. -/
structure HoldView where
  tab : Tables
  mc : ModeCtl
  inputs : Vector (BitVec 4) 48
  pulses : Vector (Option Nat) 8
  roster : Nat → Roster
  zones : Nat → ZoneHolds

def ZoneStatus.holds (q : ZoneStatus) : ZoneHolds := ⟨q.occupant, q.nodeHold, q.userHold, q.latch⟩

def State.holdView (s : State) : HoldView :=
  ⟨s.tab, s.mc, s.inputs, s.pulses, fun n => (s.nodeS n).state, fun z => (s.zst z).holds⟩

/-- A fold leaves alone what each of its steps leaves alone. -/
theorem foldl_view {α β : Type} (v : State → β) {f : State → α → State} (hf : ∀ t a, v (f t a) = v t) (l : List α) (s : State) :
    v (l.foldl f s) = v s :=
  foldl_keeps (P := fun t => v t = v s) (fun t a ht => (hf t a).trans ht) l rfl

/-! ### Small updates -/

section
variable (s : State)

@[simp] theorem holdView_modEv (f : Ev → Ev) : (s.modEv f).holdView = s.holdView := rfl
@[simp] theorem holdView_scanWanted : s.scanWanted.holdView = s.holdView := rfl
@[simp] theorem holdView_clearEv : s.clearEv.holdView = s.holdView := rfl
@[simp] theorem holdView_putBerth (b : Nat) (x : BerthStatus) : (s.putBerth b x).holdView = s.holdView := rfl
@[simp] theorem holdView_modBerth (b : Nat) (f : BerthStatus → BerthStatus) : (s.modBerth b f).holdView = s.holdView := rfl
@[simp] theorem holdView_setBerth (b : Nat) (f : BerthStatus → BerthStatus) : (s.setBerth b f).holdView = s.holdView := rfl
@[simp] theorem holdView_touch (b : Nat) : (s.touch b).holdView = s.holdView := rfl
@[simp] theorem holdView_putSeq (k : Nat) (q : Seq) : (s.putSeq k q).holdView = s.holdView := rfl
@[simp] theorem holdView_modSeq (k : Nat) (f : Seq → Seq) : (s.modSeq k f).holdView = s.holdView := rfl
@[simp] theorem holdView_putRun (r : Nat) (q : RunStatus) : (s.putRun r q).holdView = s.holdView := rfl
@[simp] theorem holdView_modRun (r : Nat) (f : RunStatus → RunStatus) : (s.modRun r f).holdView = s.holdView := rfl
@[simp] theorem holdView_putAct (a : Nat) (x : ActStatus) : (s.putAct a x).holdView = s.holdView := rfl
@[simp] theorem holdView_removeEntry (a : Nat) : (s.removeEntry a).holdView = s.holdView := rfl
@[simp] theorem holdView_bump (c : Counter) : (s.bump c).holdView = s.holdView := rfl
@[simp] theorem holdView_useFree : s.useFree.holdView = s.holdView := rfl
@[simp] theorem holdView_advance : s.advance.holdView = s.holdView := rfl
@[simp] theorem holdView_driveLines : s.driveLines.holdView = s.holdView := rfl
@[simp] theorem holdView_at (t : Nat) : (s.at_ t).holdView = s.holdView := rfl
@[simp] theorem holdView_setQueue (q : List QEntry) (n : Nat) : ({ s with queue := q, reqSeq := n } : State).holdView = s.holdView := rfl
@[simp] theorem holdView_keepQueue (q : List QEntry) : ({ s with queue := q } : State).holdView = s.holdView := rfl
@[simp] theorem holdView_setCmds (l : List CmdEntry) : ({ s with cmds := l } : State).holdView = s.holdView := rfl
@[simp] theorem holdView_startUp : s.startUp.holdView = s.holdView := rfl
@[simp] theorem holdView_startDn : s.startDn.holdView = s.holdView := rfl
@[simp] theorem holdView_placeCommands (n : Nat) : (s.placeCommands n).holdView = s.holdView := rfl

@[simp] theorem holdView_putBoat (b : Nat) (x : Option Boat) : (s.putBoat b x).holdView = s.holdView := by
  unfold State.putBoat
  split <;> rfl

@[simp] theorem holdView_putRel (b : Nat) (x : Option Release) : (s.putRel b x).holdView = s.holdView := by
  unfold State.putRel
  split <;> rfl

@[simp] theorem holdView_modBoat (b : Nat) (f : Boat → Boat) : (s.modBoat b f).holdView = s.holdView := by
  unfold State.modBoat
  split <;> simp

/-- A node's status may change where its roster state does not. -/
theorem holdView_putNode (n : Nat) (q : NodeStatus) (hq : q.state = (s.nodeS n).state) : (s.putNode n q).holdView = s.holdView := by
  have : (fun m => ((s.putNode n q).nodeS m).state) = fun m => (s.nodeS m).state := by
    funext m
    rw [nodeS_putNode]
    split
    · next h => rw [h.1, hq]
    · rfl
  unfold State.holdView
  rw [this]
  rfl

/-- A zone's status may change where its occupant, holds and latch do not. -/
theorem holdView_putZs (z : Nat) (q : ZoneStatus) (hq : q.holds = (s.zst z).holds) : (s.putZs z q).holdView = s.holdView := by
  have : (fun w => ((s.putZs z q).zst w).holds) = fun w => (s.zst w).holds := by
    funext w
    rw [zst_putZs]
    split
    · next h => rw [h.1, hq]
    · rfl
  unfold State.holdView
  rw [this]
  rfl

theorem holdView_setZs (z : Nat) (q : ZoneStatus) (hq : q.holds = (s.zst z).holds) : (s.setZs z q).holdView = s.holdView :=
  holdView_putZs s z q hq

theorem holdView_modZs (z : Nat) (f : ZoneStatus → ZoneStatus) (hf : ∀ q : ZoneStatus, (f q).holds = q.holds) :
    (s.modZs z f).holdView = s.holdView := holdView_setZs s z _ (hf _)

@[simp] theorem holdView_unreserve (z : Nat) : (s.unreserve z).holdView = s.holdView := holdView_modZs s z _ fun _ => rfl
@[simp] theorem holdView_stopWatch (z : Nat) : (s.stopWatch z).holdView = s.holdView := holdView_modZs s z _ fun _ => rfl

@[simp] theorem holdView_startWatch (z : Nat) : (s.startWatch z).holdView = s.holdView := by
  unfold State.startWatch
  split
  · exact holdView_modZs s z _ fun _ => rfl
  · rfl

@[simp] theorem holdView_raiseFault (z : Nat) (f : ZFault) : (s.raiseFault z f).holdView = s.holdView := by
  unfold State.raiseFault
  split
  · rfl
  · exact holdView_modZs s z _ fun _ => rfl

@[simp] theorem holdView_reserve (b : Nat) (p : List Nat) : (s.reserve b p).holdView = s.holdView :=
  foldl_view State.holdView (fun t z => holdView_modZs t z (fun q => { q with reserved := some b }) fun _ => rfl) p s

/-! ### Ports, notices and commands -/

@[simp] theorem holdView_placeHeld : s.placeHeld.holdView = s.holdView := by
  unfold State.placeHeld
  split
  · rfl
  · split <;> rfl

@[simp] theorem holdView_buildNotice : s.buildNotice.holdView = s.holdView := by
  unfold State.buildNotice
  split <;> rfl

@[simp] theorem holdView_pumpUp : s.pumpUp.holdView = s.holdView := by simp [State.pumpUp, State.fillUp]

@[simp] theorem holdView_notice (n : Notice) : (s.notice n).holdView = s.holdView := by
  unfold State.notice
  split
  · rfl
  · split
    · rw [holdView_pumpUp]; rfl
    · rfl

@[simp] theorem holdView_placeLimit (n : Nat) (e : NodeEntry) : (s.placeLimit n e).holdView = s.holdView := by
  unfold State.placeLimit State.modNode
  exact holdView_putNode _ n _ rfl

theorem holdView_placeOne {t : State} (h : s.placeOne = some t) : t.holdView = s.holdView := by
  unfold State.placeOne at h
  split at h
  · cases h
  · split at h
    · cases h; simp
    · split at h <;> cases h
      simp

@[simp] theorem holdView_placeFrames (n : Nat) (s : State) : (State.placeFrames n s).holdView = s.holdView := by
  induction n generalizing s with
  | zero => rfl
  | succ n ih =>
    unfold State.placeFrames
    split
    · rfl
    · next t ht => rw [ih, holdView_placeOne s ht]

@[simp] theorem holdView_pumpDn : s.pumpDn.holdView = s.holdView := by simp [State.pumpDn, State.fillDn]

@[simp] theorem holdView_handRaw (a : Nat) (v : ActValue) : (s.handRaw a v).holdView = s.holdView := by
  unfold State.handRaw
  split
  · rfl
  · dsimp only
    split <;> rfl

@[simp] theorem holdView_hand (a : Nat) (v : ActValue) : (s.hand a v).holdView = s.holdView := by simp [State.hand]

@[simp] theorem holdView_handAll (l : List (Nat × ActValue)) : (s.handAll l).holdView = s.holdView := by
  unfold State.handAll
  rw [holdView_pumpDn]
  exact foldl_view State.holdView (fun t p => holdView_handRaw t p.1 p.2) l s

@[simp] theorem holdView_handLimit (n : Nat) : (s.handLimit n).holdView = s.holdView := by
  unfold State.handLimit State.modNode
  rw [holdView_pumpDn]
  exact holdView_putNode s n _ rfl

/-! ### Path reservation -/

@[simp] theorem holdView_setBoatState (b : Nat) (x : BoatState) : (s.setBoatState b x).holdView = s.holdView :=
  holdView_modBoat s b _

@[simp] theorem holdView_enqueue (b o : Nat) (p : List Nat) : (s.enqueue b o p).holdView = s.holdView := by simp [State.enqueue]

@[simp] theorem holdView_request (b : Nat) : (s.request b).1.holdView = s.holdView := by
  unfold State.request
  split
  · rfl
  · split
    · rfl
    · split
      · rfl
      · split
        · rfl
        · split <;> simp

@[simp] theorem holdView_withdraw (b : Nat) : (s.withdraw b).holdView = s.holdView := by
  unfold State.withdraw
  split <;> simp

@[simp] theorem holdView_restoreEntry (e : QEntry) : (s.restoreEntry e).holdView = s.holdView := by simp [State.restoreEntry]

@[simp] theorem holdView_autoRequest (b : Nat) : (s.autoRequest b).holdView = s.holdView := by
  unfold State.autoRequest
  split
  · rfl
  · split <;> simp

@[simp] theorem holdView_autoRequests : s.autoRequests.holdView = s.holdView :=
  foldl_view State.holdView (fun t i => holdView_autoRequest t (i + 1)) _ s

@[simp] theorem holdView_returnReservations (b : Nat) : (s.returnReservations b).holdView = s.holdView := by
  unfold State.returnReservations
  split
  · rfl
  · split
    · rfl
    · simp [foldl_view State.holdView holdView_unreserve]

@[simp] theorem holdView_undoGrant (b : Nat) : (s.undoGrant b).holdView = s.holdView := by
  unfold State.undoGrant
  split <;> simp

@[simp] theorem holdView_throwFailed (b : Nat) : (s.throwFailed b).holdView = s.holdView := by
  unfold State.throwFailed
  split <;> simp

@[simp] theorem holdView_failThrows (a : Nat) : (s.failThrows a).holdView = s.holdView :=
  foldl_view State.holdView holdView_throwFailed _ s

/-! ### Berths -/

@[simp] theorem holdView_berthDerive (b : Nat) : (s.berthDerive b).holdView = s.holdView := by
  unfold State.berthDerive
  split <;> simp

@[simp] theorem holdView_trySecure (b : Nat) : (s.trySecure b).holdView = s.holdView := by
  unfold State.trySecure
  split
  · rfl
  · dsimp only
    split <;> simp

@[simp] theorem holdView_berthArrive (b : Nat) : (s.berthArrive b).holdView = s.holdView := by
  unfold State.berthArrive
  split
  · rfl
  · dsimp only
    split <;> simp

@[simp] theorem holdView_berthLeft (b : Nat) : (s.berthLeft b).holdView = s.holdView := rfl
@[simp] theorem holdView_berthRetired (b : Nat) : (s.berthRetired b).holdView = s.holdView := rfl
@[simp] theorem holdView_berthGranted (b : Nat) : (s.berthGranted b).holdView = s.holdView := rfl
@[simp] theorem holdView_berthWithdrawn (b : Nat) : (s.berthWithdrawn b).holdView = s.holdView := rfl

@[simp] theorem holdView_berthReturned (b : Nat) : (s.berthReturned b).holdView = s.holdView := by
  unfold State.berthReturned
  split
  · rfl
  · dsimp only
    split
    · simp
    · split <;> simp

@[simp] theorem holdView_berthCleared (b : Nat) : (s.berthCleared b).holdView = s.holdView := by
  unfold State.berthCleared
  split <;> simp

@[simp] theorem holdView_berthFault (b : Nat) (r : BerthFault) : (s.berthFault b r).holdView = s.holdView := by
  unfold State.berthFault
  split
  · rfl
  · dsimp only
    rw [holdView_setBerth]
    split
    · split <;> simp
    · rfl

/-- A report to a berth leaves alone what the report itself leaves alone. -/
theorem holdView_toBerth (z : Nat) {f : State → Nat → State} (hf : ∀ t b, (f t b).holdView = t.holdView) :
    (s.toBerth z f).holdView = s.holdView := by
  unfold State.toBerth
  split
  · rfl
  · exact hf _ _

@[simp] theorem holdView_handLamp (b : Nat) (e : BerthEntry) : (s.handLamp b e).holdView = s.holdView := by simp [State.handLamp]
@[simp] theorem holdView_handLock (b : Nat) (e : BerthEntry) : (s.handLock b e).holdView = s.holdView := by simp [State.handLock]

@[simp] theorem holdView_settleBerth (b : Nat) : (s.settleBerth b).holdView = s.holdView := by
  unfold State.settleBerth
  split
  · rfl
  · dsimp only
    split <;> split <;> simp

@[simp] theorem holdView_settleBerths : s.settleBerths.holdView = s.holdView :=
  foldl_view State.holdView (fun t b => by split <;> simp) _ s

@[simp] theorem holdView_handBoth (b : Nat) : (s.handBoth b).holdView = s.holdView := by
  unfold State.handBoth
  split <;> simp

@[simp] theorem holdView_withdrawAll : s.withdrawAll.holdView = s.holdView := by
  unfold State.withdrawAll
  rw [foldl_view State.holdView fun t e => ?_]
  · simp
  · rw [holdView_toBerth _ _ holdView_berthWithdrawn, holdView_setBoatState]

@[simp] theorem holdView_returnAll : s.returnAll.holdView = s.holdView := by
  refine foldl_view State.holdView (fun t i => ?_) _ s
  split
  · rfl
  · split
    · rw [holdView_toBerth _ _ holdView_berthReturned, holdView_setBoatState, holdView_returnReservations]
    · rfl

/-! ### Brake runs -/

@[simp] theorem holdView_handFin (r i : Nat) (v : ActValue) : (s.handFin r i v).holdView = s.holdView := by
  unfold State.handFin
  dsimp only
  split
  · split <;> simp [State.setAwaiting]
  · simp [State.setAwaiting]

@[simp] theorem holdView_setFins (r n k : Nat) : (s.setFins r n k).holdView = s.holdView :=
  foldl_view State.holdView (fun t i => by dsimp only; split <;> split <;> simp) _ s

@[simp] theorem holdView_restoreRun (r : Nat) : (s.restoreRun r).holdView = s.holdView := by
  unfold State.restoreRun
  split <;> simp

@[simp] theorem holdView_restoreRuns : s.restoreRuns.holdView = s.holdView := by simp [State.restoreRuns]

@[simp] theorem holdView_engageRun (r : Nat) : (s.engageRun r).holdView = s.holdView := by
  unfold State.engageRun
  split
  · rfl
  · rw [holdView_modRun]
    exact foldl_view State.holdView (fun t i => holdView_handFin t r i _) _ s

@[simp] theorem holdView_finSettledIn (fin r : Nat) : (s.finSettledIn fin r).holdView = s.holdView := by
  unfold State.finSettledIn
  split
  · rfl
  · dsimp only
    rw [holdView_modRun]
    exact foldl_view State.holdView (fun t i => by split <;> simp [State.setAwaiting]) _ s

@[simp] theorem holdView_finSettled (fin : Nat) : (s.finSettled fin).holdView = s.holdView := by simp [State.finSettled]

@[simp] theorem holdView_runLeft (z : Nat) : (s.runLeft z).holdView = s.holdView :=
  foldl_view State.holdView (fun t r => by split <;> simp) _ s

@[simp] theorem holdView_setRun (r : Nat) (e : RunEntry) (b k : Nat) : (s.setRun r e b k).holdView = s.holdView := by
  simp [State.setRun]

/-! ### Launch sequencers -/

@[simp] theorem holdView_handBooster (k : Nat) (v : ActValue) : (s.handBooster k v).holdView = s.holdView := by
  unfold State.handBooster
  split <;> simp

@[simp] theorem holdView_launchAbort (k : Nat) (r : AbortReason) : (s.launchAbort k r).holdView = s.holdView := by
  unfold State.launchAbort
  split
  · dsimp only
    rw [holdView_notice]
    split
    · rw [holdView_toBerth _ _ holdView_berthReturned]; simp
    · simp
  · rfl

@[simp] theorem holdView_abortCharge (k : Nat) (r : AbortReason) : (s.abortCharge k r).holdView = s.holdView := by
  unfold State.abortCharge
  split <;> simp

@[simp] theorem holdView_abortInhibited : s.abortInhibited.holdView = s.holdView :=
  foldl_view State.holdView (fun t k => by split <;> simp) _ s

@[simp] theorem holdView_abortCharges : s.abortCharges.holdView = s.holdView := by simp [State.abortCharges]

@[simp] theorem holdView_abortChargesOn (n : Nat) : (s.abortChargesOn n).holdView = s.holdView :=
  foldl_view State.holdView (fun t k => holdView_abortCharge t k _) _ s

@[simp] theorem holdView_inhibitPulse (c : Nat) : (s.inhibitPulse c).holdView = s.holdView :=
  foldl_view State.holdView (fun t u => by split <;> simp) _ s

@[simp] theorem holdView_chargeStart (k b : Nat) : (s.chargeStart k b).holdView = s.holdView := by
  unfold State.chargeStart
  split
  · rfl
  · dsimp only
    split
    · simp
    · split <;> simp

@[simp] theorem holdView_launchDeparted (k b : Nat) : (s.launchDeparted k b).holdView = s.holdView := by
  unfold State.launchDeparted
  split <;> simp

@[simp] theorem holdView_seqToIdle (k : Nat) : (s.seqToIdle k).holdView = s.holdView := by
  unfold State.seqToIdle
  dsimp only
  split
  · rfl
  · split <;> simp

@[simp] theorem holdView_boosterSafeByMode (k : Nat) : (s.boosterSafeByMode k).holdView = s.holdView := by
  unfold State.boosterSafeByMode
  split
  · rfl
  · split <;> simp

@[simp] theorem holdView_boostersToSafe : s.boostersToSafe.holdView = s.holdView := by
  unfold State.boostersToSafe State.boostersSafeByMode State.seqsToIdle
  split
  · simp
  · split <;> simp

@[simp] theorem holdView_closeGates : s.closeGates.holdView = s.holdView :=
  foldl_view State.holdView (fun t a => holdView_hand t a _) _ s

@[simp] theorem holdView_cooldownEnd (k : Nat) : (s.cooldownEnd k).holdView = s.holdView := rfl

@[simp] theorem holdView_cooldownStart (k : Nat) (e : LaunchEntry) : (s.cooldownStart k e).holdView = s.holdView := by
  unfold State.cooldownStart
  dsimp only
  split <;> rfl

@[simp] theorem holdView_launchNone (k : Nat) (e : LaunchEntry) : (s.launchNone k e).holdView = s.holdView := by
  simp [State.launchNone]

@[simp] theorem holdView_launchReleased (k : Nat) (e : LaunchEntry) : (s.launchReleased k e).holdView = s.holdView := by
  unfold State.launchReleased
  split <;> simp

@[simp] theorem holdView_launchArrived (k b : Nat) : (s.launchArrived k b).holdView = s.holdView := by
  unfold State.launchArrived
  split
  · rfl
  · split <;> simp

/-! ### Grants -/

@[simp] theorem holdView_openGate (e : QEntry) (z : ZoneEntry) : (s.openGate e z).holdView = s.holdView := by
  unfold State.openGate
  dsimp only
  split <;> simp

@[simp] theorem holdView_beginRelease (e : QEntry) (z : ZoneEntry) : (s.beginRelease e z).holdView = s.holdView := by
  unfold State.beginRelease
  split
  · dsimp only
    split <;> simp
  · split <;> simp
  all_goals simp

@[simp] theorem holdView_grant (e : QEntry) : (s.grant e).holdView = s.holdView := by
  have h : ∀ t : State, ((t.modBoat e.boat fun r => { r with path := e.path, state := .granted }).toBerth e.origin
      State.berthGranted).holdView = t.holdView := fun t => by
    rw [holdView_toBerth _ _ holdView_berthGranted, holdView_modBoat]
  unfold State.grant
  dsimp only
  split
  · rw [h]; simp
  · rw [holdView_beginRelease, h]; simp

@[simp] theorem holdView_scan : s.scan.holdView = s.holdView :=
  foldl_view State.holdView (fun t e => by split <;> simp) _ s

@[simp] theorem holdView_scans (n : Nat) (s : State) : (State.scans n s).holdView = s.holdView := by
  induction n generalizing s with
  | zero => rfl
  | succ n ih =>
    unfold State.scans
    split
    · rw [ih]; simp
    · rfl

end

/-! ### What is read from the view -/

section
variable {s u : State} (h : u.holdView = s.holdView)
include h

theorem tab_of_view : u.tab = s.tab := congrArg HoldView.tab h
theorem mc_of_view : u.mc = s.mc := congrArg HoldView.mc h
theorem mode_of_view : u.mode = s.mode := congrArg ModeCtl.mode (mc_of_view h)
theorem zoneE_of_view (z : Nat) : u.zoneE z = s.zoneE z := by unfold State.zoneE; rw [tab_of_view h]
theorem userE_of_view (x : Nat) : u.userE x = s.userE x := by unfold State.userE; rw [tab_of_view h]
theorem chanE_of_view (c : Nat) : u.chanE c = s.chanE c := by unfold State.chanE; rw [tab_of_view h]
theorem holds_of_view (z : Nat) : (u.zst z).holds = (s.zst z).holds := congrFun (congrArg HoldView.zones h) z
theorem occupant_of_view (z : Nat) : u.occupant z = s.occupant z := congrArg ZoneHolds.occupant (holds_of_view h z)
theorem nodeHold_of_view (z : Nat) : (u.zst z).nodeHold = (s.zst z).nodeHold := congrArg ZoneHolds.nodeHold (holds_of_view h z)
theorem userHold_of_view (z : Nat) : (u.zst z).userHold = (s.zst z).userHold := congrArg ZoneHolds.userHold (holds_of_view h z)
theorem latch_of_view (z : Nat) : (u.zst z).latch = (s.zst z).latch := congrArg ZoneHolds.latch (holds_of_view h z)
theorem roster_of_view (n : Nat) : (u.nodeS n).state = (s.nodeS n).state := congrFun (congrArg HoldView.roster h) n
theorem nodeActive_of_view (n : Nat) : u.nodeActive n = s.nodeActive n := by unfold State.nodeActive; rw [roster_of_view h]
theorem inputS_of_view (n : Nat) : u.inputS n = s.inputS n := by
  unfold State.inputS; rw [show u.inputs = s.inputs from congrArg HoldView.inputs h]

theorem wantsNodeHold_of_view (e : ZoneEntry) : u.wantsNodeHold e = s.wantsNodeHold e := by
  unfold State.wantsNodeHold
  simp only [nodeActive_of_view h]

theorem genLevel_of_view (g : Gen) : u.genLevel g = s.genLevel g := by
  cases g with
  | modeIs m => show (u.mode == m) = (s.mode == m); rw [mode_of_view h]
  | zoneOccupied z => show (u.occupant z).isSome = (s.occupant z).isSome; rw [occupant_of_view h]
  | nodeActive n => exact nodeActive_of_view h n
  | nodeInput n i => show (u.inputS n).getLsbD i = (s.inputS n).getLsbD i; rw [inputS_of_view h]
  | estopLine => show u.mc.estop = s.mc.estop; rw [mc_of_view h]
  | _ => rfl

theorem chanLevel_of_view (c : Nat) : u.chanLevel c = s.chanLevel c := by
  unfold State.chanLevel
  rw [chanE_of_view h]
  cases s.chanE c with
  | none => rfl
  | some g => exact genLevel_of_view h g

theorem userLevel_of_view (x : Nat) : u.userLevel x = s.userLevel x := by
  unfold State.userLevel
  rw [userE_of_view h]
  cases (s.userE x).chan with
  | zero => rfl
  | succ c => exact chanLevel_of_view h c

theorem followHolds_of_view : u.followHolds = s.followHolds := by
  unfold State.followHolds
  simp only [userE_of_view h, userLevel_of_view h]

theorem auxLine_of_view (x : Nat) : u.auxLine x = s.auxLine x := by
  unfold State.auxLine
  rw [userE_of_view h, userLevel_of_view h, show u.pulses = s.pulses from congrArg HoldView.pulses h]

/-- Holds that stand as their rules give them go on doing so. -/
theorem holdsSound_of_view (hs : s.holdsSound) : u.holdsSound := fun z e he => by
  obtain ⟨hn, hu⟩ := hs z e (by rw [← zoneE_of_view h]; exact he)
  rw [nodeHold_of_view h, userHold_of_view h, latch_of_view h, wantsNodeHold_of_view h, followHolds_of_view h]
  exact ⟨hn, hu⟩

end

/-- Lines that stand at the levels of their users go on doing so. -/
theorem linesSound_of_view {s u : State} (h : u.holdView = s.holdView) (hl : u.lines = s.lines) (hs : s.linesSound) :
    u.linesSound := fun x hx => by
  rw [hl, auxLine_of_view h]
  exact hs x hx

end Sys2Proof.Machine
end

section
/-! The operations that leave the NODE holds and all they depend on alone, levels and latches aside: one lemma for each (R12). -/

namespace Sys2Proof.Machine

/-- The zone table, the roster and the NODE holds. -/
structure NodeView where
  zone : Vector (Option ZoneEntry) 64
  roster : Nat → Roster
  hold : Nat → Bool

def HoldView.node (v : HoldView) : NodeView := ⟨v.tab.zone, v.roster, fun z => (v.zones z).nodeHold⟩

section
variable (s : State)

/-- A zone's status may change where its NODE hold does not. -/
theorem node_setZs (z : Nat) (q : ZoneStatus) (hq : q.nodeHold = (s.zst z).nodeHold) :
    (s.setZs z q).holdView.node = s.holdView.node := by
  have : (fun w => ((s.setZs z q).zst w).nodeHold) = fun w => (s.zst w).nodeHold := by
    funext w
    rw [zst_setZs]
    split
    · next h => rw [h.1, hq]
    · rfl
  show NodeView.mk s.tab.zone _ (fun w => ((s.setZs z q).zst w).nodeHold) = _
  rw [this]
  rfl

theorem node_modZs (z : Nat) (f : ZoneStatus → ZoneStatus) (hf : ∀ q : ZoneStatus, (f q).nodeHold = q.nodeHold) :
    (s.modZs z f).holdView.node = s.holdView.node := node_setZs s z _ (hf _)

/-- The tables may change where the zone table does not. -/
theorem node_modTab (f : Tables → Tables) (hf : (f s.tab).zone = s.tab.zone) : (s.modTab f).holdView.node = s.holdView.node := by
  show NodeView.mk (f s.tab).zone _ _ = NodeView.mk s.tab.zone _ _
  rw [hf]
  rfl

@[simp] theorem node_modMc (f : ModeCtl → ModeCtl) : (s.modMc f).holdView.node = s.holdView.node := rfl
@[simp] theorem node_putPulse (u : Nat) (x : Option Nat) : (s.putPulse u x).holdView.node = s.holdView.node := rfl
@[simp] theorem node_putInputs (n : Nat) (x : BitVec 4) : (s.putInputs n x).holdView.node = s.holdView.node := rfl
@[simp] theorem node_startPulse (u : Nat) : (s.startPulse u).holdView.node = s.holdView.node := rfl

/-! ### The trigger matrix -/

@[simp] theorem node_setLatch (z : Nat) : (s.setLatch z).holdView.node = s.holdView.node := by
  unfold State.setLatch
  split
  · rfl
  · exact node_modZs s z _ fun _ => rfl

@[simp] theorem node_arrive (u c : Nat) (a : Arrival) (src : Source) : (s.arrive u c a src).holdView.node = s.holdView.node := by
  unfold State.arrive State.triggerNotice
  dsimp only
  split
  · rfl
  · split
    · split <;> simp
    · split
      · split <;> simp
      · split
        · split <;> simp
        · rfl

@[simp] theorem node_deliver (c : Nat) (a : Arrival) (src : Source) : (s.deliver c a src).holdView.node = s.holdView.node :=
  foldl_view (fun t => t.holdView.node) (fun t u => by split <;> simp) _ s

@[simp] theorem node_pulseChan (c : Nat) (src : Source) : (s.pulseChan c src).holdView.node = s.holdView.node := by
  simp [State.pulseChan, State.deliverPulse]

@[simp] theorem node_pulse (g : Gen) : (s.pulse g).holdView.node = s.holdView.node :=
  foldl_view (fun t => t.holdView.node) (fun t c => by split <;> simp) _ s

@[simp] theorem node_edges (s0 : State) : (State.edges s0 s).holdView.node = s.holdView.node :=
  foldl_view (fun t => t.holdView.node) (fun t c => by split <;> simp) _ s

@[simp] theorem node_evalUserHolds : s.evalUserHolds.holdView.node = s.holdView.node :=
  foldl_view (fun t => t.holdView.node) (fun t p => by
    dsimp only
    split
    · rfl
    · exact node_setZs t p.1 _ rfl) _ s

/-! ### Modes -/

@[simp] theorem holdView_stopWatches : s.stopWatches.holdView = s.holdView := by
  have : (fun z => (s.stopWatches.zst z).holds) = fun z => (s.zst z).holds := by
    funext z
    show ((s.zs.map fun q => { q with watch := none })[z]?.getD ZoneStatus.clear).holds = _
    rw [Vector.getElem?_map]
    unfold State.zst
    cases s.zs[z]? <;> rfl
  unfold State.holdView
  rw [this]
  rfl

@[simp] theorem node_enterStop : s.enterStop.holdView.node = s.holdView.node := by simp [State.enterStop]
@[simp] theorem node_enterConfig : s.enterConfig.holdView.node = s.holdView.node := by simp [State.enterConfig]

@[simp] theorem node_enterHold (old : Mode) : (s.enterHold old).holdView.node = s.holdView.node := by
  unfold State.enterHold
  split <;> simp

@[simp] theorem node_changeMode (m : Mode) (c : Cause) : (s.changeMode m c).holdView.node = s.holdView.node := by
  unfold State.changeMode State.enterMode State.enterRun
  split <;> simp

@[simp] theorem node_abortCheck : s.abortCheck.holdView.node = s.holdView.node := by
  unfold State.abortCheck
  split <;> simp

@[simp] theorem node_goStop (c : Cause) : (s.goStop c).holdView.node = s.holdView.node := by
  unfold State.goStop
  split <;> simp

@[simp] theorem node_askStop (b : Block) : (s.askStop b).holdView.node = s.holdView.node := node_goStop s _

@[simp] theorem node_askHold (b : Block) : (s.askHold b).holdView.node = s.holdView.node := by
  unfold State.askHold
  split <;> simp

@[simp] theorem node_holdIf (c : Bool) (b : Block) : (s.holdIf c b).holdView.node = s.holdView.node := by
  unfold State.holdIf
  split <;> simp

@[simp] theorem node_lostHold (b : Block) : (s.lostHold b).holdView.node = s.holdView.node := by
  unfold State.lostHold
  split <;> simp

@[simp] theorem node_estopOn : s.estopOn.holdView.node = s.holdView.node := by simp [State.estopOn]
@[simp] theorem node_estopOff : s.estopOff.holdView.node = s.holdView.node := by simp [State.estopOff]

/-! ### Launch sequencers -/

@[simp] theorem node_launchSpeed (k : Nat) (e : LaunchEntry) (v : Nat) : (s.launchSpeed k e v).holdView.node = s.holdView.node := by
  unfold State.launchSpeed
  dsimp only
  rw [holdView_cooldownStart]
  split <;> simp

@[simp] theorem node_takeSpeed (k v : Nat) : (s.takeSpeed k v).holdView.node = s.holdView.node := by
  unfold State.takeSpeed
  split
  · rfl
  · split <;> simp

@[simp] theorem node_measure (k : Nat) (e : LaunchEntry) : (s.measure k e).holdView.node = s.holdView.node := by
  unfold State.measure
  dsimp only
  split
  · simp
  · split <;> simp

@[simp] theorem node_takeReady (src num : Nat) : (s.takeReady src num).holdView.node = s.holdView.node := by
  unfold State.takeReady State.fire
  split
  · simp
  · split
    · rfl
    · split
      · split <;> simp
      all_goals simp

@[simp] theorem node_takeDone (src num : Nat) : (s.takeDone src num).holdView.node = s.holdView.node := by
  unfold State.takeDone State.uncommanded
  split
  · simp
  · split
    · rfl
    · split <;> simp

@[simp] theorem node_chargeExpiry (k : Nat) : (s.chargeExpiry k).holdView.node = s.holdView.node := by
  unfold State.chargeExpiry
  split
  · rfl
  · split <;> simp

@[simp] theorem node_doneExpiry (k : Nat) : (s.doneExpiry k).holdView.node = s.holdView.node := by
  unfold State.doneExpiry
  split
  · rfl
  · split <;> simp

@[simp] theorem node_cooldownExpiry (k : Nat) : (s.cooldownExpiry k).holdView.node = s.holdView.node := by
  unfold State.cooldownExpiry
  split
  · rfl
  · split <;> simp

/-! ### Berth records -/

@[simp] theorem holdView_berthAnswer (b n : Nat) (a : Answer) : (s.berthAnswer b n a).holdView = s.holdView := by
  unfold State.berthAnswer State.berthBlink
  split
  · simp
  · simp
  · split <;> simp

@[simp] theorem holdView_takePress (b : Nat) (e : BerthEntry) : (s.takePress b e).holdView = s.holdView := by
  unfold State.takePress State.padPress State.pressRequest State.berthBlink
  split
  · simp
  · split
    · split
      · split
        · simp
        · split <;> simp
      · simp
    · simp

@[simp] theorem holdView_takePending (b : Nat) : (s.takePending b).holdView = s.holdView := by
  unfold State.takePending
  split
  · rfl
  · dsimp only
    split <;> simp

@[simp] theorem node_pressEdge (b : Nat) (e : BerthEntry) : (s.pressEdge b e).holdView.node = s.holdView.node := by
  unfold State.pressEdge
  dsimp only
  split
  · split <;> simp
  · split <;> simp
  all_goals simp

@[simp] theorem node_presenceEdge (b : Nat) (e : BerthEntry) (x : Bool) : (s.presenceEdge b e x).holdView.node = s.holdView.node := by
  unfold State.presenceEdge State.presenceLost State.berthAlarm
  dsimp only
  split
  · simp
  · split <;> simp

@[simp] theorem holdView_latchToSequencer (e : BerthEntry) : (s.latchToSequencer e).holdView = s.holdView := by
  unfold State.latchToSequencer
  split <;> simp

@[simp] theorem node_latchOpenReleased (b : Nat) (e : BerthEntry) : (s.latchOpenReleased b e).holdView.node = s.holdView.node := by
  unfold State.latchOpenReleased State.berthAlarm
  dsimp only
  split
  · simp
  · split <;> simp

@[simp] theorem node_latchEdge (b : Nat) (e : BerthEntry) (x : Bool) : (s.latchEdge b e x).holdView.node = s.holdView.node := by
  unfold State.latchEdge State.latchClosed State.latchOpened State.berthUnsecured
  dsimp only
  split
  · split <;> simp
  · split
    · simp
    · simp
    · rw [holdView_setBerth]
      split <;> simp
    all_goals simp

@[simp] theorem node_takeBerth (src : Nat) (p l u : Bool) : (s.takeBerth src p l u).holdView.node = s.holdView.node := by
  unfold State.takeBerth
  split
  · simp
  · dsimp only
    split <;> split <;> split <;> simp

@[simp] theorem holdView_takeWeight (src sc : Nat) (kg : Int) (x : Bool) : (s.takeWeight src sc kg x).holdView = s.holdView := by
  unfold State.takeWeight State.captureWeight
  split
  · simp
  · split
    · simp
    · split
      · dsimp only
        split
        · split <;> simp
        · simp
      · rfl

@[simp] theorem node_takeTag (src r n : Nat) : (s.takeTag src r n).holdView.node = s.holdView.node := by
  unfold State.takeTag State.tagFailed
  split
  · rfl
  · split
    · rfl
    · split
      · simp
      · split <;> simp

/-! ### Traps -/

@[simp] theorem node_limitCheck (who : Option Nat) (i : Nat) (e : TrapEntry) (v : Nat) :
    (s.limitCheck who i e v).holdView.node = s.holdView.node := by
  unfold State.limitCheck
  split
  · rfl
  · split <;> simp

@[simp] theorem holdView_recordSpeed (b : Option Nat) (v i : Nat) : (s.recordSpeed b v i).holdView = s.holdView := by
  unfold State.recordSpeed
  split <;> simp

@[simp] theorem node_toLaunches (i v : Nat) : (s.toLaunches i v).holdView.node = s.holdView.node :=
  foldl_view (fun t => t.holdView.node) (fun t k => by split <;> simp) _ s

@[simp] theorem holdView_noticeIf (c : Bool) (n : Notice) : (s.noticeIf c n).holdView = s.holdView := by
  unfold State.noticeIf
  split <;> simp

@[simp] theorem node_brakeReport (r : Nat) (e : RunEntry) (i : Nat) (who v : Option Nat) :
    (s.brakeReport r e i who v).holdView.node = s.holdView.node := by
  unfold State.brakeReport State.unexpectedTrap State.selectInvalid State.select
  split
  · simp
  · split
    · simp
    · dsimp only
      split <;> simp

@[simp] theorem node_handSpeed (who : Option Nat) (i : Nat) (e : TrapEntry) (v : Nat) :
    (s.handSpeed who i e v).holdView.node = s.holdView.node := by
  unfold State.handSpeed
  split
  · simp
  · dsimp only
    split <;> simp

@[simp] theorem node_zeroInterval (who : Option Nat) (i : Nat) (e : TrapEntry) :
    (s.zeroInterval who i e).holdView.node = s.holdView.node := by
  unfold State.zeroInterval
  dsimp only
  split <;> simp

@[simp] theorem node_takeTrap (src p t : Nat) : (s.takeTrap src p t).holdView.node = s.holdView.node := by
  unfold State.takeTrap State.matchedTrap
  split
  · simp
  · split
    · simp
    · dsimp only
      split <;> simp

/-! ### Passages, and the records of boats and zones -/

@[simp] theorem node_watchExpiry (z : Nat) : (s.watchExpiry z).holdView.node = s.holdView.node := by
  unfold State.watchExpiry State.watchExpired
  split
  · rfl
  · split
    · dsimp only
      split <;> simp
    · rfl

@[simp] theorem holdView_skipZone (b z : Nat) : (s.skipZone b z).holdView = s.holdView := by simp [State.skipZone]

@[simp] theorem node_moveBoat (b z : Nat) (x : Boat) (rest : List Nat) : (s.moveBoat b z x rest).holdView.node = s.holdView.node := by
  have h : ∀ f g : ZoneStatus → ZoneStatus, (∀ q, (f q).nodeHold = q.nodeHold) → (∀ q, (g q).nodeHold = q.nodeHold) →
      ((s.modZs x.zone f).modZs z g).holdView.node = s.holdView.node := fun f g hf hg => by
    rw [node_modZs _ _ _ hg, node_modZs _ _ _ hf]
  unfold State.moveBoat
  dsimp only
  split <;> split <;> simp [h]

@[simp] theorem holdView_firstPassage (b y : Nat) : (s.firstPassage b y).holdView = s.holdView := by
  unfold State.firstPassage
  dsimp only
  split
  · simp
  · split
    · simp
    · split <;> simp

@[simp] theorem holdView_clearTrip (b z : Nat) : (s.clearTrip b z).holdView = s.holdView := by
  unfold State.clearTrip
  split <;> simp

@[simp] theorem node_handEntry (b y z : Nat) (g a k : Bool) : (s.handEntry b y z g a k).holdView.node = s.holdView.node := by
  have h : ∀ t : State, ((t.toBerth y State.berthLeft).toBerth z State.berthArrive).holdView = t.holdView := fun t => by
    rw [holdView_toBerth _ _ holdView_berthArrive, holdView_toBerth _ _ holdView_berthLeft]
  unfold State.handEntry
  dsimp only
  split <;> split <;> split <;> simp [h]

@[simp] theorem node_enter (b z : Nat) (x : Boat) : (s.enter b z x).holdView.node = s.holdView.node := by
  unfold State.enter
  dsimp only
  rw [node_handEntry, node_moveBoat, foldl_view State.holdView fun t w => holdView_skipZone t b w]

@[simp] theorem node_takeMarker (src n e : Nat) : (s.takeMarker src n e).holdView.node = s.holdView.node := by
  unfold State.takeMarker State.passage State.doublePassage State.unexpectedPassage
  split
  · simp
  · split
    · simp
    · split
      · rfl
      · split
        · simp
        · split
          · split
            · rfl
            · split <;> simp
          · split
            · rfl
            · split <;> simp
          · simp

@[simp] theorem node_placeBoat (b c z r : Nat) : (s.placeBoat b c z r).1.holdView.node = s.holdView.node := by
  unfold State.placeBoat
  dsimp only
  split
  · rfl
  · rw [holdView_toBerth _ _ holdView_berthArrive, node_modZs, holdView_putBoat]
    exact fun _ => rfl

@[simp] theorem node_retireBoat (b : Nat) : (s.retireBoat b).1.holdView.node = s.holdView.node := by
  unfold State.retireBoat
  dsimp only
  split
  · rfl
  · split
    · rfl
    · rw [holdView_runLeft, holdView_toBerth _ _ holdView_berthRetired, holdView_putBoat]
      exact node_modZs s _ _ fun _ => rfl

@[simp] theorem holdView_setRoute (b r : Nat) : (s.setRoute b r).1.holdView = s.holdView := by
  unfold State.setRoute
  split <;> simp

@[simp] theorem node_clearZone (z : Nat) : (s.clearZone z).1.holdView.node = s.holdView.node := by
  have h : ∀ t : State, (t.toBerth z State.berthCleared).holdView = t.holdView := fun t =>
    holdView_toBerth t z holdView_berthCleared
  have hz : ∀ f : ZoneStatus → ZoneStatus, (∀ q, (f q).nodeHold = q.nodeHold) → (s.modZs z f).holdView.node = s.holdView.node :=
    fun f hf => node_modZs s z f hf
  unfold State.clearZone State.clearDefined
  split
  · rfl
  · dsimp only
    rw [h]
    split
    · exact hz _ fun _ => rfl
    · split <;> simp [hz]

/-! ### The table check, timers and ports -/

@[simp] theorem node_takeCheckItem : s.takeCheckItem.holdView.node = s.holdView.node := by
  unfold State.takeCheckItem State.checkFailed State.checkPassed
  split
  · rfl
  · split
    · simp
    · split
      · simp
      · dsimp only
        split <;> simp

@[simp] theorem node_auxExpiry (u : Nat) : (s.auxExpiry u).holdView.node = s.holdView.node := by
  unfold State.auxExpiry
  split <;> simp

@[simp] theorem holdView_sent (p : Port) : (s.sent p).holdView = s.holdView := by
  unfold State.sent
  split
  · rw [holdView_pumpUp]; rfl
  · rw [holdView_pumpDn]; rfl

@[simp] theorem holdView_resend : s.resend.holdView = s.holdView := by
  unfold State.resend
  rw [holdView_handAll]
  rfl

@[simp] theorem holdView_forward (p : Port) (f : QFrame) : (s.forward p f).holdView = s.holdView := by
  unfold State.forward
  split
  · split
    · rw [holdView_pumpUp]; rfl
    · rfl
  · split
    · rw [holdView_pumpDn]; rfl
    · rfl

@[simp] theorem holdView_takeCommands (f : List Byte) (q : Option (List RawRecord)) : (s.takeCommands f q).holdView = s.holdView := by
  have ha : ∀ (t : State) p, (t.adopt p).holdView = t.holdView := fun t p => by unfold State.adopt; split <;> rfl
  have hr : ∀ (t : State) d r, (t.reportRemoved d r).holdView = t.holdView := fun t d r => by simp [State.reportRemoved]
  unfold State.takeCommands
  split
  · split <;> simp
  · split
    · rfl
    · split
      · unfold State.passCommands
        rw [holdView_forward, foldl_view State.holdView ha]
      · unfold State.filterCommands
        dsimp only
        split
        · rw [foldl_view State.holdView fun t r => hr t _ r]
        · split <;> rw [holdView_forward, foldl_view State.holdView fun t r => hr t _ r]

/-! ### Management records -/

@[simp] theorem node_recordMode (v : Nat) : (s.recordMode v).1.holdView.node = s.holdView.node := by
  unfold State.recordMode State.recordConfig State.recordRun State.recordHold State.recordResume State.recordStop State.checkBegin
  split
  · split
    · rfl
    · rfl
    · rfl
    all_goals
      split
      · rfl
      · split <;> simp
  · split
    · split <;> simp
    · rfl
    · rfl
    · split <;> simp
    · rfl
  · split <;> simp
  · split
    · rfl
    · rfl
    · rfl
    · rfl
    · split
      · rfl
      · split <;> simp
  · simp
  · rfl

@[simp] theorem node_recordInject (c : Nat) : (s.recordInject c).1.holdView.node = s.holdView.node := by
  unfold State.recordInject
  split <;> simp

@[simp] theorem holdView_recordMask (m : BitVec 24) : (s.recordMask m).1.holdView = s.holdView := by
  unfold State.recordMask
  split <;> rfl

end

end Sys2Proof.Machine
end

section
/-! NODE and USER holds as their rules give them, and the auxiliary lines at their levels, through every command (R12, R13, R154). -/

namespace Sys2Proof.Machine

/-! ### Holds evaluated afresh -/

/-- A zone that is defined stands among the defined zones. -/
theorem mem_definedZones {s : State} {p : Nat × ZoneEntry} : p ∈ s.definedZones ↔ s.zoneE p.1 = some p.2 := by
  unfold State.definedZones
  rw [List.mem_filterMap]
  constructor
  · rintro ⟨z, _, hz⟩
    obtain ⟨e, he, rfl⟩ := Option.map_eq_some_iff.mp hz
    exact he
  · intro h
    exact ⟨p.1, List.mem_range.mpr (zoneE_range (by rw [h]; rfl)), by rw [h]; rfl⟩

/-- The NODE hold that a zone is to have: a defined zone's by its depends list, an undefined one's as it is (R10, R12). -/
def State.wantedHold (s : State) (z : Nat) : Bool :=
  match s.zoneE z with
  | none => (s.zst z).nodeHold
  | some e => s.wantsNodeHold e

theorem wantedHold_of_defined {s : State} {z : Nat} {e : ZoneEntry} (h : s.zoneE z = some e) : s.wantedHold z = s.wantsNodeHold e := by
  unfold State.wantedHold
  rw [h]

/-- Evaluating a zone's NODE hold sets that hold and nothing else of a zone's status (R12). -/
theorem zst_evalNodeHold (s : State) (z w : Nat) :
    (s.evalNodeHold z).zst w = if w = z then { s.zst w with nodeHold := s.wantedHold w } else s.zst w := by
  unfold State.evalNodeHold
  cases he : s.zoneE z with
  | none =>
    dsimp only
    split
    · next h => subst h; unfold State.wantedHold; rw [he]
    · rfl
  | some e =>
    have hz := zoneE_range (s := s) (z := z) (by rw [he]; rfl)
    dsimp only
    split
    · next heq =>
      split
      · next h => subst h; rw [wantedHold_of_defined he, ← heq]
      · rfl
    · rw [zst_modZs]
      by_cases h : w = z
      · subst h; simp [hz, wantedHold_of_defined he]
      · simp [h]

/-- Evaluating holds leaves the zone table and the roster alone. -/
theorem evalNodeHold_tab_nodes (s : State) (z : Nat) : (s.evalNodeHold z).tab = s.tab ∧ (s.evalNodeHold z).nodes = s.nodes := by
  unfold State.evalNodeHold
  split
  · exact ⟨rfl, rfl⟩
  · split <;> exact ⟨rfl, rfl⟩

theorem wantsNodeHold_of_nodes {s u : State} (h : u.nodes = s.nodes) (e : ZoneEntry) : u.wantsNodeHold e = s.wantsNodeHold e := by
  unfold State.wantsNodeHold State.nodeActive State.nodeS
  rw [h]

/-- Evaluating the NODE holds of a list of zones sets those of the defined ones (R12). -/
theorem zst_evalHolds (s : State) {α : Type} (key : α → Nat) (l : List α) {z : Nat} {e : ZoneEntry} (he : s.zoneE z = some e) :
    (l.foldl (fun t a => t.evalNodeHold (key a)) s).zst z =
      if z ∈ l.map key then { s.zst z with nodeHold := s.wantsNodeHold e } else s.zst z := by
  induction l generalizing s with
  | nil => simp
  | cons a l ih =>
    obtain ⟨ht, hn⟩ := evalNodeHold_tab_nodes s (key a)
    have he' : (s.evalNodeHold (key a)).zoneE z = some e := by unfold State.zoneE; rw [ht]; exact he
    rw [List.foldl_cons, ih _ he', zst_evalNodeHold, wantedHold_of_defined he, wantsNodeHold_of_nodes hn]
    by_cases h1 : z = key a <;> by_cases h2 : z ∈ l.map key <;> simp [h1, h2]

/-- Evaluating holds leaves the zone table and the roster alone. -/
theorem evalHolds_tab_nodes (s : State) {α : Type} (key : α → Nat) (l : List α) :
    (l.foldl (fun t a => t.evalNodeHold (key a)) s).tab = s.tab ∧
      (l.foldl (fun t a => t.evalNodeHold (key a)) s).nodes = s.nodes :=
  ⟨foldl_view State.tab (fun t a => (evalNodeHold_tab_nodes t (key a)).1) l s,
    foldl_view State.nodes (fun t a => (evalNodeHold_tab_nodes t (key a)).2) l s⟩

/-- The USER hold of each defined zone becomes its latch or its FOLLOW users' (R13). -/
theorem zst_evalUserHolds (s : State) (w : Nat) : s.evalUserHolds.zst w =
    if (s.zoneE w).isSome then { s.zst w with userHold := (s.zst w).latch || s.followHolds.contains w } else s.zst w := by
  unfold State.evalUserHolds
  have key : ∀ (l : List (Nat × ZoneEntry)) (t : State), (∀ p ∈ l, p.1 < 64) → (l.foldl (fun t p =>
      if (t.zst p.1).userHold = ((t.zst p.1).latch || s.followHolds.contains p.1) then t
      else t.setZs p.1 { t.zst p.1 with userHold := (t.zst p.1).latch || s.followHolds.contains p.1 }) t).zst w =
      if w ∈ l.map (·.1) then { t.zst w with userHold := (t.zst w).latch || s.followHolds.contains w } else t.zst w := by
    intro l
    induction l with
    | nil => simp
    | cons p l ih =>
      intro t hl
      have hp := hl p List.mem_cons_self
      have hstep : (if (t.zst p.1).userHold = ((t.zst p.1).latch || s.followHolds.contains p.1) then t
          else t.setZs p.1 { t.zst p.1 with userHold := (t.zst p.1).latch || s.followHolds.contains p.1 }).zst w =
          if w = p.1 then { t.zst w with userHold := (t.zst w).latch || s.followHolds.contains w } else t.zst w := by
        split
        · next heq =>
          split
          · next h => subst h; rw [← heq]
          · rfl
        · rw [zst_setZs]
          by_cases h : w = p.1
          · subst h; simp [hp]
          · simp [h]
      rw [List.foldl_cons, ih _ fun q hq => hl q (List.mem_cons_of_mem _ hq), hstep]
      by_cases h1 : w = p.1 <;> by_cases h2 : w ∈ l.map (·.1) <;> simp [h1, h2]
  refine (key s.definedZones s fun p hp => zoneE_range (by rw [mem_definedZones.mp hp]; rfl)).trans ?_
  have : w ∈ s.definedZones.map (·.1) ↔ (s.zoneE w).isSome = true := by
    rw [List.mem_map, Option.isSome_iff_exists]
    exact ⟨fun ⟨p, hp, hw⟩ => ⟨p.2, hw ▸ mem_definedZones.mp hp⟩, fun ⟨e, he⟩ => ⟨(w, e), mem_definedZones.mpr he, rfl⟩⟩
  simp only [this]

/-- Evaluating the USER holds leaves everything but the zones and what is set aside alone. -/
theorem evalUserHolds_keeps {β : Type} (v : State → β) (hv : ∀ t z q, v (t.setZs z q) = v t) (s : State) : v s.evalUserHolds = v s :=
  foldl_view v (fun t p => by dsimp only; split <;> simp [hv]) _ s

/-! ### NODE holds that are right -/

/-- The NODE hold of each defined zone is present exactly while its depends list asks for it (R12). -/
def State.nodeHoldsRight (s : State) : Prop := ∀ z e, s.zoneE z = some e → (s.zst z).nodeHold = s.wantsNodeHold e

theorem nodeHoldsRight_of_sound {s : State} (h : s.holdsSound) : s.nodeHoldsRight := fun z e he => (h z e he).1

theorem wantsNodeHold_of_roster {s u : State} {e : ZoneEntry} (h : ∀ n ∈ e.depends, (u.nodeS n).state = (s.nodeS n).state) :
    u.wantsNodeHold e = s.wantsNodeHold e := by
  unfold State.wantsNodeHold State.nodeActive
  rw [Bool.eq_iff_iff, List.any_eq_true, List.any_eq_true]
  exact exists_congr fun n => and_congr_right fun hn => by rw [h n hn]

/-- Right holds stay right where neither they nor what they depend on change. -/
theorem State.nodeHoldsRight.node {s u : State} (hs : s.nodeHoldsRight) (h : u.holdView.node = s.holdView.node) : u.nodeHoldsRight := by
  intro z e he
  have hz : s.zoneE z = some e := by
    unfold State.zoneE at *
    rw [← show u.tab.zone = s.tab.zone from congrArg NodeView.zone h]
    exact he
  rw [show (u.zst z).nodeHold = (s.zst z).nodeHold from congrFun (congrArg NodeView.hold h) z, hs z e hz]
  exact (wantsNodeHold_of_roster fun n _ => congrFun (congrArg NodeView.roster h) n).symm

theorem State.nodeHoldsRight.view {s u : State} (hs : s.nodeHoldsRight) (h : u.holdView = s.holdView) : u.nodeHoldsRight :=
  hs.node (congrArg HoldView.node h)

/-- Evaluating the holds of the zones that depend on a node makes every hold right that the others have right (R12). -/
theorem nodeHoldsRight_evalNodeHolds {s : State} {n : Nat}
    (hs : ∀ z e, s.zoneE z = some e → n ∉ e.depends → (s.zst z).nodeHold = s.wantsNodeHold e) : (s.evalNodeHolds n).nodeHoldsRight := by
  obtain ⟨ht, hn⟩ := evalHolds_tab_nodes s (fun p : Nat × ZoneEntry => p.1) (s.definedZones.filter fun p => p.2.depends.contains n)
  intro z e he
  have hz : s.zoneE z = some e := by unfold State.evalNodeHolds State.zoneE at *; rw [ht] at he; exact he
  have hw : (s.evalNodeHolds n).wantsNodeHold e = s.wantsNodeHold e := wantsNodeHold_of_nodes hn e
  rw [hw]
  unfold State.evalNodeHolds
  rw [zst_evalHolds s (fun p : Nat × ZoneEntry => p.1) _ hz]
  split
  · rfl
  · next hmem =>
    refine hs z e hz fun hd => hmem ?_
    exact List.mem_map.mpr ⟨(z, e), List.mem_filter.mpr ⟨mem_definedZones.mpr hz, by simpa using hd⟩, rfl⟩

/-- Evaluating the hold of every defined zone makes them right (R12, R17). -/
theorem nodeHoldsRight_evalAll (s : State) : (s.definedZones.foldl (fun t p => t.evalNodeHold p.1) s).nodeHoldsRight := by
  obtain ⟨ht, hn⟩ := evalHolds_tab_nodes s (fun p : Nat × ZoneEntry => p.1) s.definedZones
  intro z e he
  have hz : s.zoneE z = some e := by unfold State.zoneE at *; rw [ht] at he; exact he
  rw [wantsNodeHold_of_nodes hn, zst_evalHolds s (fun p : Nat × ZoneEntry => p.1) _ hz,
    if_pos (List.mem_map.mpr ⟨(z, e), mem_definedZones.mpr hz, rfl⟩)]

/-! ### Changes of roster state -/

section
variable {s : State}

@[simp] theorem holdView_failThrowsOn (s : State) (n : Nat) : (s.failThrowsOn n).holdView = s.holdView :=
  foldl_view State.holdView (fun t a => by split <;> simp) _ s

@[simp] theorem holdView_reportFailed (s : State) (e : CmdEntry) : (s.reportFailed e).holdView = s.holdView := by
  unfold State.reportFailed
  split <;> simp

@[simp] theorem holdView_closeEntries (s : State) (n : Nat) : (s.closeEntries n).holdView = s.holdView := by
  unfold State.closeEntries
  dsimp only
  rw [foldl_view State.holdView holdView_reportFailed]
  rfl

/-- After a node's roster state has changed, the report makes the holds that depend on it right again (R12, R122). -/
theorem right_reportRoster {n : Nat} {o w : Roster} (hsame : o = w → s.nodeHoldsRight)
    (hs : ∀ z e, s.zoneE z = some e → n ∉ e.depends → (s.zst z).nodeHold = s.wantsNodeHold e) :
    (s.reportRoster n o w).nodeHoldsRight := by
  unfold State.reportRoster
  split
  · next h => exact hsame h
  · dsimp only
    refine (nodeHoldsRight_evalNodeHolds hs).view ?_
    split <;> split <;> simp

/-- A node's status changes: the holds that do not depend on it stay right. -/
theorem right_putNode_others (hs : s.nodeHoldsRight) (n : Nat) (q : NodeStatus) (z : Nat) (e : ZoneEntry)
    (he : s.zoneE z = some e) (hn : n ∉ e.depends) : ((s.putNode n q).zst z).nodeHold = (s.putNode n q).wantsNodeHold e := by
  rw [wantsNodeHold_of_roster (s := s) fun m hm => ?_]
  · exact hs z e he
  · rw [nodeS_putNode, if_neg fun h : m = n ∧ n < 48 => hn (h.1 ▸ hm)]

theorem right_putNode_same (hs : s.nodeHoldsRight) (n : Nat) (q : NodeStatus) (hq : q.state = (s.nodeS n).state) :
    (s.putNode n q).nodeHoldsRight := hs.view (holdView_putNode s n q hq)

/-- Changing a node's status where its roster state stays or is reported makes every hold right. -/
theorem right_changeNode (hs : s.nodeHoldsRight) (n : Nat) (w : Roster) (r : Option NodeReason) :
    (s.changeNode n w r).nodeHoldsRight := by
  have hv : ∀ t : State, (t.nodeNotice n w r).holdView = t.holdView := fun t => by unfold State.nodeNotice; split <;> simp
  unfold State.changeNode State.modNode
  refine right_reportRoster (fun h => ?_) fun z e he hn => ?_
  · exact (right_putNode_same hs n _ h.symm).view (hv _)
  · rw [nodeHold_of_view (hv _), wantsNodeHold_of_view (hv _)]
    rw [zoneE_of_view (hv _)] at he
    exact right_putNode_others hs n _ z e he hn

theorem right_signOfLife (hs : s.nodeHoldsRight) (n : Nat) : (s.signOfLife n).nodeHoldsRight := by
  have h1 : (s.modNode n fun q => { q with lastHeard := some s.now }).nodeHoldsRight := right_putNode_same hs n _ rfl
  unfold State.signOfLife
  split
  · exact hs
  · dsimp only
    split
    · exact right_changeNode h1 n _ _
    · exact h1

theorem right_heard (hs : s.nodeHoldsRight) (src : Nat) : (s.heard src).nodeHoldsRight := by
  unfold State.heard
  split
  · exact hs
  · exact right_signOfLife hs _

theorem right_join (hs : s.nodeHoldsRight) (n : Nat) : (s.join n).nodeHoldsRight :=
  (right_changeNode hs n .joining none).view (holdView_handLimit _ n)

theorem right_takeHello (hs : s.nodeHoldsRight) (src k : Nat) : (s.takeHello src k).nodeHoldsRight := by
  unfold State.takeHello
  split
  · exact hs.view (by simp)
  · split
    · exact hs.view (by simp)
    · split
      · exact hs
      · split
        · exact hs.view (by simp)
        · next n _ _ _ _ _ =>
          have h1 : (s.modNode n fun q => { q with localFault := false }).nodeHoldsRight := right_putNode_same hs n _ rfl
          exact right_join h1 n

theorem right_takeLimitAck (hs : s.nodeHoldsRight) (src : Nat) : (s.takeLimitAck src).nodeHoldsRight := by
  unfold State.takeLimitAck
  split
  · exact hs
  · next n _ =>
    dsimp only
    split
    · exact (right_changeNode (right_signOfLife hs n) n .active none).view (by simp)
    · exact right_signOfLife hs n

theorem right_joinExpiry (hs : s.nodeHoldsRight) (n : Nat) : (s.joinExpiry n).nodeHoldsRight := by
  unfold State.joinExpiry
  split
  · exact right_changeNode hs _ _ _
  · exact hs

theorem right_silentExpiry (hs : s.nodeHoldsRight) (n : Nat) : (s.silentExpiry n).nodeHoldsRight := by
  unfold State.silentExpiry
  split
  · exact right_changeNode hs _ _ _
  · exact hs

theorem right_lostExpiry (hs : s.nodeHoldsRight) (n : Nat) : (s.lostExpiry n).nodeHoldsRight := by
  unfold State.lostExpiry
  split
  · exact (right_changeNode hs n .lost (some .silence)).node (node_lostHold _ _)
  · exact hs

theorem right_takeHeartbeat (hs : s.nodeHoldsRight) (src : Nat) (x : BitVec 4) : (s.takeHeartbeat src x).nodeHoldsRight := by
  unfold State.takeHeartbeat
  split
  · exact hs
  · dsimp only
    split
    · exact (right_signOfLife hs _).node (node_putInputs _ _ _)
    · exact right_signOfLife hs _

/-! ### Acknowledgements -/

@[simp] theorem holdView_thrown (s : State) (b : Nat) : (s.thrown b).holdView = s.holdView := by
  unfold State.thrown
  split
  · rfl
  · split
    · split <;> simp
    all_goals simp

@[simp] theorem holdView_gateOpened (s : State) (a : Nat) : (s.gateOpened a).holdView = s.holdView :=
  foldl_view State.holdView (fun t p => by
    split
    · split
      · rfl
      · split <;> simp
    · rfl) _ s

@[simp] theorem holdView_lampCompleted (s : State) (a : Nat) : (s.lampCompleted a).holdView = s.holdView :=
  foldl_view State.holdView (fun t b => by split <;> simp) _ s

@[simp] theorem holdView_lockCompleted (s : State) (a : Nat) : (s.lockCompleted a).holdView = s.holdView :=
  foldl_view State.holdView (fun t b => by split <;> simp) _ s

@[simp] theorem holdView_reportDone (s : State) (e : CmdEntry) : (s.reportDone e).holdView = s.holdView := by
  unfold State.reportDone
  split <;> simp [foldl_view State.holdView holdView_thrown]

theorem right_fail (hs : s.nodeHoldsRight) (e : CmdEntry) (r : FailReason) : (s.fail e r).nodeHoldsRight := by
  have h1 : ((s.removeEntry e.act).reportFailed e).nodeHoldsRight := hs.view (by simp)
  unfold State.fail
  dsimp only
  split
  · exact h1
  · next n _ =>
    have h2 := h1.view (holdView_notice _ (.actuatorFault e.act n e.value r))
    have h3 : ((((s.removeEntry e.act).reportFailed e).notice (.actuatorFault e.act n e.value r)).modNode n
        fun q => { q with localFault := true }).nodeHoldsRight := right_putNode_same h2 n _ rfl
    exact (right_changeNode h3 n _ _).node (node_lostHold _ _)

theorem right_takeAck {use : State → CmdEntry → State} (hu : ∀ {t : State} e, t.nodeHoldsRight → (use t e).nodeHoldsRight)
    (hs : s.nodeHoldsRight) (src num t : Nat) : (s.takeAck src num t use).nodeHoldsRight := by
  have h1 := right_heard hs src
  unfold State.takeAck
  dsimp only
  split
  · exact h1.view (by simp)
  · split
    · exact h1.view (by simp)
    · exact hu _ h1

theorem right_ackAccepted (hs : s.nodeHoldsRight) (src num t : Nat) : (s.ackAccepted src num t).nodeHoldsRight :=
  right_takeAck (fun _ ht => ht.view (by simp [State.complete])) hs src num t

theorem right_ackRefused (hs : s.nodeHoldsRight) (src num t : Nat) : (s.ackRefused src num t).nodeHoldsRight :=
  right_takeAck (fun _ ht => right_fail ht _ _) hs src num t

theorem right_ackExpiry (hs : s.nodeHoldsRight) (a : Nat) : (s.ackExpiry a).nodeHoldsRight := by
  unfold State.ackExpiry
  split
  · exact hs
  · split
    · exact right_fail hs _ _
    · exact hs

/-! ### Table writes -/

/-- A replaced zone entry's hold is evaluated, and a removed entry has none (R16). -/
theorem right_storeZone (hs : s.nodeHoldsRight) (z : Nat) (x : Option ZoneEntry) : (s.storeZone z x).nodeHoldsRight := by
  have hE : ∀ w, (s.modTab fun t => { t with zone := t.zone.setIfInBounds z x }).zoneE w = if w = z ∧ z < 64 then x else s.zoneE w :=
    fun w => join_setIfInBounds _ _ _ _
  unfold State.storeZone
  dsimp only
  split
  · intro w e he
    have hw : ¬ (w = z ∧ z < 64) := fun h => by
      have := (hE w).symm.trans he
      rw [if_pos h] at this
      cases this
    have he' : s.zoneE w = some e := by rw [← he]; exact ((hE w).trans (if_neg hw)).symm
    rw [zst_setZs, if_neg hw]
    exact hs w e he'
  · next y =>
    have hv : ∀ t : State, (t.closeNamedGate y).holdView = t.holdView := fun t => by
      unfold State.closeNamedGate
      split
      · rfl
      · split <;> simp
    refine State.nodeHoldsRight.view (fun w e he => ?_) (hv _)
    obtain ⟨ht, hn⟩ := evalNodeHold_tab_nodes (s.modTab fun t => { t with zone := t.zone.setIfInBounds z (some y) }) z
    have he' : (s.modTab fun t => { t with zone := t.zone.setIfInBounds z (some y) }).zoneE w = some e := by
      unfold State.zoneE at *; rw [ht] at he; exact he
    rw [zst_evalNodeHold, wantsNodeHold_of_nodes hn]
    split
    · rw [wantedHold_of_defined he']
    · next hw =>
      refine hs w e ?_
      rw [← he', hE w, if_neg fun h => hw h.1]

theorem right_dropNode (hs : s.nodeHoldsRight) (n : Nat) : (s.dropNode n).nodeHoldsRight := by
  unfold State.dropNode
  refine right_reportRoster (fun h => ?_) fun z e he hn => ?_
  · exact (right_putNode_same hs n _ h.symm).node (node_putInputs _ _ _)
  · exact right_putNode_others hs n _ z e he hn

theorem right_storeNode (hs : s.nodeHoldsRight) (n : Nat) (x : Option NodeEntry) : (s.storeNode n x).nodeHoldsRight := by
  have h1 : (s.modTab fun t => { t with node := t.node.setIfInBounds n x }).nodeHoldsRight := hs.node (node_modTab s _ rfl)
  unfold State.storeNode
  dsimp only
  split
  · split
    · split
      · exact h1.view (by simp)
      · exact h1
    · exact right_dropNode h1 n
  · exact right_dropNode h1 n

theorem node_storeAuth (s : State) (a : Nat) (x : Option AuthEntry) : (s.storeAuth a x).holdView.node = s.holdView.node := by
  unfold State.storeAuth
  dsimp only
  split
  · split <;> simp [node_modTab]
  · simp [node_modTab]
  · simp [node_modTab]

@[simp] theorem holdView_rewriteRun (s : State) (r : Nat) : (s.rewriteRun r).holdView = s.holdView := by
  unfold State.rewriteRun
  split <;> simp

@[simp] theorem holdView_rewriteBerth (s : State) (b : Nat) (x : Bool) : (s.rewriteBerth b x).holdView = s.holdView := by
  simp [State.rewriteBerth]

theorem node_storeRun (s : State) (r : Nat) (x : Option RunEntry) : (s.storeRun r x).holdView.node = s.holdView.node := by
  unfold State.storeRun
  rw [holdView_rewriteRun, node_modTab s _ rfl]

theorem node_storeStage (s : State) (i : Nat) (x : StageEntry) : (s.storeStage i x).holdView.node = s.holdView.node := by
  unfold State.storeStage
  dsimp only
  split
  · rw [holdView_rewriteRun]; exact node_modTab s _ rfl
  · exact node_modTab s _ rfl

theorem node_storeBerth (s : State) (b : Nat) (x : Option BerthEntry) : (s.storeBerth b x).holdView.node = s.holdView.node := by
  unfold State.storeBerth
  dsimp only
  split
  · rw [holdView_putBerth, node_modTab s _ rfl]
  · rw [holdView_rewriteBerth]; exact node_modTab s _ rfl
  · rw [holdView_rewriteBerth]; exact node_modTab s _ rfl

theorem right_store {α : Type} {img : Option (α × Bool)} {c : α → Bool} {put : α → State} (hs : s.nodeHoldsRight)
    (hp : ∀ e, (put e).nodeHoldsRight) : (Machine.store s img c put).1.nodeHoldsRight := by
  unfold Machine.store
  split
  · exact hs
  · split
    · exact hs
    · exact hp _

theorem right_storeEntry (hs : s.nodeHoldsRight) (t : Table) (i : Nat) (img : List Byte) : (s.storeEntry t i img).1.nodeHoldsRight := by
  unfold State.storeEntry
  split
  · exact right_store hs fun e => right_storeZone hs i e
  · exact right_store hs fun e => hs.node (node_modTab s _ rfl)
  · exact right_store hs fun e => right_storeNode hs i e
  · exact right_store hs fun e => hs.node (node_storeAuth s i e)
  · exact right_store hs fun e => hs.node (node_modTab s _ rfl)
  · exact right_store hs fun e => hs.node (node_modTab s _ rfl)
  · exact right_store hs fun e => hs.node (node_modTab s _ rfl)
  · exact right_store hs fun e => hs.node (node_storeRun s i e)
  · exact right_store hs fun e => hs.node (node_storeStage s i e)
  · exact right_store hs fun e => hs.node (node_storeBerth s i e)
  · exact right_store hs fun e => hs.node (node_modTab s _ rfl)
  · exact right_store hs fun e => hs.node (node_modTab s _ rfl)
  all_goals exact hs

theorem right_writeEntry (hs : s.nodeHoldsRight) (img : List Byte) : (s.writeEntry img).1.nodeHoldsRight := by
  unfold State.writeEntry
  split
  · exact hs
  · dsimp only
    split
    · exact (right_storeEntry hs _ _ img).view (holdView_advance _)
    · exact right_storeEntry hs _ _ img

/-! ### Records -/

theorem right_carry (hs : s.nodeHoldsRight) (m : MgmtRecord) : (s.carry m).1.nodeHoldsRight := by
  cases m with
  | selectTable _ => exact hs
  | selectIndex _ => exact hs
  | write img => exact right_writeEntry hs img
  | read => exact hs.view rfl
  | mode v => exact hs.node (node_recordMode s v)
  | placeBoat b c z r => exact hs.node (node_placeBoat s b c z r)
  | retireBoat b => exact hs.node (node_retireBoat s b)
  | setRoute b r => exact hs.view (holdView_setRoute s b r)
  | clearZone z => exact hs.node (node_clearZone s z)
  | injectTrigger c => exact hs.node (node_recordInject s c)
  | clearCounters => exact hs.view rfl
  | noticeMask m => exact hs.view (holdView_recordMask s m)
  | status => exact hs
  | reset _ => exact hs

theorem holdView_openRequest (s : State) : s.openRequest.holdView = s.holdView := by
  unfold State.openRequest
  split
  · rfl
  · split <;> rfl

theorem right_takeRecord (hs : s.nodeHoldsRight) (m : MgmtRecord) : (s.takeRecord m).nodeHoldsRight := by
  have hp : ∀ a b, (s.setPointer a b).holdView = s.holdView := fun a b => by
    unfold State.setPointer
    split
    · rfl
    · split <;> rfl
  unfold State.takeRecord
  split
  · exact hs
  · split
    · exact hs
    · split
      · exact hs.view rfl
      · split
        · exact hs.view rfl
        · split
          · exact hs.view rfl
          · unfold State.takeSelectIndex
            split
            · exact hs.view rfl
            · exact hs.view (hp _ _)
          · unfold State.takeReset
            dsimp only
            split <;> exact hs.view rfl
          · exact (right_carry hs m).view rfl

theorem right_takeNodeRecord (hs : s.nodeHoldsRight) (own : Bool) (src : Nat) (r : NodeRecord) :
    (s.takeNodeRecord own src r).nodeHoldsRight := by
  unfold State.takeNodeRecord
  split
  · exact hs.node (by simp)
  · exact hs.node (by simp)
  · exact hs.node (by simp)
  · exact hs.view (by simp)
  · exact hs.node (by simp)
  · split
    · exact hs.node (by simp)
    · exact hs.node (by simp)
    · exact hs.view (by simp)
  · exact right_takeHeartbeat hs _ _
  · exact right_takeHello hs _ _
  · split
    · exact right_takeLimitAck hs _
    · exact hs
  · split
    · split
      · exact right_ackAccepted hs _ _ _
      · exact right_ackRefused hs _ _ _
      · exact hs.view (by simp)
    · exact hs

end

/-! ### The end of an event -/

theorem occupant_evalUserHolds (s : State) (z : Nat) : s.evalUserHolds.occupant z = s.occupant z := by
  unfold State.occupant
  rw [zst_evalUserHolds]
  split <;> rfl

theorem levels_evalUserHolds (s : State) (g : Gen) : s.evalUserHolds.genLevel g = s.genLevel g := by
  cases g with
  | zoneOccupied z => show (s.evalUserHolds.occupant z).isSome = (s.occupant z).isSome; rw [occupant_evalUserHolds]
  | _ => exact evalUserHolds_keeps (fun u => u.genLevel _) (fun _ _ _ => rfl) s

theorem userLevel_evalUserHolds (s : State) (x : Nat) : s.evalUserHolds.userLevel x = s.userLevel x := by
  have hchan : ∀ c, s.evalUserHolds.chanLevel c = s.chanLevel c := fun c => by
    unfold State.chanLevel
    rw [show s.evalUserHolds.chanE c = s.chanE c from evalUserHolds_keeps (fun u => u.chanE c) (fun _ _ _ => rfl) s]
    cases s.chanE c with
    | none => rfl
    | some g => exact levels_evalUserHolds s g
  unfold State.userLevel
  rw [show s.evalUserHolds.userE x = s.userE x from evalUserHolds_keeps (fun u => u.userE x) (fun _ _ _ => rfl) s]
  cases (s.userE x).chan with
  | zero => rfl
  | succ c => exact hchan c

theorem followHolds_evalUserHolds (s : State) : s.evalUserHolds.followHolds = s.followHolds := by
  unfold State.followHolds
  simp only [userLevel_evalUserHolds]
  rw [show s.evalUserHolds.userE = s.userE from evalUserHolds_keeps (fun u => u.userE) (fun _ _ _ => rfl) s]

/-- Evaluating the USER holds leaves all holds as their rules give them, where the NODE holds are right (R12, R13). -/
theorem holdsSound_evalUserHolds {t : State} (h1 : t.nodeHoldsRight) : t.evalUserHolds.holdsSound := by
  intro z e he
  have he' : t.zoneE z = some e := by
    rw [← evalUserHolds_keeps (fun u => u.zoneE z) (fun _ _ _ => rfl) t]
    exact he
  refine ⟨h1.node (node_evalUserHolds t) z e he, ?_⟩
  rw [followHolds_evalUserHolds, zst_evalUserHolds, he']
  rfl

/-- What follows an event leaves the holds as their rules give them, where the NODE holds are right (R12, R13). -/
theorem holdsSound_settle (s0 : State) {s : State} (hs : s.nodeHoldsRight) : (State.settle s0 s).holdsSound := by
  unfold State.settle
  exact holdsSound_of_view (s := (State.edges s0 s).evalUserHolds) (by simp) (holdsSound_evalUserHolds (hs.node (node_edges s s0)))

end Sys2Proof.Machine
end

section
/-! Auxiliary lines and NODE and USER holds, carried through every step (R12, R13, R154): settles O10. -/

namespace Sys2Proof.Machine

/-! ### The lines between events -/

/-- The lines are driven at the end of an event and of a reset only (R154). -/
theorem still_lines (v : Vector Bool 8) : Still fun s => s.lines = v where
  startUp hs := hs
  placeHeld {s} hs := by
    have : s.placeHeld.lines = s.lines := by unfold State.placeHeld; split; · rfl
                                             · split <;> rfl
    rw [this]; exact hs
  buildNotice {s} hs := by
    have : s.buildNotice.lines = s.lines := by unfold State.buildNotice; split <;> rfl
    rw [this]; exact hs
  startDn hs := hs
  placeLimit _ _ _ hs := hs
  placeCommands _ _ hs := hs
  queueNotice _ _ hs := hs
  dropNotice hs := hs
  handRaw {s} a v _ hs := by
    have : (s.handRaw a v).lines = s.lines := by
      unfold State.handRaw
      split
      · rfl
      · dsimp only
        split <;> rfl
    rw [this]; exact hs
  modEv _ hs := hs
  putZs _ _ _ hs := hs
  modBoat {s} b f _ hs := by
    have hp : ∀ x, (s.putBoat b x).lines = s.lines := fun x => by unfold State.putBoat; split <;> rfl
    unfold State.modBoat
    split
    · exact hs
    · rw [hp]; exact hs
  putRel {s} b x hs := by
    have : (s.putRel b x).lines = s.lines := by unfold State.putRel; split <;> rfl
    rw [this]; exact hs
  filterQueue _ hs := hs
  putBerth _ _ _ hs := hs
  putNode _ _ _ hs := hs

@[simp] theorem lines_pumpUp (s : State) : s.pumpUp.lines = s.lines := (still_lines s.lines).pumpUp rfl
@[simp] theorem lines_pumpDn (s : State) : s.pumpDn.lines = s.lines := (still_lines s.lines).pumpDn rfl
@[simp] theorem lines_notice (s : State) (n : Notice) : (s.notice n).lines = s.lines := (still_lines s.lines).notice n rfl

@[simp] theorem lines_forward (s : State) (p : Port) (f : QFrame) : (s.forward p f).lines = s.lines := by
  unfold State.forward
  split
  · split
    · rw [lines_pumpUp]
    · rfl
  · split
    · rw [lines_pumpDn]
    · rfl

/-! ### What holds between events -/

/-- The property is kept by every event that keeps the NODE holds right, by all that touches neither what holds and lines rest
on nor the lines, and by resets. -/
structure Between (P : State → Prop) : Prop where
  event : ∀ {s : State} f, (∀ {t : State}, t.nodeHoldsRight → (f t).nodeHoldsRight) → P s → P (State.event f s)
  same : ∀ {s u : State}, P s → u.holdView = s.holdView → u.lines = s.lines → P u
  resetRuntime : ∀ {s : State}, P s → P s.resetRuntime
  resetFull : ∀ {s : State}, P s → P s.resetFull
  powerOn : ∀ {s : State} a r e, P s → P (s.powerOn a r e)

namespace Between

variable {P : State → Prop} (h : Between P) {s : State}
include h

theorem thenStop (hs : P s) : P s.thenStop := by
  unfold State.thenStop
  split
  · exact h.event _ (fun ht => ht.node (node_goStop _ _)) hs
  · exact hs

theorem bump (c : Counter) (hs : P s) : P (s.bump c) := h.same hs rfl rfl

theorem forward (p : Port) (f : QFrame) (hs : P s) : P (s.forward p f) := h.same hs (holdView_forward s p f) (lines_forward s p f)

theorem openRequest (hs : P s) : P s.openRequest := by
  refine h.same hs (holdView_openRequest s) ?_
  unfold State.openRequest
  split
  · rfl
  · split <;> rfl

theorem respond (l : List MgmtResult) (hs : P s) : P (s.respond l) := by
  unfold State.respond
  refine h.same hs ?_ ?_
  · rw [holdView_pumpUp]; rfl
  · rw [lines_pumpUp]; rfl

theorem noReq (hs : P s) : P { s with req := none } := h.same hs rfl rfl

theorem resetOf (r : Request) (hs : P s) : P (s.resetOf r) := by
  unfold State.resetOf State.doReset
  split
  · exact hs
  · have h1 : P (s.modEv fun e => { e with holdNotices := true }) := h.same hs rfl rfl
    split
    · exact h.thenStop (h.resetRuntime h1)
    · exact h.thenStop (h.resetFull h1)

theorem closeRequest (hs : P s) : P s.closeRequest := by
  unfold State.closeRequest
  split
  · exact hs
  · split
    · exact h.noReq hs
    · exact h.respond _ (h.noReq (h.resetOf _ hs))

theorem at_ (t : Nat) (hs : P s) : P (s.at_ t) := h.same hs (holdView_at s t) rfl

theorem manage (t : Nat) (last : Bool) (m : MgmtRecord) {u : State} (hu : s.manage t last m = .next u) (hs : P s) : P u := by
  have h1 : P (State.event (fun s => s.openRequest.takeRecord m) (s.at_ t)) :=
    h.event _ (fun ht => right_takeRecord (ht.view (holdView_openRequest _)) m) (h.at_ t hs)
  revert hu h1
  unfold State.manage
  generalize State.event (fun s => s.openRequest.takeRecord m) (s.at_ t) = v
  intro hu h1
  cases last <;> cases hu
  · exact h1
  · exact h.closeRequest h1

theorem takeNodeRecords (own : Bool) (src : Nat) (l : List RawRecord) (hs : P s) : P (s.takeNodeRecords own src l) :=
  foldl_keeps (P := P) (fun _ r ht => h.event _ (fun hv => right_takeNodeRecord hv own src r) ht) _ hs

theorem takeDown (f : List Byte) (hs : P s) : P (s.takeDown f) := by
  unfold State.takeDown
  split
  · dsimp only
    split
    · exact h.bump _ hs
    · exact h.forward _ _ (h.bump _ hs)
  · split
    · split
      · exact h.takeNodeRecords _ _ _ hs
      · exact h.bump _ hs
    · exact h.forward _ _ (h.takeNodeRecords _ _ _ hs)

theorem takeRequest (q : Option (List RawRecord)) (hs : P s) : P (s.takeRequest q) := by
  have h1 := h.openRequest (h.closeRequest hs)
  unfold State.takeRequest
  dsimp only
  split
  · split
    · exact h.closeRequest h1
    · split
      · exact h.respond _ (h.noReq h1)
      · exact h.closeRequest (foldl_keeps (P := P) (fun _ r ht => h.event _ (fun hv => right_takeRecord hv _) ht) _ h1)
  · split
    · exact h.closeRequest h1
    · exact h.respond _ (h.noReq h1)
  · exact h1

theorem takeUp (f : List Byte) (hs : P s) : P (s.takeUp f) := by
  have h1 : P (if (parseFrame f).isNone then s.bump .malformed else s) := by
    split
    · exact h.bump _ hs
    · exact hs
  unfold State.takeUp
  revert h1
  dsimp only
  generalize (if (parseFrame f).isNone then s.bump .malformed else s) = t
  intro h1
  split
  · split
    · exact h.takeRequest _ h1
    · exact h.bump _ h1
  · split
    · exact h.event _ (fun ht => ht.view (holdView_takeCommands _ _ _)) h1
    · split
      · exact h.forward _ _ (h.bump _ h1)
      · exact h.forward _ _ h1

theorem receive (p : Port) (f : List Byte) (b : Bool) (hs : P s) : P (s.receive p f b) := by
  unfold State.receive State.takeFrame
  split
  · exact h.bump _ hs
  · split
    · exact h.bump _ hs
    · have h1 : P (State.event (fun s => s.heard (frameSrc f)) (s.bump (receivedCounter p))) :=
        h.event _ (fun ht => right_heard ht _) (h.bump _ hs)
      dsimp only
      split
      · exact h.takeUp f h1
      · exact h.takeDown f h1

theorem command (t : Nat) (f : State → State) (hf : ∀ {t : State}, t.nodeHoldsRight → (f t).nodeHoldsRight) {u : State}
    (hu : s.command t f = .next u) (hs : P s) : P u := by
  unfold State.command at hu
  injection hu with hu
  subst hu
  exact h.event f hf (h.at_ t hs)

theorem exec (c : Instr) {u : State} (hu : Machine.exec c s = .next u) (hs : P s) : P u := by
  cases c with
  | powerOn t a r e =>
    simp only [Machine.exec, execPowerOn] at hu
    injection hu with hu
    subst hu
    exact h.thenStop (h.powerOn a r e (h.at_ t hs))
  | estopAsserted t => exact h.command t _ (fun hv => hv.node (node_estopOn _)) hu hs
  | estopReleased t => exact h.command t _ (fun hv => hv.node (node_estopOff _)) hu hs
  | frameReceived t p b f =>
    simp only [Machine.exec, execFrameReceived] at hu
    injection hu with hu
    subst hu
    exact h.receive _ _ _ (h.at_ t hs)
  | frameSent t p => exact h.command t _ (fun hv => hv.view (holdView_sent _ p)) hu hs
  | actuatorFramePlace t => exact h.command t _ (fun hv => hv.view (holdView_pumpDn _)) hu hs
  | responsePlace t => exact h.command t _ (fun hv => hv.view (holdView_pumpUp _)) hu hs
  | noticeFrameBuild t => exact h.command t _ (fun hv => hv.view (holdView_pumpUp _)) hu hs
  | supervisorCommandResend t => exact h.command t _ (fun hv => hv.view (holdView_resend _)) hu hs
  | marker t a b c => exact h.command t _ (fun hv => hv.node (node_takeMarker _ a b c)) hu hs
  | trap t a b c => exact h.command t _ (fun hv => hv.node (node_takeTrap _ a b c)) hu hs
  | berth t a b c d => exact h.command t _ (fun hv => hv.node (node_takeBerth _ a b c d)) hu hs
  | weight t a b c d => exact h.command t _ (fun hv => hv.view (holdView_takeWeight _ a b c d)) hu hs
  | tag t a b c => exact h.command t _ (fun hv => hv.node (node_takeTag _ a b c)) hu hs
  | boosterReady t a b => exact h.command t _ (fun hv => hv.node (node_takeReady _ a b)) hu hs
  | boosterDone t a b => exact h.command t _ (fun hv => hv.node (node_takeDone _ a b)) hu hs
  | heartbeat t a b => exact h.command t _ (fun hv => right_takeHeartbeat hv a b) hu hs
  | hello t a b => exact h.command t _ (fun hv => right_takeHello hv a b) hu hs
  | limitAck t a => exact h.command t _ (fun hv => right_takeLimitAck hv a) hu hs
  | ackAccepted t a b c => exact h.command t _ (fun hv => right_ackAccepted hv a b c) hu hs
  | ackRefused t a b c => exact h.command t _ (fun hv => right_ackRefused hv a b c) hu hs
  | ackTimerExpiry t a => exact h.command t _ (fun hv => right_ackExpiry hv a) hu hs
  | joinTimerExpiry t n => exact h.command t _ (fun hv => right_joinExpiry hv n) hu hs
  | nodeSilent t n => exact h.command t _ (fun hv => right_silentExpiry hv n) hu hs
  | nodeLostSilence t n => exact h.command t _ (fun hv => right_lostExpiry hv n) hu hs
  | watchExpiry t z => exact h.command t _ (fun hv => hv.node (node_watchExpiry _ z)) hu hs
  | chargeTimerExpiry t k => exact h.command t _ (fun hv => hv.node (node_chargeExpiry _ k)) hu hs
  | doneTimerExpiry t k => exact h.command t _ (fun hv => hv.node (node_doneExpiry _ k)) hu hs
  | cooldownExpiry t k => exact h.command t _ (fun hv => hv.node (node_cooldownExpiry _ k)) hu hs
  | auxPulseExpiry t x => exact h.command t _ (fun hv => hv.node (node_auxExpiry _ x)) hu hs
  | checkItem t => exact h.command t _ (fun hv => hv.node (node_takeCheckItem _)) hu hs
  | selectTable t l a => exact h.manage t l _ hu hs
  | selectIndex t l a => exact h.manage t l _ hu hs
  | write t l a => exact h.manage t l _ hu hs
  | read t l => exact h.manage t l _ hu hs
  | modeConfig t l => exact h.manage t l _ hu hs
  | modeRun t l => exact h.manage t l _ hu hs
  | modeHold t l => exact h.manage t l _ hu hs
  | modeResume t l => exact h.manage t l _ hu hs
  | modeStop t l => exact h.manage t l _ hu hs
  | placeBoat t l a b c d => exact h.manage t l _ hu hs
  | retireBoat t l a => exact h.manage t l _ hu hs
  | setRoute t l a b => exact h.manage t l _ hu hs
  | clearZone t l a => exact h.manage t l _ hu hs
  | injectTrigger t l a => exact h.manage t l _ hu hs
  | clearCounters t l => exact h.manage t l _ hu hs
  | noticeMask t l a => exact h.manage t l _ hu hs
  | status t l => exact h.manage t l _ hu hs
  | resetRuntime t l => exact h.manage t l _ hu hs
  | resetFull t l => exact h.manage t l _ hu hs

theorem step {u : State} (hu : Machine.step s = .next u) (hs : P s) : P u := by
  unfold Machine.step at hu
  split at hu
  · injection hu with hu
    subst hu
    exact hs
  · exact h.exec _ hu (h.same hs rfl rfl)

end Between

/-! ### Events, resets and power-on -/

theorem linesSound_driveLines (s : State) : s.driveLines.linesSound := fun u hu => by
  rw [auxLine_of_view (holdView_driveLines s)]
  show ((Vector.range 8).map s.auxLine)[u]? = _
  simp [hu]

theorem linesSound_event (f : State → State) (s : State) : (State.event f s).linesSound := by
  unfold State.event State.settle
  exact linesSound_of_view (holdView_clearEv _) rfl (linesSound_driveLines _)

theorem holdsSound_event (f : State → State) {s : State} (hf : (f s).nodeHoldsRight) : (State.event f s).holdsSound :=
  holdsSound_of_view (holdView_clearEv _) (holdsSound_settle s hf)

/-- In the initial tables no trigger user has a channel. -/
theorem userE_of_initial {s : State} (ht : s.tab = Tables.initial) (x : Nat) : s.userE x = .initial x := by
  unfold State.userE
  rw [ht]
  show ((Vector.range 22).map UserEntry.initial)[x]?.getD _ = _
  by_cases hx : x < 22 <;> simp [hx]

theorem linesSound_of_initial {s : State} (ht : s.tab = Tables.initial) (hp : s.pulses = State.reset.pulses)
    (hl : s.lines = State.reset.lines) : s.linesSound := fun u hu => by
  have hA : s.auxLine u = State.reset.auxLine u := by
    unfold State.auxLine State.userLevel
    rw [hp, userE_of_initial ht, userE_of_initial rfl]
    rfl
  rw [hl, hA]
  exact reset_linesSound u hu

theorem between_linesSound : Between State.linesSound where
  event f _ _ := linesSound_event f _
  same hs hv hl := linesSound_of_view hv hl hs
  resetRuntime _ := linesSound_of_view (holdView_clearEv _) rfl (linesSound_driveLines _)
  resetFull _ := linesSound_of_initial rfl rfl rfl
  powerOn _ _ _ _ := linesSound_of_initial rfl rfl rfl

theorem between_holdsSound : Between State.holdsSound where
  event f hf hs := holdsSound_event f (hf (nodeHoldsRight_of_sound hs))
  same hs hv _ := holdsSound_of_view hv hs
  resetRuntime _ := holdsSound_of_view (holdView_clearEv _)
    (holdsSound_of_view (holdView_driveLines _) (holdsSound_evalUserHolds (nodeHoldsRight_evalAll _)))
  resetFull _ := holdsSound_of_initial rfl
  powerOn _ _ _ _ := holdsSound_of_initial rfl

/-- Settles O10: every event ends with its lines driven and its holds evaluated, and nothing between events touches either. -/
theorem stepKeepsLinesAndHoldsSound : Obligations.StepKeepsLinesAndHoldsSound :=
  ⟨fun _ _ hs hu => between_linesSound.step hu hs, fun _ _ hs hu => between_holdsSound.step hu hs⟩

end Sys2Proof.Machine
end

section
/-! What neither a change of mode nor a boat's entry touches: `Mild P` is a property that quiet updates and updates of mode
control, runs, lines and the queue keep. Faults, watches and the lasting parts of boat records are such properties. -/

namespace Sys2Proof.Machine

variable {P : State → Prop}

/-- A change of a boat record that touches nothing but the trip fields (R33). -/
def Boat.Trip (old new : Boat) : Prop :=
  { new with weight := old.weight, lastSpeed := old.lastSpeed, band := old.band, stageCount := old.stageCount } = old

/-- The property is kept by quiet updates and does not look at mode control, brake runs, berths, sequencers, pulses, lines, trip
fields and the queue. -/
structure Mild (P : State → Prop) : Prop extends Quiet P where
  driveLines : ∀ {s}, P s → P s.driveLines
  useFree : ∀ {s}, P s → P s.useFree
  putRun : ∀ {s} r q, P s → P (s.putRun r q)
  setQueue : ∀ {s : State} q n, P s → P { s with queue := q, reqSeq := n }
  looseBerth : ∀ {s} b x, P s → P (s.putBerth b x)
  looseSeq : ∀ {s} k q, q.state = .idle ∨ (s.seqS k).state ≠ .idle → P s → P (s.putSeq k q)
  loosePulse : ∀ {s} u x, P s → P (s.putPulse u x)
  tripBoat : ∀ {s} b f, (∀ x : Boat, x.Trip (f x)) → P s → P (s.modBoat b f)
  modMc : ∀ {s} f, P s → P (s.modMc f)

/-- A trip change leaves the rest of a boat record alone. -/
theorem Boat.Trip.keeps {x y : Boat} (h : x.Trip y) :
    y.cls = x.cls ∧ y.route = x.route ∧ y.zone = x.zone ∧ y.state = x.state ∧ y.overdue = x.overdue ∧ y.path = x.path ∧
      y.entryTime = x.entryTime := by
  unfold Boat.Trip at h
  rw [← h]
  exact ⟨rfl, rfl, rfl, rfl, rfl, rfl, rfl⟩

/-- A soft change leaves the rest of a boat record alone. -/
theorem Boat.Soft.keeps {x y : Boat} (h : x.Soft y) :
    y.cls = x.cls ∧ y.route = x.route ∧ y.zone = x.zone ∧ y.overdue = x.overdue ∧ y.entryTime = x.entryTime := by
  unfold Boat.Soft at h
  rw [← h]
  exact ⟨rfl, rfl, rfl, rfl, rfl⟩

theorem Calm.toMild (h : Calm P) : Mild P where
  toQuiet := h.toQuiet
  driveLines := h.driveLines
  useFree := h.useFree
  putRun := h.putRun
  setQueue := h.setQueue
  looseBerth := h.looseBerth
  looseSeq := h.looseSeq
  loosePulse := h.loosePulse
  tripBoat b f hf hs := h.tripBoat b f (fun x => by
    obtain ⟨hc, hr, hz, _, _, _, he⟩ := (hf x).keeps
    exact ⟨hz, hc, hr, he⟩) hs
  modMc := h.modMc

namespace Mild

variable (h : Mild P) {s : State}
include h

theorem startPulse {s : State} (u : Nat) (hs : P s) : P (s.startPulse u) := h.loosePulse _ _ hs

theorem pulse (g : Gen) (hs : P s) : P (s.pulse g) := h.toQuiet.pulse h.startPulse g hs

theorem settle (s0 : State) (hs : P s) : P (State.settle s0 s) := h.toQuiet.settle h.startPulse h.driveLines s0 hs

/-- An event keeps what its own effect keeps. -/
theorem event {f : State → State} (hf : P (f s)) : P (State.event f s) := h.clearEv (h.settle s hf)

theorem idle {s : State} (k : Nat) (hs : P s) : P (s.putSeq k .idle) := h.looseSeq k _ (.inl rfl) hs

theorem enterHold (old : Mode) (hs : P s) : P (s.enterHold old) := by
  unfold State.enterHold
  split
  · exact h.pulse _ (h.abortCharges hs)
  · exact h.pulse _ hs

theorem changeHold (c : Cause) (hs : P s) : P (s.changeMode .hold c) := by
  unfold State.changeMode State.enterMode
  exact h.enterHold _ (h.notice _ (h.modMc _ hs))

theorem enterStop (hs : P s) : P s.enterStop := by
  unfold State.enterStop
  exact h.handAllRest _ (sharedSafe_resting _) (h.restoreRuns h.putRun (h.closeGates (h.boostersToSafe h.idle h.useFree
    (h.returnAll (h.withdrawAll (h.modMc _ hs))))))

theorem changeStop (c : Cause) (hs : P s) : P (s.changeMode .stop c) := by
  unfold State.changeMode State.enterMode
  exact h.enterStop (h.notice _ (h.modMc _ hs))

theorem goStop (c : Cause) (hs : P s) : P (s.goStop c) := by
  unfold State.goStop State.abortCheck
  split
  · exact hs
  · split
    · exact h.changeStop c hs
    · exact h.changeStop c (h.modMc _ hs)

theorem askStop (b : Block) (hs : P s) : P (s.askStop b) := h.goStop _ hs

theorem askHold (b : Block) (hs : P s) : P (s.askHold b) := by
  unfold State.askHold
  split
  · exact h.changeHold _ hs
  · exact h.modMc _ hs
  · exact hs
  · exact hs
  · exact hs

/-! ### A boat's entry, after its zones and its record -/

theorem firstPassage (b y : Nat) (hs : P s) : P (s.firstPassage b y) := by
  unfold State.firstPassage
  have h1 := h.putRel b none hs
  dsimp only
  split
  · exact h1
  · split
    · exact h.launchDeparted _ _ h1
    · split
      · exact h1
      · exact h.handRest _ _ rfl h1

theorem clearTrip (b z : Nat) (hs : P s) : P (s.clearTrip b z) := by
  unfold State.clearTrip
  split
  · exact h.tripBoat b _ (fun _ => rfl) hs
  · exact hs

theorem setBerth (b : Nat) (f : BerthStatus → BerthStatus) (hs : P s) : P (s.setBerth b f) := h.touch b (h.looseBerth b _ hs)

theorem berthDerive (b : Nat) (hs : P s) : P (s.berthDerive b) := by
  unfold State.berthDerive
  split
  · exact hs
  · exact h.setBerth b _ hs

theorem berthArrive (b : Nat) (hs : P s) : P (s.berthArrive b) := by
  unfold State.berthArrive
  split
  · exact hs
  · dsimp only
    split
    · exact h.trySecure b (h.setBerth b _ hs)
    · exact h.touch b hs

theorem berthCleared (b : Nat) (hs : P s) : P (s.berthCleared b) := by
  unfold State.berthCleared
  split
  · exact h.berthDerive b hs
  · exact h.touch b hs

theorem cooldownEnd (k : Nat) (hs : P s) : P (s.cooldownEnd k) := h.scanWanted (h.idle k hs)

theorem launchArrived (k b : Nat) (hs : P s) : P (s.launchArrived k b) := by
  unfold State.launchArrived
  split
  · exact hs
  · split
    · next hc =>
      unfold State.launchNone State.cooldownStart
      have h1 : P ((s.notice (.launchResult k ((s.seqS k).boat.getD 0) ((s.seqS k).band.getD 0)
          (s.bandTarget k ((s.seqS k).band.getD 0)) none .none)).modSeq k fun q =>
          { q with state := .cooldown, held := none, cooldown := some (s.notice (.launchResult k ((s.seqS k).boat.getD 0)
            ((s.seqS k).band.getD 0) (s.bandTarget k ((s.seqS k).band.getD 0)) none .none)).now }) := by
        refine h.looseSeq k _ (.inr ?_) (h.notice _ hs)
        simp only [State.seqS, seqs_notice]
        exact fun hi => by rw [State.seqS] at hc; rw [hi] at hc; exact absurd hc.1 (by decide)
      dsimp only
      split
      · exact h.cooldownEnd k h1
      · exact h1
    · exact hs

theorem handEntry (b y z : Nat) (granted arrived skip : Bool) (hs : P s) : P (s.handEntry b y z granted arrived skip) := by
  have h1 : P ((if granted then s.firstPassage b y else s).clearTrip b z) := by
    refine h.clearTrip b z ?_
    split
    · exact h.firstPassage b y hs
    · exact hs
  have ite_keeps : ∀ {c : Prop} [Decidable c] {a b : State}, P a → P b → P (if c then a else b) := by
    intro c _ a b ha hb
    split
    · exact ha
    · exact hb
  unfold State.handEntry
  have h2 := ite_keeps (c := skip = true) (h.askHold .passage h1) h1
  have h3 := h.pulse (.passage z) (h.runLeft h.putRun y (Base.toBerth z (fun b => h.berthArrive b) (Base.toBerth y (fun b => h.berthLeft b) h2)))
  exact ite_keeps (h.autoRequest h.setQueue b (h.launchArrived 1 b (h.launchArrived 0 b h3))) h3

end Mild

/-! ### Faults, watches and boat records -/

/-- The status of one zone, as far as soft changes keep it. -/
theorem mild_of_zone {z : Nat} {R : ZoneStatus → Prop} (hR : ∀ q q' : ZoneStatus, q.Soft q' → R q → R q') :
    Mild fun t => R (t.zst z) := by
  have same : ∀ {s t : State}, t.zs = s.zs → R (s.zst z) → R (t.zst z) := fun h hs => by unfold State.zst at *; rw [h]; exact hs
  exact {
    startUp := fun hs => hs
    placeHeld := fun {s} hs => same (placeHeld_boats_zs s).2 hs
    buildNotice := fun {s} hs => same (buildNotice_boats_zs s).2 hs
    startDn := fun hs => hs
    placeLimit := fun _ _ _ hs => hs
    placeCommands := fun _ _ hs => hs
    queueNotice := fun _ _ hs => hs
    dropNotice := fun hs => hs
    handRaw := fun {s} a v _ hs => same (handRaw_boats_zs s a v).2 hs
    handAny := fun {s} a v _ hs => same (handRaw_boats_zs s a v).2 hs
    modEv := fun _ hs => hs
    putZs := fun {s} w q hq hs => by
      show R ((s.putZs w q).zst z)
      rw [zst_putZs]
      split
      · next hz => exact hR _ _ (hz.1 ▸ hq) hs
      · exact hs
    putBerth := fun _ _ _ hs => hs
    putNode := fun _ _ _ hs => hs
    modBoat := fun _ _ _ hs => same (by simp) hs
    putRel := fun _ _ hs => same (by simp) hs
    filterQueue := fun _ hs => hs
    putSeq := fun _ _ _ _ hs => hs
    driveLines := fun hs => hs
    useFree := fun hs => hs
    putRun := fun _ _ hs => hs
    setQueue := fun _ _ hs => hs
    looseBerth := fun _ _ hs => hs
    looseSeq := fun _ _ _ hs => hs
    loosePulse := fun _ _ hs => hs
    tripBoat := fun _ _ _ hs => same (by simp) hs
    modMc := fun _ hs => hs }

/-- What the boat register holds, as far as soft changes and the trip fields leave it alone. -/
theorem mild_of_boats (same : ∀ {s t : State}, P s → t.boats = s.boats → P t)
    (hS : ∀ {s : State} c f, (∀ x : Boat, x.Soft (f x)) → P s → P (s.modBoat c f))
    (hT : ∀ {s : State} c f, (∀ x : Boat, x.Trip (f x)) → P s → P (s.modBoat c f)) : Mild P where
  startUp hs := same hs rfl
  placeHeld {s} hs := same hs (placeHeld_boats_zs s).1
  buildNotice {s} hs := same hs (buildNotice_boats_zs s).1
  startDn hs := same hs rfl
  placeLimit _ _ _ hs := same hs rfl
  placeCommands _ _ hs := same hs rfl
  queueNotice _ _ hs := same hs rfl
  dropNotice hs := same hs rfl
  handRaw {s} a v _ hs := same hs (handRaw_boats_zs s a v).1
  handAny {s} a v _ hs := same hs (handRaw_boats_zs s a v).1
  modEv _ hs := same hs rfl
  putZs _ _ _ hs := same hs rfl
  putBerth _ _ _ hs := same hs rfl
  putNode _ _ _ hs := same hs rfl
  modBoat c f hf hs := hS c f hf hs
  putRel _ _ hs := same hs (by simp)
  filterQueue _ hs := same hs rfl
  putSeq _ _ _ _ hs := same hs rfl
  driveLines hs := same hs rfl
  useFree hs := same hs rfl
  putRun _ _ hs := same hs rfl
  setQueue _ _ hs := same hs rfl
  looseBerth _ _ hs := same hs rfl
  looseSeq _ _ _ hs := same hs rfl
  loosePulse _ _ hs := same hs rfl
  tripBoat c f hf hs := hT c f hf hs
  modMc _ hs := same hs rfl

/-- What one boat's record holds, as far as soft changes and the trip fields leave it alone. -/
theorem mild_of_boat {b : Nat} {B : Boat → Prop} (hS : ∀ x y : Boat, x.Soft y → B x → B y) (hT : ∀ x y : Boat, x.Trip y → B x → B y) :
    Mild fun t => ∃ y, t.boatR b = some y ∧ B y := by
  have changed : ∀ {s : State} c f, (∀ x : Boat, B x → B (f x)) → (∃ y, s.boatR b = some y ∧ B y) →
      ∃ y, (s.modBoat c f).boatR b = some y ∧ B y := by
    rintro s c f hf ⟨y, hy, hB⟩
    rw [boatR_modBoat]
    split
    · next hc => exact ⟨f y, by rw [← hc, hy]; rfl, hf y hB⟩
    · exact ⟨y, hy, hB⟩
  exact mild_of_boats (fun hs h => by unfold State.boatR at *; rw [h]; exact hs)
    (fun c f hf hs => changed c f (fun x => hS x _ (hf x)) hs) (fun c f hf hs => changed c f (fun x => hT x _ (hf x)) hs)

/-- Something that soft changes and trip fields leave alone, of every boat in the register. -/
theorem mild_register {α : Type} {g : Boat → α} (hS : ∀ x y : Boat, x.Soft y → g y = g x) (hT : ∀ x y : Boat, x.Trip y → g y = g x)
    (v : Nat → Option α) : Mild fun t => ∀ n, (t.boatR n).map g = v n := by
  have changed : ∀ {s : State} c f, (∀ x : Boat, g (f x) = g x) → (∀ n, (s.boatR n).map g = v n) →
      ∀ n, ((s.modBoat c f).boatR n).map g = v n := by
    intro s c f hf hs n
    rw [boatR_modBoat]
    split
    · next hc =>
      rw [hc, ← hs c, Option.map_map]
      congr 1
      exact funext hf
    · exact hs n
  exact mild_of_boats (fun hs h => by unfold State.boatR at *; rw [h]; exact hs)
    (fun c f hf hs => changed c f (fun x => hS x _ (hf x)) hs) (fun c f hf hs => changed c f (fun x => hT x _ (hf x)) hs)

theorem mild_fault (z : Nat) (f : Option ZFault) : Mild fun t => (t.zst z).fault = f :=
  mild_of_zone (R := fun q => q.fault = f) fun _ _ hq h => hq.1.trans h

/-- A zone with a fault is not reserved again. -/
theorem mild_faulted (z : Nat) (f : ZFault) : Mild fun t => (t.zst z).fault = some f ∧ (t.zst z).reserved = none :=
  mild_of_zone (R := fun q => q.fault = some f ∧ q.reserved = none) fun q q' hq h => by
    obtain ⟨hf, _, _, hres⟩ := hq
    refine ⟨hf.trans h.1, ?_⟩
    rcases hres with hr | hr | ⟨_, hn⟩
    · exact hr.trans h.2
    · exact hr
    · rw [hf, h.1] at hn; cases hn

theorem mild_unwatched (z : Nat) : Mild fun t => (t.zst z).watch = none :=
  mild_of_zone (R := fun q => q.watch = none) fun _ _ hq h => hq.2.1.elim (fun hw => hw.trans h) id

/-- Where a boat stands, since when, and whether it is overdue. -/
theorem mild_boatAt (b z e : Nat) (o : Bool) : Mild fun t => ∃ y, t.boatR b = some y ∧ y.zone = z ∧ y.entryTime = e ∧ y.overdue = o :=
  mild_of_boat
    (fun x y hxy h => by obtain ⟨_, _, hz, ho, he⟩ := hxy.keeps; exact ⟨hz.trans h.1, he.trans h.2.1, ho.trans h.2.2⟩)
    (fun x y hxy h => by obtain ⟨_, _, hz, _, ho, _, he⟩ := hxy.keeps; exact ⟨hz.trans h.1, he.trans h.2.1, ho.trans h.2.2⟩)

theorem mild_overdue (b : Nat) (o : Bool) : Mild fun t => ∃ y, t.boatR b = some y ∧ y.overdue = o :=
  mild_of_boat (fun _ _ hxy h => hxy.keeps.2.2.2.1.trans h) (fun _ _ hxy h => hxy.keeps.2.2.2.2.1.trans h)

/-- Every update of which commands other than entries are made keeps every occupant. -/
theorem calm_occupants (v : Nat → Option Nat) : Calm fun t => ∀ w, t.occupant w = v w := by
  have same : ∀ {s t : State}, t.zs = s.zs → (∀ w, s.occupant w = v w) → ∀ w, t.occupant w = v w :=
    fun h hs w => by unfold State.occupant State.zst at *; rw [h]; exact hs w
  have put : ∀ {s : State} z (q : ZoneStatus), (s.zst z).Loose q → (∀ w, s.occupant w = v w) → ∀ w, (s.putZs z q).occupant w = v w :=
    fun {s} z q hq hs w => by
      unfold State.occupant at *
      rw [zst_putZs]
      split
      · next hw => rw [hq.1, ← hw.1]; exact hs w
      · exact hs w
  exact {
    startUp := fun hs => hs
    placeHeld := fun {s} hs => same (placeHeld_boats_zs s).2 hs
    buildNotice := fun {s} hs => same (buildNotice_boats_zs s).2 hs
    startDn := fun hs => hs
    placeLimit := fun _ _ _ hs => hs
    placeCommands := fun _ _ hs => hs
    queueNotice := fun _ _ hs => hs
    dropNotice := fun hs => hs
    handRaw := fun {s} a v _ hs => same (handRaw_boats_zs s a v).2 hs
    handAny := fun {s} a v _ hs => same (handRaw_boats_zs s a v).2 hs
    modEv := fun _ hs => hs
    putZs := fun z q hq hs => put z q hq.2.2 hs
    putBerth := fun _ _ _ hs => hs
    putNode := fun _ _ _ hs => hs
    modBoat := fun _ _ _ hs => same (by simp) hs
    putRel := fun _ _ hs => same (by simp) hs
    filterQueue := fun _ hs => hs
    putSeq := fun _ _ _ _ hs => hs
    driveLines := fun hs => hs
    bump := fun _ hs => hs
    useFree := fun hs => hs
    putRun := fun _ _ hs => hs
    setQueue := fun _ _ hs => hs
    looseZs := fun z q hq hs => put z q hq hs
    looseBerth := fun _ _ hs => hs
    looseSeq := fun _ _ _ hs => hs
    loosePulse := fun _ _ hs => hs
    tripBoat := fun _ _ _ hs => same (by simp) hs
    modMc := fun _ hs => hs }

end Sys2Proof.Machine
end

section
/-! Passages that no path or more than a step of a path explains, and the zone watch (R28 to R31, R34 to R36): settles O31, O30
and O46. -/

namespace Sys2Proof.Machine

/-! ### Mode control through events and requests -/

/-- An event is what its effect makes of the state before it. -/
theorem event_congr {s : State} {f g : State → State} (h : f s = g s) : State.event f s = State.event g s := by
  unfold State.event
  rw [h]

@[simp] theorem mc_event (f : State → State) (s : State) : (State.event f s).mc = (f s).mc := by
  have h1 : (State.settle s (f s)).mc = (f s).mc := (quiet_mc (f s).mc).settle (fun _ hs => hs) (fun hs => hs) s rfl
  have h2 : (State.settle s (f s)).clearEv.mc = (f s).mc := (quiet_mc (f s).mc).clearEv h1
  unfold State.event
  exact h2

@[simp] theorem mc_pulse (s : State) (g : Gen) : (s.pulse g).mc = s.mc := (quiet_mc s.mc).pulse (fun _ hs => hs) g rfl

theorem mc_changeHold (s : State) (c : Cause) : (s.changeMode .hold c).mc = { s.mc with mode := .hold, stopOut := false } := by
  unfold State.changeMode State.enterMode State.enterHold
  rw [mc_pulse]
  split
  · rw [(quiet_mc _).abortCharges rfl, notice_mc]; rfl
  · rw [notice_mc]; rfl

/-- What entry to STOP makes of mode control's record (R56). -/
theorem mc_enterStop (s : State) : s.enterStop.mc = { s.mc with holdPending := false } := by
  have hq : ∀ {t : State} (m : ModeCtl), t.mc = m → t.withdrawAll.returnAll.boostersToSafe.closeGates.restoreRuns.mc = m :=
    fun m hm => (quiet_mc m).restoreRuns (fun _ _ hs => hs) ((quiet_mc m).closeGates ((quiet_mc m).boostersToSafe (fun _ hs => hs)
      (fun hs => hs) ((quiet_mc m).returnAll ((quiet_mc m).withdrawAll hm))))
  unfold State.enterStop
  exact (quiet_mc _).handAllRest _ (sharedSafe_resting _) (hq _ rfl)

theorem mc_changeStop (s : State) (c : Cause) :
    (s.changeMode .stop c).mc = { s.mc with mode := .stop, stopOut := true, holdPending := false } := by
  unfold State.changeMode State.enterMode
  rw [mc_enterStop, notice_mc]
  rfl

theorem mode_changeStop (s : State) (c : Cause) : (s.changeMode .stop c).mode = .stop := by
  unfold State.mode
  rw [mc_changeStop]

theorem mode_goStop (s : State) (c : Cause) : (s.goStop c).mode = .stop := by
  unfold State.goStop
  split
  · assumption
  · exact mode_changeStop _ c

/-- What a request for HOLD makes of mode control's record (R139). -/
theorem mc_askHold (s : State) (b : Block) : (s.askHold b).mc =
    if s.mode = .run then { s.mc with mode := .hold, stopOut := false }
    else if s.mode = .checking then { s.mc with holdPending := true } else s.mc := by
  unfold State.askHold
  split
  · next hm => rw [if_pos hm]; exact mc_changeHold s _
  all_goals
    next hm => simp only [hm]; rfl

theorem mode_askHold_ne_run (s : State) (b : Block) : (s.askHold b).mode ≠ .run := by
  unfold State.mode
  rw [mc_askHold]
  split
  · simp
  · next h => split <;> exact h

/-- A request for HOLD is taken, whatever else leaves mode control alone (R139). -/
theorem holdTaken_of_askHold {s t u : State} {b : Block} (ht : t.mc = s.mc) (hu : u.mc = (t.askHold b).mc) : s.holdTaken u := by
  rw [mc_askHold] at hu
  unfold State.holdTaken State.mode at *
  rw [ht] at hu
  rw [hu]
  cases hm : s.mc.mode <;> simp [hm]

/-! ### Markers -/

/-- The zone of a marker is defined. -/
theorem zoneOfMarker_defined {s : State} {n sensor z : Nat} (h : s.zoneOfMarker n sensor = some z) : (s.zoneE z).isSome = true := by
  unfold State.zoneOfMarker at h
  obtain ⟨p, hp, rfl⟩ := Option.map_eq_some_iff.mp h
  rw [mem_definedZones.mp (List.mem_of_find?_eq_some hp)]
  rfl

/-- A BLOCKED record of a zone's marker is a passage at that zone (R25). -/
theorem takeMarker_blocked {s : State} {src sensor n z : Nat} (hs : sensor ≤ 7) (hn : s.nodeOfAddress src = some n)
    (hz : s.zoneOfMarker n sensor = some z) : s.takeMarker src sensor 0 = s.passage z := by
  unfold State.takeMarker
  rw [if_neg (by omega), if_neg (by omega), if_neg (by omega), hn, Option.bind_some, hz]

/-- A MARKER record of a zone's marker is one event, the passage. -/
theorem exec_marker {s : State} {src sensor n z : Nat} (t : Nat) (hs : sensor ≤ 7) (hn : s.nodeOfAddress src = some n)
    (hz : s.zoneOfMarker n sensor = some z) : exec (.marker t src sensor 0) s = .next (State.event (·.passage z) (s.at_ t)) := by
  have h : (s.at_ t).takeMarker src sensor 0 = (s.at_ t).passage z := takeMarker_blocked hs hn hz
  simp only [exec, execMarker, State.command]
  rw [event_congr (f := fun s => s.takeMarker src sensor 0) (g := (·.passage z)) h]

/-- A passage ends in what the end of an event makes of its effect. -/
theorem completes_marker {s v : State} {src sensor n z t : Nat} {Q : State → Prop} (hs : sensor ≤ 7) (hn : s.nodeOfAddress src = some n)
    (hz : s.zoneOfMarker n sensor = some z) (hv : (s.at_ t).passage z = v) (hQ : Q (State.event (fun _ => v) (s.at_ t))) :
    Completes (.marker t src sensor 0) s Q :=
  ⟨_, exec_marker t hs hn hz, by rw [event_congr (f := (·.passage z)) (g := fun _ => v) hv]; exact hQ⟩

/-- An occupied zone that no boat has reserved: a repeat, or a second boat (R29, R30). -/
theorem passage_occupied {s : State} {z b : Nat} {x : Boat} (hr : (s.zst z).reserved = none) (ho : s.occupant z = some b)
    (hx : s.boatR b = some x) : s.passage z =
      if s.now - x.entryTime < Config.repeatWindow then s.bump .markerRepeat else s.doublePassage z b := by
  unfold State.passage
  rw [hr, ho]
  dsimp only
  rw [hx]

/-- A zone with neither reservation nor occupant expects no boat (R31). -/
theorem passage_empty {s : State} {z : Nat} (hr : (s.zst z).reserved = none) (ho : s.occupant z = none) :
    s.passage z = s.unexpectedPassage z := by
  unfold State.passage
  rw [hr, ho]

/-- A passage on the path of the boat that holds the reservation is its entry (R27, R28). -/
theorem passage_reserved {s : State} {z b : Nat} {x : Boat} (hr : (s.zst z).reserved = some b) (hx : s.boatR b = some x)
    (hz : z ∈ x.path) : s.passage z = s.enter b z x := by
  unfold State.passage
  rw [hr]
  dsimp only
  rw [hx]
  dsimp only
  rw [if_pos (List.contains_iff_mem.mpr hz)]

theorem fault_raiseFault (s : State) {z : Nat} (f : ZFault) (hz : (s.zoneE z).isSome = true) :
    ((s.raiseFault z f).zst z).fault = some (mergeFault (s.zst z).fault f) := by
  rw [zst_raiseFault f hz, if_pos rfl]

theorem steady_at (s : State) (t : Nat) : Steady s (s.at_ t) := (Steady.refl s).congr rfl rfl rfl

/-! ### Passages that nothing explains -/

theorem occupant_raiseFault (s : State) (z : Nat) (f : ZFault) (w : Nat) : (s.raiseFault z f).occupant w = s.occupant w :=
  (calm_occupants s.occupant).toModal.raiseFault z f (fun _ => rfl) w

theorem Mild.doublePassage {P : State → Prop} (h : Mild P) {t : State} {z b : Nat}
    (hs : P ((t.raiseFault z .double).notice (.double z (some b)))) : P (t.doublePassage z b) := h.pulse _ (h.askStop _ hs)

theorem Mild.unexpectedPassage {P : State → Prop} (h : Mild P) {t : State} {z : Nat}
    (hs : P ((t.raiseFault z .unexpected).notice (.unexpectedPassage z))) : P (t.unexpectedPassage z) := h.pulse _ (h.askHold _ hs)

/-- A second boat: DOUBLE stands at the zone, the mode is STOP, the notice is sent, and no boat moves (R30). -/
theorem doublePassage_effect {s t : State} {z b : Nat} (hst : Steady s t) (hz : (t.zoneE z).isSome = true) :
    ((t.doublePassage z b).zst z).fault = some .double ∧ (t.doublePassage z b).mode = .stop ∧
      (s.mask.getLsbD (Notice.double z (some b)).kind = true → Sent s (.double z (some b)) (t.doublePassage z b)) ∧
      ∀ w, (t.doublePassage z b).occupant w = t.occupant w := by
  refine ⟨(mild_fault z _).doublePassage ((mild_fault z _).notice _ ?_), ?_, fun hm => ?_, ?_⟩
  · rw [fault_raiseFault t .double hz]
    cases (t.zst z).fault with
    | none => rfl
    | some f => rw [(mergeFault_double f).2]
  · unfold State.doublePassage State.mode
    rw [mc_pulse]
    exact mode_goStop _ _
  · exact (sent_calm s _).toMild.doublePassage (sent_notice ((steady_calm s).toModal.raiseFault z _ hst) hm)
  · exact (calm_occupants t.occupant).toMild.doublePassage ((calm_occupants t.occupant).notice _ (occupant_raiseFault t z _))

/-- A passage with no boat expected: UNEXPECTED is raised, HOLD asked for, the notice sent, and no boat moves (R31). -/
theorem unexpectedPassage_effect {s t : State} {z : Nat} (hst : Steady s t) (hz : (t.zoneE z).isSome = true) :
    ((t.unexpectedPassage z).zst z).fault = some (mergeFault (t.zst z).fault .unexpected) ∧
      (∃ v : State, v.mc = t.mc ∧ (t.unexpectedPassage z).mc = (v.askHold .passage).mc) ∧
      (s.mask.getLsbD (Notice.unexpectedPassage z).kind = true → Sent s (.unexpectedPassage z) (t.unexpectedPassage z)) ∧
      ∀ w, (t.unexpectedPassage z).occupant w = t.occupant w := by
  refine ⟨(mild_fault z _).unexpectedPassage ((mild_fault z _).notice _ (fault_raiseFault t _ hz)), 
    ⟨(t.raiseFault z .unexpected).notice (.unexpectedPassage z), ?_, ?_⟩, fun hm => ?_, ?_⟩
  · rw [notice_mc]
    unfold State.raiseFault
    split <;> rfl
  · unfold State.unexpectedPassage
    rw [mc_pulse]
  · exact (sent_calm s _).toMild.unexpectedPassage (sent_notice ((steady_calm s).toModal.raiseFault z _ hst) hm)
  · exact (calm_occupants t.occupant).toMild.unexpectedPassage ((calm_occupants t.occupant).notice _ (occupant_raiseFault t z _))

/-- Settles O31: the branch of the passage is chosen, and what it brings is kept to the end of the event. -/
theorem unmatchedPassagesRaiseFaults : Obligations.UnmatchedPassagesRaiseFaults := by
  refine ⟨fun t src sensor n z b x s hsen hn hz hr ho hx ht => ?_, fun t src sensor n z b x s hsen hn hz hr ho hx ht => ?_,
    fun t src sensor n z s hsen hn hz hr ho => ?_⟩
  · rw [exec_marker t hsen hn hz]
    refine congrArg _ (event_congr ?_)
    rw [passage_occupied (s := s.at_ t) hr ho hx]
    exact if_pos (show max s.now t - x.entryTime < 500 by omega)
  · have hp : (s.at_ t).passage z = (s.at_ t).doublePassage z b := by
      rw [passage_occupied (s := s.at_ t) hr ho hx]
      exact if_neg (show ¬ max s.now t - x.entryTime < 500 by omega)
    obtain ⟨hf, hm, hn', ho'⟩ := doublePassage_effect (b := b) (steady_at s t) (zoneOfMarker_defined hz)
    refine completes_marker hsen hn hz hp ⟨(mild_fault z _).event hf, ?_, noticed_of_sent fun hmask => ?_, ?_⟩
    · unfold State.mode
      rw [mc_event]
      exact hm
    · exact (sent_calm s _).toMild.event (hn' hmask)
    · exact (calm_occupants s.occupant).toMild.event ho'
  · have hp : (s.at_ t).passage z = (s.at_ t).unexpectedPassage z := passage_empty (s := s.at_ t) hr ho
    obtain ⟨hf, ⟨v, hv, hm⟩, hn', ho'⟩ := unexpectedPassage_effect (steady_at s t) (zoneOfMarker_defined hz)
    refine completes_marker hsen hn hz hp ⟨(mild_fault z _).event hf, ?_, noticed_of_sent fun hmask => ?_, ?_⟩
    · exact holdTaken_of_askHold hv (by rw [mc_event, hm])
    · exact (sent_calm s _).toMild.event (hn' hmask)
    · exact (calm_occupants s.occupant).toMild.event ho'

end Sys2Proof.Machine
end

section
/-! The entry of a boat into a zone of its path, and what follows from it to the end of the event (R27, R28, R32, R35): settles
O30. -/

namespace Sys2Proof.Machine

/-! ### The zones and the record of an entry -/

theorem zst_startWatch (s : State) (z w : Nat) : (s.startWatch z).zst w =
    if w = z ∧ z < 64 ∧ s.mode.watchesStart = true then { s.zst z with watch := some s.now } else s.zst w := by
  unfold State.startWatch
  split
  · next h => rw [zst_modZs]; simp [h]
  · next h => simp [h]

@[simp] theorem boats_startWatch (s : State) (z : Nat) : (s.startWatch z).boats = s.boats := by
  unfold State.startWatch
  split <;> rfl

@[simp] theorem zst_modBoat (s : State) (b : Nat) (f : Boat → Boat) (z : Nat) : (s.modBoat b f).zst z = s.zst z := by
  unfold State.zst
  rw [modBoat_zs]

/-- Boat `b` of record `x` in zone `z`, before the watch of `z` starts. -/
def State.moved (s : State) (b z : Nat) (x : Boat) (rest : List Nat) : State :=
  ((s.modZs x.zone fun q => { q with occupant := none, watch := none }).modZs z fun q =>
    { q with reserved := none, occupant := some b }).modBoat b fun y =>
      { y with path := rest, zone := z, entryTime := s.now, state := if rest = [] then .waiting else .moving }

section
variable (s : State) (b z : Nat) (x : Boat) (rest : List Nat)

theorem moved_tab : (s.moved b z x rest).tab = s.tab := by unfold State.moved; rw [modBoat_tab]; rfl
theorem moved_mc : (s.moved b z x rest).mc = s.mc := by unfold State.moved; rw [modBoat_mc]; rfl
theorem moved_now : (s.moved b z x rest).now = s.now := by unfold State.moved; rw [modBoat_now]; rfl

theorem moveBoat_eq : s.moveBoat b z x rest =
    if s.stoppable z = true then s.moved b z x rest else (s.moved b z x rest).startWatch z := by
  have h : (s.moved b z x rest).stoppable z = s.stoppable z := by unfold State.stoppable State.zoneE; rw [moved_tab]
  rw [← h]
  rfl

theorem moveBoat_mc : (s.moveBoat b z x rest).mc = s.mc := by
  rw [moveBoat_eq]
  split
  · exact moved_mc s b z x rest
  · rw [mc_of_view (holdView_startWatch _ z), moved_mc]

/-- The record of a boat that has entered a zone (R27). -/
theorem boatR_moveBoat : (s.moveBoat b z x rest).boatR b =
    (s.boatR b).map fun y => { y with path := rest, zone := z, entryTime := s.now, state := if rest = [] then .waiting else .moving } := by
  have h : (s.moveBoat b z x rest).boatR b = (s.moved b z x rest).boatR b := by
    rw [moveBoat_eq]
    split
    · rfl
    · unfold State.boatR; rw [boats_startWatch]
  rw [h]
  unfold State.moved
  rw [boatR_modBoat, if_pos rfl]
  rfl

end

theorem zst_moved (s : State) {b z : Nat} {x : Boat} (rest : List Nat) (hne : x.zone ≠ z) (hz : z < 64) (w : Nat) :
    (s.moved b z x rest).zst w =
      if w = z then { s.zst z with reserved := none, occupant := some b }
      else if w = x.zone then { s.zst w with occupant := none, watch := none } else s.zst w := by
  unfold State.moved
  rw [zst_modBoat, zst_modZs, zst_modZs, zst_modZs]
  by_cases hw : w = z
  · simp [hw, hz, Ne.symm hne]
  · by_cases hx : w = x.zone
    · subst hx
      by_cases h64 : x.zone < 64
      · simp [hne, h64]
      · simp only [hne, h64, false_and, and_false, if_false, if_true]
        rw [zst_outside s h64]
        rfl
    · simp [hw, hx]

/-- What an entry from another zone makes of the zones (R27, R34, R35). -/
theorem zst_moveBoat (s : State) {b z : Nat} {x : Boat} (rest : List Nat) (hne : x.zone ≠ z) (hz : z < 64) (w : Nat) :
    (s.moveBoat b z x rest).zst w =
      if w = z then { s.zst z with
        reserved := none, occupant := some b,
        watch := if s.stoppable z = false ∧ s.mode.watchesStart = true then some s.now else (s.zst z).watch }
      else if w = x.zone then { s.zst w with occupant := none, watch := none } else s.zst w := by
  rw [moveBoat_eq]
  split
  · next hs => simp [zst_moved s rest hne hz w, hs]
  · next hs =>
    have hm : (s.moved b z x rest).mode = s.mode := congrArg ModeCtl.mode (moved_mc s b z x rest)
    rw [zst_startWatch, hm, moved_now]
    simp only [zst_moved s rest hne hz]
    by_cases hw : w = z
    · by_cases hm : s.mode.watchesStart = true <;> simp [hw, hz, hs, hm]
    · simp [hw]

/-! ### Notices through an entry -/

theorem sent_moveBoat {s u : State} {n : Notice} (h : Sent s n u) (b z : Nat) (x : Boat) (rest : List Nat) :
    Sent s n (u.moveBoat b z x rest) := by
  have h1 : Sent s n (u.moved b z x rest) := by
    unfold State.moved
    obtain ⟨ha, hm, hc, hu, hn⟩ := modBoat_line ((u.modZs x.zone fun q => { q with occupant := none, watch := none }).modZs z
      fun q => { q with reserved := none, occupant := some b }) b
      fun y => { y with path := rest, zone := z, entryTime := u.now, state := if rest = [] then .waiting else .moving }
    exact h.congr ha hm hc hu hn
  rw [moveBoat_eq]
  split
  · exact h1
  · exact (sent_calm s n).toModal.startWatch z h1

/-! ### Zones that were passed over -/

@[simp] theorem zs_pumpUp (s : State) : s.pumpUp.zs = s.zs := by
  simp [State.pumpUp, State.fillUp, State.startUp, (buildNotice_boats_zs _).2, (placeHeld_boats_zs _).2]

@[simp] theorem zst_notice (s : State) (n : Notice) (z : Nat) : (s.notice n).zst z = s.zst z := by
  unfold State.notice State.zst
  split
  · rfl
  · split
    · rw [zs_pumpUp]
    · rfl

theorem zst_skipZone_other (s : State) (b : Nat) {v w : Nat} (h : w ≠ v) : (s.skipZone b v).zst w = s.zst w := by
  have hu : (s.unreserve v).zst w = s.zst w := by unfold State.unreserve; rw [zst_modZs]; simp [h]
  unfold State.skipZone State.raiseFault
  rw [zst_notice]
  split
  · exact hu
  · rw [zst_modZs, if_neg fun hc => h hc.1]
    exact hu

/-- A defined zone that was passed over has MISSED and no reservation (R28). -/
theorem zst_skipZone_self (s : State) (b : Nat) {v : Nat} (h : (s.zoneE v).isSome = true) :
    (s.skipZone b v).zst v = { s.zst v with reserved := none, fault := some (mergeFault (s.zst v).fault .missed) } := by
  unfold State.skipZone
  rw [zst_notice, zst_raiseFault .missed (s := s.unreserve v) h, if_pos rfl]
  unfold State.unreserve
  simp [zst_modZs, zoneE_range h]

theorem mergeFault_missed_twice (f : Option ZFault) : mergeFault (some (mergeFault f .missed)) .missed = mergeFault f .missed := by
  cases f with
  | none => rfl
  | some f => cases f <;> rfl

theorem zst_skipZones_other (b : Nat) {w : Nat} (l : List Nat) (hw : w ∉ l) (s : State) :
    (l.foldl (fun s v => s.skipZone b v) s).zst w = s.zst w := by
  induction l generalizing s with
  | nil => rfl
  | cons v l ih =>
    rw [List.foldl_cons, ih (fun h => hw (List.mem_cons_of_mem _ h)), zst_skipZone_other s b (List.ne_of_not_mem_cons hw)]

/-- Every defined zone that was passed over has MISSED and no reservation, however often it was (R28). -/
theorem zst_skipZones (b : Nat) {w : Nat} (l : List Nat) (hw : w ∈ l) (s : State) (hd : (s.zoneE w).isSome = true) :
    (l.foldl (fun s v => s.skipZone b v) s).zst w =
      { s.zst w with reserved := none, fault := some (mergeFault (s.zst w).fault .missed) } := by
  induction l generalizing s with
  | nil => cases hw
  | cons v l ih =>
    rw [List.foldl_cons]
    have hd' : ((s.skipZone b v).zoneE w).isSome = true := by rw [zoneE_of_view (holdView_skipZone s b v)]; exact hd
    by_cases hv : w = v
    · subst hv
      by_cases hl : w ∈ l
      · rw [ih hl _ hd', zst_skipZone_self s b hd]
        simp only [mergeFault_missed_twice]
      · rw [zst_skipZones_other b l hl, zst_skipZone_self s b hd]
    · rw [ih ((List.mem_cons.mp hw).resolve_left hv) _ hd', zst_skipZone_other s b hv]

/-- Every zone that was passed over is reported (R28). -/
theorem sent_skipZones {s : State} (b : Nat) {w : Nat} (l : List Nat) (hw : w ∈ l) {u : State} (hu : Steady s u)
    (hm : s.mask.getLsbD (Notice.missed w b).kind = true) : Sent s (.missed w b) (l.foldl (fun s v => s.skipZone b v) u) := by
  have hkeep : ∀ (l : List Nat) {t : State}, Sent s (.missed w b) t → Sent s (.missed w b) (l.foldl (fun s v => s.skipZone b v) t) :=
    fun l t ht => foldl_keeps (P := Sent s (.missed w b)) (fun _ v h => (sent_calm s _).toModal.skipZone b v h) l ht
  induction l generalizing u with
  | nil => cases hw
  | cons v l ih =>
    rw [List.foldl_cons]
    by_cases hv : w = v
    · subst hv
      exact hkeep l (sent_notice ((steady_calm s).toModal.raiseFault w .missed ((steady_calm s).unreserve w hu)) hm)
    · exact ih ((List.mem_cons.mp hw).resolve_left hv) ((steady_calm s).toModal.skipZone b v hu)

/-! ### A boat that is not GRANTED through the end of an event -/

/-- Boat `b` is not GRANTED, so that no return of reservations concerns it, and its record has a property (R55). -/
def State.stays (s : State) (b : Nat) (B : Boat → Prop) : Prop := ∃ y, s.boatR b = some y ∧ y.state ≠ .granted ∧ B y

theorem State.stays.same {s u : State} {b : Nat} {B : Boat → Prop} (hs : s.stays b B) (h : u.boats = s.boats) : u.stays b B := by
  unfold State.stays State.boatR at *
  rw [h]
  exact hs

/-- Small updates touch no boat. -/
theorem base_boats (v : Vector (Option Boat) 24) : Base fun t => t.boats = v where
  startUp hs := hs
  placeHeld {s} hs := (placeHeld_boats_zs s).1.trans hs
  buildNotice {s} hs := (buildNotice_boats_zs s).1.trans hs
  startDn hs := hs
  placeLimit _ _ _ hs := hs
  placeCommands _ _ hs := hs
  queueNotice _ _ hs := hs
  dropNotice hs := hs
  handRaw {s} a v _ hs := (handRaw_boats_zs s a v).1.trans hs
  modEv _ hs := hs
  putZs _ _ _ hs := hs
  putBerth _ _ _ hs := hs
  putNode _ _ _ hs := hs

@[simp] theorem boats_hand (s : State) (a : Nat) (v : ActValue) : (s.hand a v).boats = s.boats :=
  (base_boats s.boats).pumpDn (s := s.handRaw a v) (handRaw_boats_zs s a v).1

@[simp] theorem boats_notice (s : State) (n : Notice) : (s.notice n).boats = s.boats := (base_boats s.boats).notice n rfl

@[simp] theorem boats_handBooster (s : State) (k : Nat) (v : ActValue) : (s.handBooster k v).boats = s.boats := by
  unfold State.handBooster
  split
  · rfl
  · exact boats_hand _ _ _

@[simp] theorem boats_handFin (s : State) (r i : Nat) (v : ActValue) : (s.handFin r i v).boats = s.boats := by
  unfold State.handFin
  dsimp only
  split
  · split
    · exact boats_hand _ _ _
    · exact boats_hand _ _ _
  · exact boats_hand _ _ _

@[simp] theorem boats_runLeft (s : State) (z : Nat) : (s.runLeft z).boats = s.boats := by
  have hfins : ∀ (t : State) r n k, (t.setFins r n k).boats = t.boats := fun t r n k => by
    refine foldl_view State.boats (fun t i => ?_) _ t
    dsimp only
    generalize (if i < k then ActValue.finEngage else .finRetract) = v
    split
    · rfl
    · exact boats_handFin _ _ _ _
  refine foldl_view State.boats (fun t r => ?_) _ s
  split
  · unfold State.restoreRun
    split
    · rfl
    · exact hfins _ _ _ _
  · rfl

@[simp] theorem boats_berthArrive (s : State) (b : Nat) : (s.berthArrive b).boats = s.boats := by
  unfold State.berthArrive State.trySecure
  split
  · rfl
  · dsimp only
    split
    · split
      · rfl
      · split <;> rfl
    · rfl

@[simp] theorem boats_firstPassage (s : State) (b y : Nat) : (s.firstPassage b y).boats = s.boats := by
  unfold State.firstPassage State.launchDeparted
  dsimp only
  split
  · simp
  · split
    · split
      · rw [boats_notice, boats_handBooster]
        simp [State.modSeq]
      · simp
    · split <;> simp

theorem base_stays (b : Nat) (B : Boat → Prop) : Base fun t => t.stays b B where
  startUp hs := hs
  placeHeld {s} hs := hs.same (placeHeld_boats_zs s).1
  buildNotice {s} hs := hs.same (buildNotice_boats_zs s).1
  startDn hs := hs
  placeLimit _ _ _ hs := hs
  placeCommands _ _ hs := hs
  queueNotice _ _ hs := hs
  dropNotice hs := hs
  handRaw {s} a v _ hs := hs.same (handRaw_boats_zs s a v).1
  modEv _ hs := hs
  putZs _ _ _ hs := hs
  putBerth _ _ _ hs := hs
  putNode _ _ _ hs := hs

section
variable {s : State} {b : Nat} {B : Boat → Prop}

theorem State.stays.modOther (hs : s.stays b B) {c : Nat} (hc : b ≠ c) (f : Boat → Boat) : (s.modBoat c f).stays b B := by
  obtain ⟨y, hy, h⟩ := hs
  exact ⟨y, by rw [boatR_modBoat, if_neg hc]; exact hy, h⟩

/-- The reservations that are returned are another boat's (R55). -/
theorem State.stays.returnOther (hs : s.stays b B) {c : Nat} (hc : b ≠ c) : (s.returnReservations c).stays b B := by
  have hun : ∀ (l : List Nat) (t : State), (l.foldl (fun s z => s.unreserve z) t).boats = t.boats :=
    fun l t => foldl_view (f := fun s z => s.unreserve z) State.boats (fun _ _ => rfl) l t
  unfold State.returnReservations
  split
  · exact hs
  · split
    · exact hs
    · refine State.stays.same (State.stays.modOther ?_ hc _) rfl
      exact hs.same (by rw [putRel_boats, hun])

/-- An abort leaves a boat that is not GRANTED alone (R87). -/
theorem State.stays.launchAbort (hs : s.stays b B) (k : Nat) (r : AbortReason) : (s.launchAbort k r).stays b B := by
  unfold State.launchAbort
  split
  · next e c _ _ =>
    have h1 : ((s.putSeq k .idle).hand e.booster .boosterSafe).stays b B := hs.same (by simp)
    refine (base_stays b B).notice _ ?_
    split
    · next hg =>
      have hc : b ≠ c := fun h => by
        subst h
        obtain ⟨y, hy, hst, _⟩ := h1
        rw [hy] at hg
        exact hst (by simpa using hg)
      exact Base.toBerth (P := fun t => t.stays b B) _ (fun c ht => (base_stays b B).berthReturned c ht) ((h1.returnOther hc).modOther hc _)
    · exact h1
  · exact hs

theorem State.stays.abortCharge (hs : s.stays b B) (k : Nat) (r : AbortReason) : (s.abortCharge k r).stays b B := by
  unfold State.abortCharge
  split
  · exact hs.launchAbort k r
  · exact hs

theorem State.stays.pulse (hs : s.stays b B) (g : Gen) : (s.pulse g).stays b B := by
  refine foldl_keeps (P := fun t => t.stays b B) (fun t c ht => ?_) _ hs
  split
  · refine foldl_keeps (P := fun t => t.stays b B) (fun t u ht => ?_) _ ((base_stays b B).deliverPulse (fun _ h => h) c .generated ht)
    split
    · exact ht.abortCharge _ _
    · exact ht
  · exact ht

theorem State.stays.askHold (hs : s.stays b B) (k : Block) : (s.askHold k).stays b B := by
  unfold State.askHold
  split
  · next hm =>
    unfold State.changeMode State.enterMode State.enterHold
    have h1 : ((s.modMc fun m => { m with mode := .hold, stopOut := Mode.hold == .stop }).notice
        (.modeChanged .hold s.mode (.block k))).stays b B := (base_stays b B).notice _ hs
    have h2 := (h1.abortCharge 0 .mode).abortCharge 1 .mode
    rw [if_pos hm]
    exact h2.pulse _
  all_goals exact hs

theorem State.stays.clearTrip (hT : ∀ x y : Boat, x.Trip y → B x → B y) (hs : s.stays b B) (c z : Nat) : (s.clearTrip c z).stays b B := by
  unfold State.clearTrip
  split
  · obtain ⟨y, hy, hg, h⟩ := hs
    unfold State.stays
    rw [boatR_modBoat]
    split
    · next hc => exact ⟨{ y with weight := none, lastSpeed := none, band := none, stageCount := none }, by rw [← hc, hy]; rfl, hg, hT y _ rfl h⟩
    · exact ⟨y, hy, hg, h⟩
  · exact hs

/-- What an entry hands on, where markers were missed and the path goes on, leaves the boat alone (R27, R28). -/
theorem State.stays.handEntry (hT : ∀ x y : Boat, x.Trip y → B x → B y) (hs : s.stays b B) (y z : Nat) (g : Bool) : (s.handEntry b y z g false true).stays b B := by
  have h0 : (if g = true then s.firstPassage b y else s).stays b B := by
    split
    · exact hs.same (boats_firstPassage s b y)
    · exact hs
  have h1 := (State.stays.clearTrip hT h0 b z).askHold .passage
  have h2 := Base.toBerth (P := fun t => t.stays b B) y (fun c ht => (base_stays b B).berthLeft c ht) h1
  have h4 := Base.toBerth (P := fun t => t.stays b B) z (f := State.berthArrive) (fun c ht => ht.same (boats_berthArrive _ c)) h2
  unfold State.handEntry
  simp only [if_true, Bool.false_eq_true, if_false]
  exact (State.stays.same h4 (boats_runLeft _ y)).pulse _

theorem State.stays.abortInhibited (hs : s.stays b B) : s.abortInhibited.stays b B := by
  refine foldl_keeps (P := fun t => t.stays b B) (fun t k ht => ?_) _ hs
  split
  · exact ht.abortCharge k _
  · exact ht

theorem State.stays.driveLines (hs : s.stays b B) : s.driveLines.stays b B := hs.same rfl

/-- Outside RUN the end of an event leaves a boat that is not GRANTED alone. -/
theorem State.stays.settle (s0 : State) (hs : s.stays b B) (hm : s.mode ≠ .run) : (State.settle s0 s).stays b B := by
  have h1 := ((base_stays b B).evalUserHolds ((base_stays b B).edges (fun _ h => h) s0 hs)).abortInhibited
  have hm1 : ((State.edges s0 s).evalUserHolds.abortInhibited).mc = s.mc :=
    (quiet_mc _).abortInhibited ((quiet_mc _).evalUserHolds ((quiet_mc _).edges (fun _ h => h) s0 rfl))
  unfold State.settle
  dsimp only
  generalize (State.edges s0 s).evalUserHolds.abortInhibited = t at h1 hm1
  have hm2 : t.mode ≠ .run := by unfold State.mode at *; rw [hm1]; exact hm
  exact ((base_stays b B).settleBerths ((base_stays b B).scansIdle _ hm2 h1)).driveLines

theorem State.stays.event {f : State → State} (hs : (f s).stays b B) (hm : (f s).mode ≠ .run) : (State.event f s).stays b B :=
  (base_stays b B).clearEv (hs.settle s hm)

end

/-! ### A passage that skipped markers -/

/-- Small updates take no time. -/
theorem base_now (v : Nat) : Base fun t => t.now = v where
  startUp hs := hs
  placeHeld {s} hs := by
    have : s.placeHeld.now = s.now := by
      unfold State.placeHeld
      split
      · rfl
      · split <;> rfl
    exact this.trans hs
  buildNotice {s} hs := by
    have : s.buildNotice.now = s.now := by unfold State.buildNotice; split <;> rfl
    exact this.trans hs
  startDn hs := hs
  placeLimit _ _ _ hs := hs
  placeCommands _ _ hs := hs
  queueNotice _ _ hs := hs
  dropNotice hs := hs
  handRaw {s} a v _ hs := by
    have : (s.handRaw a v).now = s.now := by
      unfold State.handRaw
      split
      · rfl
      · dsimp only
        split <;> rfl
    exact this.trans hs
  modEv _ hs := hs
  putZs _ _ _ hs := hs
  putBerth _ _ _ hs := hs
  putNode _ _ _ hs := hs

@[simp] theorem now_notice (s : State) (n : Notice) : (s.notice n).now = s.now := (base_now s.now).notice n rfl

theorem now_skipZones (s : State) (b : Nat) (l : List Nat) : (l.foldl (fun s v => s.skipZone b v) s).now = s.now := by
  refine foldl_view (f := fun s v => s.skipZone b v) State.now (fun t v => ?_) l s
  unfold State.skipZone State.raiseFault
  rw [now_notice]
  split <;> rfl

/-- A passage that skipped zones asks for HOLD, and nothing that follows touches mode control (R28). -/
theorem mc_handEntry_skip (s : State) (b y z : Nat) (g a : Bool) :
    ∃ v : State, v.mc = s.mc ∧ (s.handEntry b y z g a true).mc = (v.askHold .passage).mc := by
  refine ⟨(if g then s.firstPassage b y else s).clearTrip b z, ?_, ?_⟩
  · rw [mc_of_view (holdView_clearTrip _ b z)]
    split
    · exact mc_of_view (holdView_firstPassage s b y)
    · rfl
  · have hend : ∀ t : State, (((t.toBerth y State.berthLeft).toBerth z State.berthArrive).runLeft y).mc = t.mc := fun t => by
      rw [mc_of_view (holdView_runLeft _ y), mc_of_view (holdView_toBerth _ z holdView_berthArrive),
        mc_of_view (holdView_toBerth _ y holdView_berthLeft)]
    unfold State.handEntry
    simp only [if_true]
    split
    · rw [mc_of_view (holdView_autoRequest _ b), mc_of_view (holdView_launchArrived _ 1 b),
        mc_of_view (holdView_launchArrived _ 0 b), mc_pulse, hend]
    · rw [mc_pulse, hend]

/-- The zones before and behind the zone of a passage on a boat's path. -/
theorem enter_split (s : State) {b z : Nat} {x : Boat} {before rest : List Nat} (hp : x.path = before ++ z :: rest) (hz : z ∉ before) :
    s.enter b z x = ((before.foldl (fun s w => s.skipZone b w) s).moveBoat b z x rest).handEntry b x.zone z
      (x.state == .granted) rest.isEmpty !before.isEmpty := by
  have hall : ∀ w ∈ before, (w != z) = true := fun w hw => by
    simp only [bne_iff_ne]
    exact fun h => hz (h ▸ hw)
  have ht : x.path.takeWhile (· != z) = before := by
    rw [hp, List.takeWhile_append_of_pos hall, List.takeWhile_cons_of_neg (by simp), List.append_nil]
  have hd : (x.path.dropWhile (· != z)).drop 1 = rest := by
    rw [hp, List.dropWhile_append_of_pos hall, List.dropWhile_cons_of_neg (by simp)]
    rfl
  unfold State.enter
  dsimp only
  rw [ht, hd]

/-- Settles O30: the zones passed over are marked before the boat moves, and the request for HOLD keeps every grant away from
them and from the boat until the event ends. -/
theorem skippedPassageRaisesMissed : Obligations.SkippedPassageRaisesMissed := by
  intro t src sensor n z b x before rest s hsen hn hz hres hx hpath hne hzb hzone _
  have hz64 := reserved_range hres
  have hin : z ∈ x.path := by rw [hpath]; simp
  have hskip : (!before.isEmpty) = true := by cases before with | nil => exact absurd rfl hne | cons _ _ => rfl
  have hp : (s.at_ t).passage z = _ :=
    (passage_reserved (s := s.at_ t) hres hx hin).trans (enter_split (s.at_ t) (b := b) hpath hzb)
  rw [hskip] at hp
  obtain ⟨hres1, hboats1⟩ := skipZones_reserved b z before (fun w hw h => hzb (h ▸ hw)) (s.at_ t)
  have hzst1 : ∀ w ∈ before, (s.zoneE w).isSome = true → _ := fun w hw hd => zst_skipZones b before hw (s.at_ t) hd
  have hview1 : (before.foldl (fun s w => s.skipZone b w) (s.at_ t)).holdView = s.holdView :=
    foldl_view State.holdView (fun t w => holdView_skipZone t b w) before (s.at_ t)
  have hnow1 := now_skipZones (s.at_ t) b before
  have hsent1 : ∀ w ∈ before, s.mask.getLsbD (Notice.missed w b).kind = true → _ :=
    fun w hw hm => sent_skipZones b before hw (steady_at s t) hm
  revert hp hzst1 hsent1
  generalize before.foldl (fun s w => s.skipZone b w) (s.at_ t) = s1 at *
  intro hp hzst1 hsent1
  have hboat2 : (s1.moveBoat b z x rest).boatR b = some { x with
      path := rest, zone := z, entryTime := max s.now t, state := if rest = [] then .waiting else .moving } := by
    rw [boatR_moveBoat, show s1.boatR b = some x by rw [← hx]; unfold State.boatR; rw [hboats1]; rfl, hnow1]
    rfl
  have hzst2 := zst_moveBoat s1 (b := b) rest hzone hz64
  have hmc2 := (moveBoat_mc s1 b z x rest).trans (mc_of_view hview1)
  have hsent2 := fun w hw hm => sent_moveBoat (hsent1 w hw hm) b z x rest
  generalize s1.moveBoat b z x rest = s2 at *
  obtain ⟨v, hv, hmc3⟩ := mc_handEntry_skip s2 b x.zone z (x.state == .granted) rest.isEmpty
  have hocc2 : ∀ w, s2.occupant w = if w = z then some b else if w = x.zone then none else s.occupant w := fun w => by
    unfold State.occupant
    rw [hzst2]
    split
    · rfl
    · split
      · rfl
      · exact occupant_of_view hview1 w
  have hocc3 : ∀ w, (State.event (fun _ => s2.handEntry b x.zone z (x.state == .granted) rest.isEmpty true) (s.at_ t)).occupant w =
      if w = z then some b else if w = x.zone then none else s.occupant w :=
    (calm_occupants _).toMild.event ((calm_occupants _).toMild.handEntry b x.zone z _ _ _ hocc2)
  have hmode3 : (s2.handEntry b x.zone z (x.state == .granted) rest.isEmpty true).mode ≠ .run := by
    unfold State.mode
    rw [hmc3]
    exact mode_askHold_ne_run v _
  refine completes_marker hsen hn hz hp ⟨?_, ?_, ?_, fun w hw => ⟨?_, fun hd => ?_⟩, ?_⟩
  · rw [hocc3, if_pos rfl]
  · rw [hocc3, if_neg hzone, if_pos rfl]
  · exact holdTaken_of_askHold (hv.trans hmc2) (by rw [mc_event, hmc3])
  · exact noticed_of_sent fun hm => (sent_calm s _).toMild.event ((sent_calm s _).toMild.handEntry _ _ _ _ _ _ (hsent2 w hw hm))
  · refine (mild_faulted w _).event ((mild_faulted w _).handEntry _ _ _ _ _ _ ?_)
    have hwz : w ≠ z := fun h => hzb (h ▸ hw)
    rw [hzst2, if_neg hwz]
    split
    · rw [hzst1 w hw hd]; exact ⟨rfl, rfl⟩
    · rw [hzst1 w hw hd]; exact ⟨rfl, rfl⟩
  · obtain ⟨y, hy, hyz, hye, _⟩ := (mild_boatAt b z (max s.now t) x.overdue).event (s := s.at_ t)
      (f := fun _ => s2.handEntry b x.zone z (x.state == .granted) rest.isEmpty true)
      ((mild_boatAt b z (max s.now t) x.overdue).handEntry _ _ _ _ _ _ ⟨_, hboat2, rfl, rfl, rfl⟩)
    refine ⟨y, hy, hyz, hye, fun hr => ?_⟩
    have he : rest.isEmpty = false := by cases rest with | nil => exact absurd rfl hr | cons _ _ => rfl
    rw [he] at hy hmode3
    have hs2 : s2.stays b fun y => y.state = .moving ∧ y.path = rest := ⟨_, hboat2, by simp [hr], if_neg hr, rfl⟩
    have hT : ∀ x y : Boat, x.Trip y → x.state = .moving ∧ x.path = rest → y.state = .moving ∧ y.path = rest := fun x y h hx => by
      obtain ⟨_, _, _, hst, _, hpath, _⟩ := h.keeps
      exact ⟨hst.trans hx.1, hpath.trans hx.2⟩
    obtain ⟨y', hy', _, hst⟩ := State.stays.event (f := fun _ => s2.handEntry b x.zone z (x.state == .granted) false true)
      (s := s.at_ t) (State.stays.handEntry hT hs2 x.zone z (x.state == .granted)) hmode3
    rw [hy] at hy'
    cases hy'
    exact hst

end Sys2Proof.Machine
end

section
/-! The zone watch: where it starts, stops and expires (R34 to R36): settles O46. -/

namespace Sys2Proof.Machine

/-! ### A watch that expires -/

/-- Before its limit, or with no watch, an expiry does nothing (log 2). -/
theorem watchExpiry_early {s : State} {z : Nat}
    (h : ∀ e start, s.zoneE z = some e → (s.zst z).watch = some start → s.now < start + e.transit) : s.watchExpiry z = s := by
  unfold State.watchExpiry
  split
  · rfl
  · next e he =>
    refine if_neg fun hd => ?_
    unfold State.due at hd
    cases hw : (s.zst z).watch with
    | none => rw [hw] at hd; cases hd
    | some start =>
      rw [hw] at hd
      have := h e start he hw
      simp only [Option.any_some, decide_eq_true_eq] at hd
      omega

theorem watchExpiry_due {s : State} {z start : Nat} {e : ZoneEntry} (he : s.zoneE z = some e) (hw : (s.zst z).watch = some start)
    (hd : start + e.transit ≤ s.now) : s.watchExpiry z = s.watchExpired z := by
  unfold State.watchExpiry
  rw [he]
  exact if_pos (by unfold State.due; rw [hw]; simpa using hd)

/-- Zone `z`'s watch is stopped and its occupant flagged overdue. -/
def State.flagged (s : State) (z : Nat) : State :=
  (s.occupant z).elim (s.stopWatch z) fun b => (s.stopWatch z).modBoat b fun x => { x with overdue := true }

theorem watchExpired_eq (s : State) (z : Nat) :
    s.watchExpired z = (((s.flagged z).raiseFault z .overdue).notice (.overdue z (s.occupant z))).askHold .watch := by
  unfold State.watchExpired State.flagged
  cases s.occupant z <;> rfl

theorem zst_stopWatch (s : State) (z w : Nat) : (s.stopWatch z).zst w = if w = z ∧ z < 64 then { s.zst z with watch := none } else s.zst w :=
  zst_modZs s z w _

theorem zst_flagged (s : State) (z w : Nat) : (s.flagged z).zst w = (s.stopWatch z).zst w := by
  unfold State.flagged
  cases s.occupant z with
  | none => rfl
  | some b => exact zst_modBoat _ b _ w

theorem holdView_flagged (s : State) (z : Nat) : (s.flagged z).holdView = s.holdView := by
  unfold State.flagged
  cases s.occupant z with
  | none => exact holdView_stopWatch s z
  | some b => exact (holdView_modBoat _ b _).trans (holdView_stopWatch s z)

theorem boatR_flagged {s : State} {z b : Nat} {x : Boat} (ho : s.occupant z = some b) (hx : s.boatR b = some x) :
    (s.flagged z).boatR b = some { x with overdue := true } := by
  unfold State.flagged
  rw [ho, Option.elim_some, boatR_modBoat, if_pos rfl]
  have h : (s.stopWatch z).boatR b = some x := hx
  rw [h]
  rfl

theorem steady_flagged {s u : State} (h : Steady s u) (z : Nat) : Steady s (u.flagged z) := by
  have h1 : Steady s (u.stopWatch z) := (steady_calm s).stopWatch z h
  unfold State.flagged
  cases u.occupant z with
  | none => exact h1
  | some b =>
    obtain ⟨ha, hm, hc, _, _⟩ := modBoat_line (u.stopWatch z) b fun x => { x with overdue := true }
    exact h1.congr ha hm hc

/-- What an expired watch brings (R36). -/
theorem watchExpired_effect {s t : State} {z : Nat} {e : ZoneEntry} (hst : Steady s t) (he : t.zoneE z = some e) :
    ((t.watchExpired z).zst z).watch = none ∧ ((t.watchExpired z).zst z).fault = some (mergeFault (t.zst z).fault .overdue) ∧
      (∃ v : State, v.mc = t.mc ∧ (t.watchExpired z).mc = (v.askHold .watch).mc) ∧
      (s.mask.getLsbD (Notice.overdue z (t.occupant z)).kind = true → Sent s (.overdue z (t.occupant z)) (t.watchExpired z)) ∧
      (∀ w, (t.watchExpired z).occupant w = t.occupant w) ∧
      ∀ b x, t.occupant z = some b → t.boatR b = some x → ∃ y, (t.watchExpired z).boatR b = some y ∧ y.overdue = true := by
  have hd : ((t.flagged z).zoneE z).isSome = true := by rw [zoneE_of_view (holdView_flagged t z), he]; rfl
  have hz := zoneE_range (s := t) (z := z) (by rw [he]; rfl)
  have hzst : ((t.flagged z).raiseFault z .overdue).zst z =
      { t.zst z with watch := none, fault := some (mergeFault (t.zst z).fault .overdue) } := by
    rw [zst_raiseFault .overdue hd, if_pos rfl, zst_flagged, zst_stopWatch, if_pos ⟨rfl, hz⟩]
  rw [watchExpired_eq]
  refine ⟨(mild_unwatched z).askHold _ ((mild_unwatched z).notice _ ?_), (mild_fault z _).askHold _ ((mild_fault z _).notice _ ?_),
    ⟨_, ?_, rfl⟩, fun hm => ?_, (calm_occupants t.occupant).askHold _ ((calm_occupants t.occupant).notice _ fun w => ?_),
    fun b x ho hx => (mild_overdue b true).askHold _ ((mild_overdue b true).notice _ ?_)⟩
  · rw [hzst]
  · rw [hzst]
  · rw [notice_mc, mc_of_view ((holdView_raiseFault _ z _).trans (holdView_flagged t z))]
  · exact (sent_calm s _).askHold _ (sent_notice ((steady_calm s).toModal.raiseFault z _ (steady_flagged hst z)) hm)
  · exact occupant_of_view ((holdView_raiseFault _ z _).trans (holdView_flagged t z)) w
  · have hboats : ((t.flagged z).raiseFault z .overdue).boats = (t.flagged z).boats := by unfold State.raiseFault; split <;> rfl
    exact ⟨_, by unfold State.boatR at *; rw [hboats]; exact boatR_flagged ho hx, rfl⟩

/-! ### Where watches start -/

theorem stoppable_of_defined {s : State} {z : Nat} {e : ZoneEntry} (he : s.zoneE z = some e) : s.stoppable z = e.kind.stoppable := by
  unfold State.stoppable
  rw [he]

/-- The watch of a zone starts, with the present moment, in the modes in which watches start (R34). -/
theorem watch_startWatch (s : State) {z : Nat} (hz : z < 64) :
    ((s.startWatch z).zst z).watch = if s.mode.watchesStart then some s.now else (s.zst z).watch := by
  rw [zst_startWatch]
  by_cases h : s.mode.watchesStart = true <;> simp [h, hz]

theorem startWatch_off {s : State} (z : Nat) (h : s.mode.watchesStart = false) : s.startWatch z = s := by
  unfold State.startWatch
  rw [h]
  rfl

/-- The watches of the zones of a gate start, but for those whose occupant is not released through it (R34, R48). -/
def State.watchGate (s : State) (a : Nat) (p : Nat × ZoneEntry) : State :=
  if p.2.gate = some a ∧ (s.occupant p.1).any (fun b => (s.release b).any fun r => r.entry.origin == p.1 && r.stage == .gate) = true
  then s.startWatch p.1 else s

theorem gateOpened_eq (s : State) (a : Nat) : s.gateOpened a = s.definedZones.foldl (fun t p => t.watchGate a p) s := by
  unfold State.gateOpened
  congr 1
  funext t p
  unfold State.watchGate
  by_cases hg : p.2.gate = some a
  · cases ho : t.occupant p.1 with
    | none => simp [hg]
    | some b => simp [hg]
  · simp [hg]

/-- What the start of watches leaves alone. -/
structure State.Watching (s t : State) : Prop where
  view : t.holdView = s.holdView
  rel : t.rel = s.rel
  now : t.now = s.now

theorem State.Watching.watchGate {s t : State} (h : s.Watching t) (a : Nat) (p : Nat × ZoneEntry) : s.Watching (t.watchGate a p) := by
  unfold State.watchGate
  split
  · refine ⟨(holdView_startWatch t p.1).trans h.view, ?_, ?_⟩
    · unfold State.startWatch
      split <;> exact h.rel
    · unfold State.startWatch
      split <;> exact h.now
  · exact h

theorem watchGate_off {s : State} (h : s.mode.watchesStart = false) (a : Nat) (p : Nat × ZoneEntry) : s.watchGate a p = s := by
  unfold State.watchGate
  rw [startWatch_off p.1 h, ite_self]

/-- At the completion of a gate OPEN the watch starts for the granted occupant (R34). -/
theorem watch_gateOpened {s : State} {a z b : Nat} {e : ZoneEntry} {r : Release} (he : s.zoneE z = some e) (hg : e.gate = some a)
    (ho : s.occupant z = some b) (hr : s.release b = some r) (hor : r.entry.origin = z) (hst : r.stage = .gate) :
    ((s.gateOpened a).zst z).watch = if s.mode.watchesStart then some s.now else (s.zst z).watch := by
  have hz := occupant_range ho
  rw [gateOpened_eq]
  by_cases hm : s.mode.watchesStart = true
  · rw [if_pos hm]
    obtain ⟨l, l', hl⟩ := List.append_of_mem (mem_definedZones (p := (z, e)).mpr he)
    rw [hl, List.foldl_append, List.foldl_cons]
    have h1 : s.Watching (l.foldl (fun t p => t.watchGate a p) s) :=
      foldl_keeps (P := s.Watching) (fun _ p ht => ht.watchGate a p) l ⟨rfl, rfl, rfl⟩
    generalize l.foldl (fun t p => t.watchGate a p) s = t at h1
    have h2 : ((t.watchGate a (z, e)).zst z).watch = some s.now := by
      have hany : (t.occupant z).any (fun b => (t.release b).any fun r => r.entry.origin == z && r.stage == .gate) = true := by
        rw [occupant_of_view h1.view, ho]
        have hrel : t.release b = some r := by unfold State.release at *; rw [h1.rel]; exact hr
        simp [hrel, hor, hst]
      unfold State.watchGate
      rw [if_pos ⟨hg, hany⟩, watch_startWatch t hz, mode_of_view h1.view, if_pos hm, h1.now]
    refine (foldl_keeps (P := fun t => s.Watching t ∧ (t.zst z).watch = some s.now) (fun u p hu => ⟨hu.1.watchGate a p, ?_⟩) l'
      ⟨h1.watchGate a _, h2⟩).2
    unfold State.watchGate
    split
    · rw [zst_startWatch]
      split
      · exact congrArg some hu.1.now
      · exact hu.2
    · exact hu.2
  · rw [if_neg hm]
    have hoff := foldl_keeps (P := (· = s)) (f := fun t p => t.watchGate a p) (fun t p ht => by
      rw [ht]; exact watchGate_off (by simpa using hm) a p) s.definedZones rfl
    rw [hoff]

theorem zs_toBerthCleared (s : State) (z : Nat) : (s.toBerth z State.berthCleared).zs = s.zs := by
  unfold State.toBerth State.berthCleared State.berthDerive
  split
  · rfl
  · split
    · split <;> rfl
    · rfl

/-- CLEAR_ZONE starts the watch again for an overdue occupant only (R15, R34). -/
theorem watch_clearDefined {s : State} {z b : Nat} {x : Boat} (ho : s.occupant z = some b) (hx : s.boatR b = some x) :
    ((s.clearDefined z).zst z).watch =
      if x.overdue = true ∧ s.mode.watchesStart = true then some s.now else (s.zst z).watch := by
  have hz := occupant_range ho
  have hocc : (s.modZs z fun q => { q with fault := none, latch := false }).occupant z = some b := by
    unfold State.occupant at *
    rw [zst_modZs, if_pos ⟨rfl, hz⟩]
    exact ho
  have hboat : (s.modZs z fun q => { q with fault := none, latch := false }).boatR b = some x := hx
  have hwatch : ((s.modZs z fun q => { q with fault := none, latch := false }).zst z).watch = (s.zst z).watch := by
    rw [zst_modZs, if_pos ⟨rfl, hz⟩]
  have hb : ∀ t : State, (t.toBerth z State.berthCleared).zst z = t.zst z := fun t => by
    unfold State.zst
    rw [zs_toBerthCleared]
  unfold State.clearDefined
  dsimp only
  rw [hb, hocc, Option.bind_some, hboat]
  dsimp only [Option.map_some]
  by_cases hov : x.overdue = true
  · rw [if_pos hov, watch_startWatch _ hz, zst_modBoat, hwatch]
    have hm : ((s.modZs z fun q => { q with fault := none, latch := false }).modBoat b fun x => { x with overdue := false }).mode = s.mode := by
      unfold State.mode
      rw [modBoat_mc]
      rfl
    have hn : ((s.modZs z fun q => { q with fault := none, latch := false }).modBoat b fun x => { x with overdue := false }).now = s.now := by
      rw [modBoat_now]
      rfl
    rw [hm, hn]
    simp [hov]
  · simp [hov, hwatch]

/-- Settles O46: the expiry of a watch is flagged, noticed and brings HOLD, all kept to the end of its event; the starts are the watches of the operations named. -/
theorem watchStartsAndExpires : Obligations.WatchStartsAndExpires := by
  refine ⟨fun t z e start s he hw hd => ?_, fun t z s h => ?_, fun t src sensor n z b x rest s hsen hn hz hres hx hpath hne _ => ?_,
    fun b z x rest e s he hne => ?_, fun a z e b r s he hg ho hr hor hst => watch_gateOpened he hg ho hr hor hst,
    fun k e b s hb ho => ?_, fun k e s h => if_neg fun hc => h hc.2, fun z e b x s _ ho hx => watch_clearDefined ho hx,
    fun m => by cases m <;> decide⟩
  · have hx : (s.at_ t).watchExpiry z = (s.at_ t).watchExpired z := watchExpiry_due (s := s.at_ t) he hw hd
    obtain ⟨h1, h2, ⟨v, hv, h3⟩, h4, h5, h6⟩ := watchExpired_effect (steady_at s t) (t := s.at_ t) he
    refine ⟨State.event (fun _ => (s.at_ t).watchExpired z) (s.at_ t), ?_, (mild_unwatched z).event h1, (mild_fault z _).event h2,
      holdTaken_of_askHold hv (by rw [mc_event, h3]), noticed_of_sent fun hm => (sent_calm s _).toMild.event (h4 hm),
      (calm_occupants s.occupant).toMild.event h5 z, fun b x ho hx => (mild_overdue b true).event (h6 b x ho hx)⟩
    simp only [exec, execWatchExpiry, State.command]
    rw [event_congr (f := fun s => s.watchExpiry z) (g := fun _ => (s.at_ t).watchExpired z) hx]
  · have hx : (s.at_ t).watchExpiry z = s.at_ t := watchExpiry_early (s := s.at_ t) h
    simp only [exec, execWatchExpiry, State.command]
    rw [event_congr (f := fun s => s.watchExpiry z) (g := id) hx]
  · have hin : z ∈ x.path := by rw [hpath]; simp
    have hp : (s.at_ t).passage z = _ :=
      (passage_reserved (s := s.at_ t) hres hx hin).trans (enter_split (s.at_ t) (b := b) (before := []) hpath (by simp))
    have hzst := zst_moveBoat (s.at_ t) (b := b) rest hne (reserved_range hres) x.zone
    rw [if_neg hne, if_pos rfl] at hzst
    have hboat := boatR_moveBoat (s.at_ t) b z x rest
    rw [show (s.at_ t).boatR b = some x from hx] at hboat
    refine completes_marker hsen hn hz hp ⟨(mild_unwatched _).event ((mild_unwatched _).handEntry _ _ _ _ _ _ ?_),
      (mild_fault _ _).event ((mild_fault _ _).handEntry _ _ _ _ _ _ ?_), ?_⟩
    · rw [List.foldl_nil, hzst]
    · rw [List.foldl_nil, hzst]
      rfl
    · have h := (mild_boatAt b z (max s.now t) x.overdue).event (s := s.at_ t) (f := fun _ => _)
        ((mild_boatAt b z (max s.now t) x.overdue).handEntry b x.zone z (x.state == .granted) rest.isEmpty false ⟨_, hboat, rfl, rfl, rfl⟩)
      obtain ⟨y, hy, hyz, _, hyo⟩ := h
      exact ⟨y, hy, hyz, hyo⟩
  · rw [zst_moveBoat s rest hne (zoneE_range (by rw [he]; rfl)), if_pos rfl, stoppable_of_defined he]
  · have hl : s.launchReleased k e = s.startWatch e.zone := if_pos ⟨by rw [hb]; rfl, by rw [ho, hb]⟩
    rw [hl, watch_startWatch s (occupant_range ho)]

end Sys2Proof.Machine
end

section
/-! Timers of the nodes and what a change of roster state brings (R87, R120 to R122): settles O45. -/

namespace Sys2Proof.Machine

/-! ### A change of roster state -/

@[simp] theorem holdView_nodeNotice (s : State) (n : Nat) (w : Roster) (r : Option NodeReason) : (s.nodeNotice n w r).holdView = s.holdView := by
  unfold State.nodeNotice
  split
  · rfl
  · exact holdView_notice _ _

theorem holdView_reportRoster {s : State} {n : Nat} {o w : Roster} (h : o ≠ w) :
    (s.reportRoster n o w).holdView = (s.evalNodeHolds n).holdView := by
  unfold State.reportRoster
  rw [if_neg h]
  dsimp only
  split <;> split <;> simp

section
variable {s : State} {n : Nat} {w : Roster} (r : Option NodeReason) (hw : (s.nodeS n).state ≠ w)
include hw

theorem holdView_changeNode : (s.changeNode n w r).holdView =
    (((s.modNode n fun q => { q with state := w, join := none }).nodeNotice n w r).evalNodeHolds n).holdView :=
  holdView_reportRoster hw

/-- The node has its new state (R122). -/
theorem roster_changeNode (hn : n < 48) : ((s.changeNode n w r).nodeS n).state = w := by
  obtain ⟨_, hnodes⟩ := evalHolds_tab_nodes ((s.modNode n fun q => { q with state := w, join := none }).nodeNotice n w r)
    (fun p : Nat × ZoneEntry => p.1) ((((s.modNode n fun q => { q with state := w, join := none }).nodeNotice n w r).definedZones.filter
      fun p => p.2.depends.contains n))
  rw [roster_of_view (holdView_changeNode r hw) n]
  have h : ∀ t u : State, u.nodes = t.nodes → (u.nodeS n).state = (t.nodeS n).state := fun t u h => by unfold State.nodeS; rw [h]
  rw [show (((s.modNode n fun q => { q with state := w, join := none }).nodeNotice n w r).evalNodeHolds n).nodeS n = _ from
    congrArg (fun v => v[n]?.getD NodeStatus.absent) hnodes]
  show (((s.modNode n fun q => { q with state := w, join := none }).nodeNotice n w r).nodeS n).state = w
  rw [roster_of_view (holdView_nodeNotice _ n w r) n]
  unfold State.modNode
  rw [nodeS_putNode, if_pos ⟨rfl, hn⟩]

/-- A zone that depends on a node that is not ACTIVE has its NODE hold (R12). -/
theorem nodeHold_changeNode (hn : n < 48) (ha : w ≠ .active) {z : Nat} {e : ZoneEntry} (he : s.zoneE z = some e) (hd : n ∈ e.depends) :
    ((s.changeNode n w r).zst z).nodeHold = true := by
  have hroster : (((s.modNode n fun q => { q with state := w, join := none }).nodeNotice n w r).nodeS n).state = w := by
    rw [roster_of_view (holdView_nodeNotice _ n w r) n]
    unfold State.modNode
    rw [nodeS_putNode, if_pos ⟨rfl, hn⟩]
  have he' : ((s.modNode n fun q => { q with state := w, join := none }).nodeNotice n w r).zoneE z = some e := by
    rw [zoneE_of_view (holdView_nodeNotice _ n w r) z]
    exact he
  rw [nodeHold_of_view (holdView_changeNode r hw) z]
  generalize (s.modNode n fun q => { q with state := w, join := none }).nodeNotice n w r = t at hroster he'
  unfold State.evalNodeHolds
  rw [zst_evalHolds t (fun p : Nat × ZoneEntry => p.1) _ he', if_pos ?_]
  · unfold State.wantsNodeHold
    rw [List.any_eq_true]
    exact ⟨n, hd, by unfold State.nodeActive; rw [hroster]; simpa using ha⟩
  · exact List.mem_map.mpr ⟨(z, e), List.mem_filter.mpr ⟨mem_definedZones.mpr he', by simpa using hd⟩, rfl⟩

theorem mc_changeNode : (s.changeNode n w r).mc = s.mc := by
  rw [mc_of_view (holdView_changeNode r hw), (quiet_mc _).evalNodeHolds n rfl, mc_of_view (holdView_nodeNotice _ n w r)]
  rfl

end

/-- The end of an event touches no NODE hold and no roster state. -/
theorem node_event (f : State → State) (s : State) : (State.event f s).holdView.node = (f s).holdView.node := by
  unfold State.event State.settle
  simp

/-- A property that ignores roster states and closed list entries is kept by the reports of a change (R122). -/
theorem Calm.reportRoster {P : State → Prop} (h : Calm P) (hc : ∀ {s : State} p, P s → P { s with cmds := s.cmds.filter p })
    {s : State} (n : Nat) (o w : Roster) (hs : P s) : P (s.reportRoster n o w) := by
  have hfail : ∀ {t : State}, P t → P (t.failThrowsOn n) := fun {t} ht => by
    unfold State.failThrowsOn
    refine foldl_keeps (P := P) (fun u a hu => ?_) _ ht
    split
    · exact h.failThrows h.setQueue a hu
    · exact hu
  have hreport : ∀ (t : State) e, P t → P (t.reportFailed e) := fun t e ht => by
    unfold State.reportFailed
    split
    · exact Quiet.finSettled h.putRun _ ht
    · exact h.failThrows h.setQueue _ ht
    · exact h.failThrows h.setQueue _ ht
    · exact ht
  have h1 := h.evalNodeHolds n hs
  unfold State.reportRoster
  split
  · exact hs
  · have h2 : P (if o = .active then ((s.evalNodeHolds n).failThrowsOn n).abortChargesOn n else s.evalNodeHolds n) := by
      split
      · exact h.abortChargesOn n (hfail h1)
      · exact h1
    dsimp only
    split
    · exact foldl_keeps (P := P) hreport _ (hc _ h2)
    · exact h2

/-! ### Aborted charges and their notices -/

theorem State.sent_launchAbort {s t : State} {k b : Nat} {e : LaunchEntry} {r : AbortReason} (hst : Steady s t) (he : t.launchE k = some e)
    (hb : (t.seqS k).boat = some b) (hm : s.mask.getLsbD (Notice.launchAborted k b r).kind = true) :
    Sent s (.launchAborted k b r) (t.launchAbort k r) := by
  have h := steady_calm s
  have h1 : Steady s ((t.putSeq k .idle).hand e.booster .boosterSafe) := h.handRest _ _ rfl (h.looseSeq k _ (.inl rfl) hst)
  unfold State.launchAbort
  rw [he, hb]
  dsimp only
  refine sent_notice ?_ hm
  split
  · exact Base.toBerth _ (fun b => h.berthReturned b) (h.setBoatState b _ (h.returnReservations b h1))
  · exact h1

/-- An abort of one section's charge leaves the other sequencer alone (R87). -/
theorem seqS_abortCharge_other (s : State) {j k : Nat} (r : AbortReason) (hk : k ≠ j) : (s.abortCharge j r).seqS k = s.seqS k := by
  unfold State.abortCharge
  split
  · rcases seqs_launchAbort s j r with h | h
    · unfold State.seqS; rw [h]
    · have h2 := seqS_putSeq s j k .idle
      rw [if_neg fun hc => hk hc.1] at h2
      rw [← h2]
      unfold State.seqS
      rw [h]
  · rfl

/-- Where the charges of a list of sections are aborted, each is reported (R87). -/
theorem State.sent_abortCharges {s : State} {k b : Nat} {r : AbortReason} (l : List Nat) (hk : k ∈ l) {t : State} (hst : Steady s t)
    (he : (t.launchE k).isSome = true) (hq : (t.seqS k).state = .charging) (hb : (t.seqS k).boat = some b)
    (hm : s.mask.getLsbD (Notice.launchAborted k b r).kind = true) :
    Sent s (.launchAborted k b r) (l.foldl (fun u j => u.abortCharge j r) t) := by
  induction l generalizing t with
  | nil => cases hk
  | cons j l ih =>
    rw [List.foldl_cons]
    by_cases hj : k = j
    · subst hj
      refine foldl_keeps (P := Sent s (.launchAborted k b r)) (fun u j hu => (sent_calm s _).abortCharge j r hu) l ?_
      unfold State.abortCharge
      rw [if_pos hq]
      obtain ⟨e, he⟩ := Option.isSome_iff_exists.mp he
      exact sent_launchAbort hst he hb hm
    · refine ih ((List.mem_cons.mp hk).resolve_left hj) ((steady_calm s).abortCharge j r hst) ?_ ?_ ?_
      · unfold State.launchE
        rw [tab_of_view (holdView_abortCharge t j r)]
        exact he
      · rw [seqS_abortCharge_other t r hj]; exact hq
      · rw [seqS_abortCharge_other t r hj]; exact hb

/-- A node that leaves ACTIVE ends the charges of its boosters, each with a notice (R87, R122). -/
theorem sent_silent {s t : State} {n k b : Nat} (hst : Steady s t) (ha : (t.nodeS n).state = .active) (he : (t.launchE k).isSome = true)
    (hn : t.boosterNode k = some n) (hq : (t.seqS k).state = .charging) (hb : (t.seqS k).boat = some b)
    (hm : s.mask.getLsbD (Notice.launchAborted k b .nodeLost).kind = true) :
    Sent s (.launchAborted k b .nodeLost) (t.changeNode n .silent none) := by
  have hcalm := steady_calm s
  have h1 : Steady s (t.modNode n fun q => { q with state := .silent, join := none }) := hst.congr rfl rfl rfl
  have hfail : ∀ {P : State → Prop}, Still P → (∀ {s : State} q m, P s → P { s with queue := q, reqSeq := m }) →
      ∀ {u : State}, P u → P (u.failThrowsOn n) := fun h hq u hu => by
    unfold State.failThrowsOn
    refine foldl_keeps (fun v a hv => ?_) _ hu
    split
    · exact h.failThrows hq a hv
    · exact hv
  have h2 : Steady s ((((t.modNode n fun q => { q with state := .silent, join := none }).nodeNotice n .silent none).evalNodeHolds n).failThrowsOn n) :=
    hfail hcalm.toStill hcalm.setQueue (hcalm.evalNodeHolds n h1)
  have hseq : ((((t.modNode n fun q => { q with state := .silent, join := none }).nodeNotice n .silent none).evalNodeHolds n).failThrowsOn n).seqs = t.seqs :=
    hfail (still_seqs _) (fun _ _ h => h) ((still_seqs _).evalNodeHolds n rfl)
  have htab : ((((t.modNode n fun q => { q with state := .silent, join := none }).nodeNotice n .silent none).evalNodeHolds n).failThrowsOn n).tab = t.tab :=
    hfail (still_tab _) (fun _ _ h => h) ((still_tab _).evalNodeHolds n rfl)
  unfold State.changeNode State.reportRoster
  rw [ha, if_neg (by decide)]
  dsimp only
  rw [if_pos rfl, if_neg (by decide)]
  revert h2 hseq htab
  generalize (((t.modNode n fun q => { q with state := .silent, join := none }).nodeNotice n .silent none).evalNodeHolds n).failThrowsOn n = u
  intro h2 hseq htab
  have hlaunch : ∀ j, u.launchE j = t.launchE j := fun j => by unfold State.launchE; rw [htab]
  have hbooster : u.boosterNode k = some n := by
    rw [← hn]
    unfold State.boosterNode State.actNode State.authE
    rw [hlaunch, htab]
  obtain ⟨e, hee⟩ := Option.isSome_iff_exists.mp he
  have hk : k ∈ u.chargesOn n := by
    have hk2 := launchE_range hee
    have h01 : k ∈ [0, 1] := by interval_cases k <;> decide
    exact List.mem_filter.mpr ⟨h01, by rw [hbooster]; simp⟩
  exact State.sent_abortCharges _ hk h2 (by rw [hlaunch]; exact he) (by unfold State.seqS at *; rw [hseq]; exact hq)
    (by unfold State.seqS at *; rw [hseq]; exact hb) hm

/-! ### Nodes with nothing in the command list -/

/-- Node `n` is not present, and no list entry is for an actuator of it as the tables `v` give them (R128, R133). -/
structure State.Unlisted (v : Tables) (n : Nat) (s : State) : Prop where
  tab : s.tab = v
  absent : (s.nodeS n).state.present = false
  none : ∀ c ∈ s.cmds, s.actNode c.act ≠ some n

theorem State.Unlisted.congr {v : Tables} {n : Nat} {s u : State} (h : State.Unlisted v n s) (ht : u.tab = s.tab)
    (hn : u.nodes = s.nodes) (hc : u.cmds = s.cmds) : State.Unlisted v n u :=
  ⟨ht.trans h.tab, by unfold State.nodeS at *; rw [hn]; exact h.absent, by
    unfold State.actNode State.authE at *
    rw [hc, ht]
    exact h.none⟩

/-- A command for an actuator of a node that is not present makes no list entry (R128). -/
theorem State.Unlisted.handRaw {v : Tables} {n : Nat} {s : State} (h : State.Unlisted v n s) (a : Nat) (x : ActValue) :
    State.Unlisted v n (s.handRaw a x) := by
  unfold State.handRaw
  split
  · exact h
  · dsimp only
    split
    · next hl =>
      refine ⟨h.tab, h.absent, fun c hc => ?_⟩
      rcases List.mem_append.mp hc with hc | hc
      · exact h.none c (List.mem_filter.mp hc).1
      · rw [List.mem_singleton.mp hc]
        intro hn
        unfold State.handListed at hl
        obtain ⟨e, he, hen⟩ := Option.map_eq_some_iff.mp (show (s.authE a).map (fun e => e.node) = some n from hn)
        rw [he] at hl
        dsimp only at hl
        rw [hen, h.absent, Bool.and_false] at hl
        cases hl
    · exact ⟨h.tab, h.absent, fun c hc => h.none c (List.mem_filter.mp hc).1⟩

/-- A node that is not present gets no list entry (R128). -/
theorem calm_unlisted (v : Tables) (n : Nat) : Calm (State.Unlisted v n) where
  startUp hs := hs.congr rfl rfl rfl
  placeHeld {s} hs := by
    unfold State.placeHeld
    split
    · exact hs
    · split
      · exact hs.congr rfl rfl rfl
      · exact hs
  buildNotice {s} hs := by
    unfold State.buildNotice
    split
    · exact hs
    · exact hs.congr rfl rfl rfl
  startDn hs := hs.congr rfl rfl rfl
  placeLimit {s} m e _ hs := by
    refine ⟨hs.tab, ?_, hs.none⟩
    have h := hs.absent
    unfold State.placeLimit
    simp only [State.modNode, nodeS_putNode] at *
    split
    · next hc => rw [← hc.1]; exact h
    · exact h
  placeCommands {s} m _ hs := by
    refine ⟨hs.tab, hs.absent, fun c hc => ?_⟩
    obtain ⟨d, hd, rfl⟩ := List.mem_map.mp hc
    have h := hs.none d hd
    show (s.actNode (if d.sent.isNone && s.actNode d.act == some m then { d with sent := some s.now } else d).act) ≠ some n
    split <;> exact h
  queueNotice _ _ hs := hs.congr rfl rfl rfl
  dropNotice hs := hs.congr rfl rfl rfl
  handRaw a x _ hs := hs.handRaw a x
  handAny a x _ hs := hs.handRaw a x
  modEv _ hs := hs.congr rfl rfl rfl
  putZs _ _ _ hs := hs.congr rfl rfl rfl
  putBerth _ _ _ hs := hs.congr rfl rfl rfl
  putNode {s} m q hq hs := by
    refine ⟨hs.tab, ?_, hs.none⟩
    have h := hs.absent
    have hst : q.state = (s.nodeS m).state := by unfold NodeStatus.Soft at hq; rw [← hq]
    rw [nodeS_putNode]
    split
    · next hc => rw [hst, ← hc.1]; exact h
    · exact h
  modBoat _ _ _ hs := hs.congr (by simp) (by simp) (by simp)
  putRel _ _ hs := hs.congr (by simp) (by simp) (by simp)
  filterQueue _ hs := hs.congr rfl rfl rfl
  putSeq _ _ _ _ hs := hs.congr rfl rfl rfl
  driveLines hs := hs.congr rfl rfl rfl
  bump _ hs := hs.congr rfl rfl rfl
  useFree hs := hs.congr rfl rfl rfl
  putRun _ _ hs := hs.congr rfl rfl rfl
  setQueue _ _ hs := hs.congr rfl rfl rfl
  looseZs _ _ _ hs := hs.congr rfl rfl rfl
  looseBerth _ _ hs := hs.congr rfl rfl rfl
  looseSeq _ _ _ hs := hs.congr rfl rfl rfl
  loosePulse _ _ hs := hs.congr rfl rfl rfl
  tripBoat _ _ _ hs := hs.congr (by simp) (by simp) (by simp)
  modMc _ hs := hs.congr rfl rfl rfl

/-- A node that goes from SILENT to LOST has its list entries closed (R122, R133). -/
theorem unlisted_lost {s : State} {n : Nat} (hn : n < 48) (hs : (s.nodeS n).state = .silent) (r : Option NodeReason) :
    State.Unlisted s.tab n (s.changeNode n .lost r) := by
  have h := calm_unlisted s.tab n
  have htab : ((((s.modNode n fun q => { q with state := .lost, join := none }).nodeNotice n .lost r)).evalNodeHolds n).tab = s.tab :=
    (still_tab _).evalNodeHolds n ((tab_of_view (holdView_nodeNotice _ n .lost r)).trans rfl)
  have hroster : (((((s.modNode n fun q => { q with state := .lost, join := none }).nodeNotice n .lost r)).evalNodeHolds n).nodeS n).state = .lost := by
    have h1 := roster_changeNode (s := s) (w := .lost) r (by rw [hs]; decide) hn
    rwa [roster_of_view (holdView_changeNode r (by rw [hs]; decide)) n] at h1
  have hreport : ∀ (t : State) e, State.Unlisted s.tab n t → State.Unlisted s.tab n (t.reportFailed e) := fun t e ht => by
    unfold State.reportFailed
    split
    · exact Quiet.finSettled h.putRun _ ht
    · exact h.failThrows h.setQueue _ ht
    · exact h.failThrows h.setQueue _ ht
    · exact ht
  unfold State.changeNode State.reportRoster
  rw [hs, if_neg (by decide)]
  dsimp only
  rw [if_pos (by decide), if_neg (by decide)]
  revert htab hroster
  generalize ((s.modNode n fun q => { q with state := .lost, join := none }).nodeNotice n .lost r).evalNodeHolds n = t
  intro htab hroster
  refine foldl_keeps (P := State.Unlisted s.tab n) hreport _ ⟨htab, ?_, fun c hc => ?_⟩
  · show (t.nodeS n).state.present = false
    rw [hroster]
    rfl
  · show t.actNode c.act ≠ some n
    simpa using (List.mem_filter.mp hc).2

/-! ### The timers -/

theorem nodeS_range {s : State} {n : Nat} (h : (s.nodeS n).state ≠ .absent) : n < 48 := by
  by_contra hn
  apply h
  unfold State.nodeS
  rw [Vector.getElem?_eq_none (by omega)]
  rfl

/-- An event that is a change of roster state ends with the node's new state, and NODE holds where it is not ACTIVE. -/
theorem event_changeNode {f : State → State} {s t : State} {n : Nat} {w : Roster} (r : Option NodeReason) (hs : (t.nodeS n).state ≠ .absent)
    (hw : (t.nodeS n).state ≠ w) (ha : w ≠ .active) (hf : (f s).holdView.node = (t.changeNode n w r).holdView.node) :
    ((State.event f s).nodeS n).state = w ∧ ∀ z e, t.zoneE z = some e → n ∈ e.depends → ((State.event f s).zst z).nodeHold = true := by
  have hv := (node_event f s).trans hf
  refine ⟨(congrFun (congrArg NodeView.roster hv) n).trans (roster_changeNode r hw (nodeS_range hs)), fun z e he hd => ?_⟩
  exact (congrFun (congrArg NodeView.hold hv) z).trans (nodeHold_changeNode r hw (nodeS_range hs) ha he hd)

/-- The notice of a change of roster state is sent (R120, R121). -/
theorem sent_changeNode {s t : State} {n : Nat} {w : Roster} {r : NodeReason} (hst : Steady s t)
    (hm : s.mask.getLsbD (Notice.nodeState n w r).kind = true) : Sent s (.nodeState n w r) (t.changeNode n w (some r)) := by
  have h1 : Steady s (t.modNode n fun q => { q with state := w, join := none }) := hst.congr rfl rfl rfl
  exact (sent_calm s _).reportRoster (fun _ hs => hs.congr rfl rfl rfl rfl rfl) n _ w (sent_notice h1 hm)

theorem due_some {s : State} {start d : Nat} (h : start + d ≤ s.now) : s.due (some start) d = true := by
  unfold State.due
  simpa using h

/-- Settles O45: each timer is one change of the roster, and what that change sends and returns is kept to the end of the event. -/
theorem nodeTimersMoveRoster : Obligations.NodeTimersMoveRoster := by
  refine ⟨fun t n start s hs hj hd => ?_, fun t n heard s hs hl hd => ?_, fun t n heard s hs hl hd => ?_, fun t n heard s hs hl hd => ?_⟩
  · have hx : (s.at_ t).joinExpiry n = (s.at_ t).changeNode n .absent (some .joinTimeout) :=
      if_pos ⟨hs, by rw [show ((s.at_ t).nodeS n).join = some start from hj]; exact due_some hd⟩
    have hne : ((s.at_ t).nodeS n).state ≠ .absent := by rw [show ((s.at_ t).nodeS n).state = _ from hs]; decide
    obtain ⟨h1, h2⟩ := event_changeNode (s := s.at_ t) (t := s.at_ t) (w := .absent) (f := fun s => s.joinExpiry n) (some .joinTimeout) hne hne
      (by decide) (by rw [hx])
    refine ⟨_, rfl, h1, noticed_of_sent fun hm => (sent_calm s _).toMild.event ?_, h2⟩
    rw [hx]
    exact sent_changeNode (steady_at s t) hm
  · have hx : (s.at_ t).silentExpiry n = (s.at_ t).changeNode n .silent none :=
      if_pos ⟨hs, by rw [show ((s.at_ t).nodeS n).lastHeard = some heard from hl]; exact due_some hd⟩
    have hst : ((s.at_ t).nodeS n).state = .active := hs
    obtain ⟨h1, h2⟩ := event_changeNode (s := s.at_ t) (t := s.at_ t) (w := .silent) (f := fun s => s.silentExpiry n) none
      (by rw [hst]; decide) (by rw [hst]; decide) (by decide) (by rw [hx])
    refine ⟨_, rfl, h1, h2, fun k b he hn hq hb => noticed_of_sent fun hm => (sent_calm s _).toMild.event ?_⟩
    rw [hx]
    exact sent_silent (steady_at s t) hst he hn hq hb hm
  · have hx : (s.at_ t).lostExpiry n = ((s.at_ t).changeNode n .lost (some .silence)).lostHold .node :=
      if_pos ⟨hs, by rw [show ((s.at_ t).nodeS n).lastHeard = some heard from hl]; exact due_some hd⟩
    have hst : ((s.at_ t).nodeS n).state = .silent := hs
    have hmc : ((s.at_ t).changeNode n .lost (some .silence)).mc = s.mc := mc_changeNode (some .silence) (by rw [hst]; decide)
    have hkeep : ∀ {P : State → Prop}, Calm P → ∀ {u : State}, P u → P (u.lostHold .node) := fun h u hu => by
      unfold State.lostHold
      split
      · exact h.askHold _ hu
      · exact hu
    obtain ⟨h1, h2⟩ := event_changeNode (s := s.at_ t) (t := s.at_ t) (w := .lost) (f := fun s => s.lostExpiry n) (some .silence)
      (by rw [hst]; decide) (by rw [hst]; decide) (by decide) (by rw [hx]; exact node_lostHold _ _)
    have hun : State.Unlisted s.tab n (State.event (fun s => s.lostExpiry n) (s.at_ t)) :=
      (calm_unlisted s.tab n).toMild.event (by rw [hx]; exact hkeep (calm_unlisted s.tab n) (unlisted_lost (nodeS_range (by rw [hst]; decide)) hst _))
    refine ⟨_, rfl, h1, noticed_of_sent fun hm => (sent_calm s _).toMild.event ?_, fun d hd => ?_, fun hrun => ?_, fun hrun => ?_, h2⟩
    · rw [hx]
      exact hkeep (sent_calm s _) (sent_changeNode (steady_at s t) hm)
    · have h := hun.none d hd
      unfold State.actNode State.authE at *
      rwa [hun.tab] at h
    · unfold State.mode at *
      rw [mc_event, hx]
      unfold State.lostHold State.mode
      rw [hmc, if_pos hrun, mc_askHold]
      unfold State.mode
      rw [hmc, if_pos hrun]
    · rw [mc_event, hx]
      unfold State.lostHold State.mode
      rw [hmc, if_neg (show ¬ s.mc.mode = .run from hrun), hmc]
  · have hx : (s.at_ t).silentExpiry n = s.at_ t := by
      refine if_neg fun hc => ?_
      rw [show ((s.at_ t).nodeS n).lastHeard = some heard from hl] at hc
      unfold State.due at hc
      have h60 : heard + Config.silentTime ≤ max s.now t := of_decide_eq_true hc.2
      exact absurd h60 (Nat.not_le.mpr hd)
    simp only [exec, execNodeSilent, State.command]
    rw [event_congr (f := fun s => s.silentExpiry n) (g := id) hx]

end Sys2Proof.Machine
end

section
/-! Management records taken as the only record of a request so far, and the end of the events they are (R173, R174). -/

namespace Sys2Proof.Machine

/-! ### What an event that changes no level leaves alone -/

theorem genLevel_congr {s u : State} (hmc : u.mc = s.mc) (hin : u.inputs = s.inputs) (hn : ∀ n, (u.nodeS n).state = (s.nodeS n).state)
    (ho : ∀ z, u.occupant z = s.occupant z) (g : Gen) : u.genLevel g = s.genLevel g := by
  cases g with
  | modeIs m => show (u.mode == m) = (s.mode == m); unfold State.mode; rw [hmc]
  | zoneOccupied z => show (u.occupant z).isSome = (s.occupant z).isSome; rw [ho]
  | nodeActive n => show u.nodeActive n = s.nodeActive n; unfold State.nodeActive; rw [hn]
  | nodeInput n i => show (u.inputS n).getLsbD i = (s.inputS n).getLsbD i; unfold State.inputS; rw [hin]
  | estopLine => show u.mc.estop = s.mc.estop; rw [hmc]
  | _ => rfl

/-- Where no generator's level changes there is no edge, whatever channels select (R150, R159). -/
theorem edges_of_levels {s0 s : State} (h : ∀ g, s.genLevel g = s0.genLevel g) : State.edges s0 s = s := by
  have hedge : ∀ c, State.edge s0 s c = none := fun c => if_neg fun hc => hc.2 (by
    unfold State.chanLevel
    rw [hc.1]
    cases s.chanE c with
    | none => rfl
    | some g => exact (h g).symm)
  refine foldl_keeps (P := (· = s)) (fun t c ht => ?_) (List.range 12) rfl
  rw [hedge c]
  exact ht

/-- Where no generator's level changes an event ends with its USER holds evaluated, and nothing else that holds and lines rest on. -/
theorem holdView_event {s0 : State} {f : State → State} (h : ∀ g, (f s0).genLevel g = s0.genLevel g) :
    (State.event f s0).holdView = (f s0).evalUserHolds.holdView := by
  unfold State.event State.settle
  rw [edges_of_levels h]
  simp

theorem latch_event {s0 : State} {f : State → State} (h : ∀ g, (f s0).genLevel g = s0.genLevel g) (z : Nat) :
    ((State.event f s0).zst z).latch = ((f s0).zst z).latch := by
  rw [latch_of_view (holdView_event h) z, zst_evalUserHolds]
  split <;> rfl

/-! ### What no small update touches -/

/-- What management keeps: the open request, the pointer, the tables, the mask, the straps and the held inputs. -/
structure Desk where
  req : Option Request
  ptr : Table × Nat
  tab : Tables
  mask : BitVec 22
  inputs : Vector (BitVec 4) 48
  addr : Nat
  rate : Nat

def State.desk (s : State) : Desk := ⟨s.req, s.ptr, s.tab, s.mask, s.inputs, s.addr, s.rate⟩

theorem desk_req (s : State) : s.desk.req = s.req := rfl
theorem desk_ptr (s : State) : s.desk.ptr = s.ptr := rfl
theorem desk_tab (s : State) : s.desk.tab = s.tab := rfl

theorem calm_desk (d : Desk) : Calm fun s => s.desk = d where
  startUp hs := hs
  placeHeld {s} hs := by
    have : s.placeHeld.desk = s.desk := by
      unfold State.placeHeld
      split
      · rfl
      · split <;> rfl
    exact this.trans hs
  buildNotice {s} hs := by
    have : s.buildNotice.desk = s.desk := by unfold State.buildNotice; split <;> rfl
    exact this.trans hs
  startDn hs := hs
  placeLimit _ _ _ hs := hs
  placeCommands _ _ hs := hs
  queueNotice _ _ hs := hs
  dropNotice hs := hs
  handRaw {s} a v _ hs := by
    have : (s.handRaw a v).desk = s.desk := by
      unfold State.handRaw
      split
      · rfl
      · dsimp only
        split <;> rfl
    exact this.trans hs
  handAny {s} a v _ hs := by
    have : (s.handRaw a v).desk = s.desk := by
      unfold State.handRaw
      split
      · rfl
      · dsimp only
        split <;> rfl
    exact this.trans hs
  modEv _ hs := hs
  putZs _ _ _ hs := hs
  putBerth _ _ _ hs := hs
  putNode _ _ _ hs := hs
  modBoat {s} b f _ hs := by
    have : (s.modBoat b f).desk = s.desk := by unfold State.desk; simp
    exact this.trans hs
  putRel {s} b x hs := by
    have : (s.putRel b x).desk = s.desk := by unfold State.desk; simp
    exact this.trans hs
  filterQueue _ hs := hs
  putSeq _ _ _ _ hs := hs
  driveLines hs := hs
  bump _ hs := hs
  useFree hs := hs
  putRun _ _ hs := hs
  setQueue _ _ hs := hs
  looseZs _ _ _ hs := hs
  looseBerth _ _ hs := hs
  looseSeq _ _ _ hs := hs
  loosePulse _ _ hs := hs
  tripBoat {s} b f _ hs := by
    have : (s.modBoat b f).desk = s.desk := by unfold State.desk; simp
    exact this.trans hs
  modMc _ hs := hs

@[simp] theorem desk_event (f : State → State) (s : State) : (State.event f s).desk = (f s).desk :=
  (calm_desk (f s).desk).toMild.event rfl

/-! ### A record that begins a request -/

/-- A request that has had no record yet. -/
def Request.fresh : Request := ⟨[], none, none, false, false⟩

/-- At moment `t` a request is opened. -/
def State.opened (s : State) (t : Nat) : State := { s.at_ t with req := some .fresh }

/-- The open request has this one result. -/
def State.withResult (s : State) (r : MgmtResult) : State := { s with req := some ⟨[r], none, none, false, false⟩ }

/-- A record that is carried out when it is taken, not kept for later (R173, R175, R181). -/
def MgmtRecord.immediate : MgmtRecord → Bool
  | .selectTable _ => false
  | .selectIndex _ => false
  | .reset _ => false
  | _ => true

theorem openRequest_free {s : State} (h : s.requestFree) (t : Nat) : (s.at_ t).openRequest = s.opened t := by
  unfold State.openRequest
  rw [show (s.at_ t).req = none from h.1]
  exact if_neg (by rw [show (s.at_ t).held = none from h.2]; decide)

theorem takeRecord_fresh {s : State} {m : MgmtRecord} (hr : s.req = some .fresh) (hm : m.immediate = true) :
    s.takeRecord m = (s.carry m).1.withResult (s.carry m).2 := by
  unfold State.takeRecord
  rw [hr]
  cases m with
  | selectTable _ => cases hm
  | selectIndex _ => cases hm
  | reset _ => cases hm
  | _ => rfl

/-- A management record that begins a request is one event: its effect, with its result. -/
theorem completes_carry {c : Instr} {s v : State} {t : Nat} {m : MgmtRecord} {r : MgmtResult} {Q : State → Prop}
    (hc : exec c s = s.manage t false m) (hf : s.requestFree) (hm : m.immediate = true) (hv : (s.opened t).carry m = (v, r))
    (hQ : Q (State.event (fun _ => v.withResult r) (s.at_ t))) : Completes c s Q := by
  have h : (s.at_ t).openRequest.takeRecord m = v.withResult r := by
    rw [openRequest_free hf, takeRecord_fresh rfl hm, hv]
  refine ⟨State.event (fun _ => v.withResult r) (s.at_ t), ?_, hQ⟩
  rw [hc]
  unfold State.manage
  rw [event_congr (f := fun s => s.openRequest.takeRecord m) (g := fun _ => v.withResult r) h]
  rfl

/-- The result stands in the request when the event has ended. -/
theorem answered_event (s v : State) (r : MgmtResult) : (State.event (fun _ => v.withResult r) s).answered r := by
  unfold State.answered
  rw [← desk_req, desk_event]
  rfl

end Sys2Proof.Machine
end

section
/-! PLACE_BOAT, RETIRE_BOAT, SET_ROUTE and CLEAR_ZONE (R15, R21 to R23): settles O55. -/

namespace Sys2Proof.Machine

/-! ### What the end of an event leaves of the boat register -/

theorem mild_present (v : Nat → Bool) : Mild fun t => ∀ n, (t.boatR n).isSome = v n := by
  have changed : ∀ {s : State} c f, (∀ n, (s.boatR n).isSome = v n) → ∀ n, ((s.modBoat c f).boatR n).isSome = v n := by
    intro s c f hs n
    rw [boatR_modBoat]
    split
    · next h => rw [Option.isSome_map, h]; exact hs c
    · exact hs n
  exact mild_of_boats (fun hs h => by unfold State.boatR at *; rw [h]; exact hs) (fun c f _ hs => changed c f hs) fun c f _ hs => changed c f hs

theorem mild_retired (b : Nat) : Mild fun t => t.boatR b = none := by
  have changed : ∀ {s : State} c f, s.boatR b = none → (s.modBoat c f).boatR b = none := by
    intro s c f hs
    rw [boatR_modBoat]
    split
    · next h => rw [← h, hs]; rfl
    · exact hs
  exact mild_of_boats (fun hs h => by unfold State.boatR at *; rw [h]; exact hs) (fun c f _ hs => changed c f hs) fun c f _ hs => changed c f hs

theorem mild_routes (v : Nat → Option Route) : Mild fun t => ∀ n, (t.boatR n).map Boat.route = v n :=
  mild_register (fun _ _ h => h.keeps.2.1) (fun _ _ h => h.keeps.2.1) v

theorem mild_routeAt (b z : Nat) (r : Route) : Mild fun t => ∃ y, t.boatR b = some y ∧ y.route = r ∧ y.zone = z :=
  mild_of_boat
    (fun x y hxy h => by obtain ⟨_, hr, hz, _⟩ := hxy.keeps; exact ⟨hr.trans h.1, hz.trans h.2⟩)
    (fun x y hxy h => by obtain ⟨_, hr, hz, _⟩ := hxy.keeps; exact ⟨hr.trans h.1, hz.trans h.2⟩)

/-! ### Records that are refused -/

/-- A record that changes nothing: its result stands in the request, and what the end of an event leaves alone is as before. -/
theorem completes_refused {c : Instr} {s : State} {t : Nat} {m : MgmtRecord} {r : MgmtResult} {Q : State → Prop}
    (hc : exec c s = s.manage t false m) (hf : s.requestFree) (hm : m.immediate = true) (hv : (s.opened t).carry m = (s.opened t, r))
    (hQ : ∀ u : State, u.answered r → (∀ {P : State → Prop}, Mild P → P ((s.opened t).withResult r) → P u) → Q u) :
    Completes c s Q :=
  completes_carry hc hf hm hv (hQ _ (answered_event _ _ _) fun h hs => h.event hs)

theorem placeBoat_refused {s : State} {b c z r : Nat} {code : Code} (h : s.placeResult b c z r = code) (hne : code ≠ .ok) :
    s.carry (.placeBoat b c z r) = (s, .plain code) := by
  show plainOf (s.placeBoat b c z r) = _
  unfold State.placeBoat
  dsimp only
  rw [h, if_pos hne]
  rfl

theorem completes_placeRefused {s : State} {t b c z r : Nat} {code : Code} (hf : s.requestFree)
    (h : (s.opened t).placeResult b c z r = code) (hne : code ≠ .ok) :
    Completes (.placeBoat t false b c z r) s fun u => u.answered (.plain code) ∧ ∀ n, (u.boatR n).isSome = (s.boatR n).isSome :=
  completes_refused rfl hf rfl (placeBoat_refused h hne) fun _ hu keep => ⟨hu, keep (mild_present _) fun _ => rfl⟩

theorem retireBoat_refused {s : State} {b : Nat} {code : Code} (h : s.retireResult b = code) (hne : code ≠ .ok) :
    s.carry (.retireBoat b) = (s, .plain code) := by
  show plainOf (s.retireBoat b) = _
  unfold State.retireBoat
  dsimp only
  rw [h]
  split
  · rfl
  · rw [if_pos hne]
    rfl

theorem setRoute_refused {s : State} {b r : Nat} (h : s.boatR b = none ∨ 1 < r) : s.carry (.setRoute b r) = (s, .plain .value) := by
  show plainOf (s.setRoute b r) = _
  unfold State.setRoute
  split
  · next hb hr =>
    rcases h with h | h
    · rw [h] at hb; cases hb
    · match r, h with
      | _ + 2, _ => cases hr
  · rfl

/-! ### PLACE_BOAT -/

theorem placeResult_config {s : State} {b c z r : Nat} (hm : s.mode = .config) : s.placeResult b c z r =
    if b < 1 ∨ 24 < b ∨ 3 < c ∨ 1 < r ∨ 63 < z then .value
    else if !s.stoppable z then .value
    else if (s.boatR b).isSome then .conflict
    else if (s.occupant z).isSome ∨ (s.zst z).reserved.isSome then .conflict
    else .ok := by
  unfold State.placeResult
  rw [hm]

/-- The state after an accepted PLACE_BOAT (R21). -/
theorem placeBoat_ok {s : State} {b c z r : Nat} (h : s.placeResult b c z r = .ok) : s.carry (.placeBoat b c z r) =
    (((s.putBoat b (some (Boat.placed c z ((Route.ofCode r).getD .main) s.now))).modZs z fun q => { q with occupant := some b }).toBerth z
      State.berthArrive, .plain .ok) := by
  show plainOf (s.placeBoat b c z r) = _
  unfold State.placeBoat
  dsimp only
  rw [h, if_neg (by simp)]
  rfl

@[simp] theorem boats_toBerthArrive (s : State) (z : Nat) : (s.toBerth z State.berthArrive).boats = s.boats := by
  unfold State.toBerth
  split
  · rfl
  · exact boats_berthArrive _ _

/-- A boat that was placed stands where it was placed, and waits there (R21). -/
theorem completes_placed {s : State} {t b c z r : Nat} (hf : s.requestFree) (hm : s.mode = .config) (hb : 1 ≤ b ∧ b ≤ 24) (hz : z < 64)
    (h : (s.opened t).placeResult b c z r = .ok) :
    Completes (.placeBoat t false b c z r) s fun u => u.answered (.plain .ok) ∧ u.occupant z = some b ∧
      u.boatR b = some (Boat.placed c z ((Route.ofCode r).getD .main) (max s.now t)) := by
  refine completes_carry rfl hf rfl (placeBoat_ok h) ⟨answered_event _ _ _, ?_, ?_⟩
  · refine ((calm_occupants _).toMild.event (fun _ => rfl) z).trans ?_
    refine (occupant_of_view (holdView_toBerth _ z holdView_berthArrive) z).trans ?_
    unfold State.occupant
    rw [zst_modZs, if_pos ⟨rfl, hz⟩]
  · have hstays : State.stays (State.withResult ((((s.opened t).putBoat b
        (some (Boat.placed c z ((Route.ofCode r).getD .main) (s.opened t).now))).modZs z fun q => { q with occupant := some b }).toBerth z
          State.berthArrive) (.plain .ok)) b (· = Boat.placed c z ((Route.ofCode r).getD .main) (max s.now t)) := by
      refine State.stays.same (s := (s.opened t).putBoat b (some (Boat.placed c z ((Route.ofCode r).getD .main) (s.opened t).now)))
        ⟨_, ?_, by simp [Boat.placed], rfl⟩ (boats_toBerthArrive _ z)
      rw [boatR_putBoat, if_pos ⟨rfl, hb⟩]
      rfl
    have hmode : (State.withResult ((((s.opened t).putBoat b
        (some (Boat.placed c z ((Route.ofCode r).getD .main) (s.opened t).now))).modZs z fun q => { q with occupant := some b }).toBerth z
          State.berthArrive) (.plain .ok)).mc = s.mc := by
      refine (mc_of_view (holdView_toBerth _ z holdView_berthArrive)).trans ?_
      exact (mc_of_view (holdView_putBoat (s.opened t) b (some (Boat.placed c z ((Route.ofCode r).getD .main) (s.opened t).now))) :)
    obtain ⟨y, hy, _, rfl⟩ := State.stays.event (s := s.at_ t) (f := fun _ => _) hstays (by
      show State.mode _ ≠ _
      unfold State.mode at *
      rw [hmode, hm]
      decide)
    exact hy

/-! ### RETIRE_BOAT -/

theorem retireBoat_ok {s : State} {b : Nat} {x : Boat} (hx : s.boatR b = some x) (h : s.retireResult b = .ok) :
    s.carry (.retireBoat b) = ((((s.modZs x.zone fun q => { q with occupant := none, watch := none }).putBoat b none).toBerth x.zone
      State.berthRetired).runLeft x.zone, .plain .ok) := by
  show plainOf (s.retireBoat b) = _
  unfold State.retireBoat
  dsimp only
  rw [h]
  split
  · next hn => rw [hx] at hn; cases hn
  · next y hy =>
    rw [hx] at hy
    cases hy
    rw [if_neg (by simp)]
    rfl

theorem zst_vacated (s : State) (z : Nat) :
    (s.modZs z fun q => { q with occupant := none, watch := none }).zst z = { s.zst z with occupant := none, watch := none } := by
  rw [zst_modZs]
  by_cases hz : z < 64
  · rw [if_pos ⟨rfl, hz⟩]
  · rw [if_neg fun h => hz h.2, zst_outside s hz]
    rfl

theorem completes_retired {s : State} {t b : Nat} {x : Boat} (hf : s.requestFree) (hx : s.boatR b = some x)
    (h : (s.opened t).retireResult b = .ok) :
    Completes (.retireBoat t false b) s fun u =>
      u.answered (.plain .ok) ∧ u.boatR b = none ∧ u.occupant x.zone = none ∧ (u.zst x.zone).watch = none := by
  have hzst : (((s.opened t).modZs x.zone fun q => { q with occupant := none, watch := none }).putBoat b none).zst x.zone =
      { s.zst x.zone with occupant := none, watch := none } := by
    unfold State.zst
    rw [putBoat_zs]
    exact zst_vacated (s.opened t) x.zone
  have hboat : (((s.opened t).modZs x.zone fun q => { q with occupant := none, watch := none }).putBoat b none).boatR b = none := by
    rw [boatR_putBoat, if_pos ⟨rfl, boatR_range s hx⟩]
  generalize hv : (((s.opened t).modZs x.zone fun q => { q with occupant := none, watch := none }).putBoat b none) = v at hzst hboat
  have hok := retireBoat_ok (s := s.opened t) hx h
  rw [hv] at hok
  have hwatch : (v.zst x.zone).watch = none := by rw [hzst]
  have hocc : (((v.toBerth x.zone State.berthRetired).runLeft x.zone)).occupant x.zone = none := by
    rw [occupant_of_view (holdView_runLeft _ x.zone), occupant_of_view (holdView_toBerth _ _ holdView_berthRetired)]
    unfold State.occupant
    rw [hzst]
  have keep : ∀ {P : State → Prop}, Mild P → P v → P ((v.toBerth x.zone State.berthRetired).runLeft x.zone) := fun h hs =>
    h.runLeft h.putRun _ (Base.toBerth _ (fun b' => h.berthRetired b') hs)
  have hboat' := keep (mild_retired b) hboat
  have hwatch' := keep (mild_unwatched x.zone) hwatch
  generalize (v.toBerth x.zone State.berthRetired).runLeft x.zone = w at hok hocc hboat' hwatch'
  exact completes_carry rfl hf rfl hok ⟨answered_event _ _ _, (mild_retired b).event hboat',
    ((calm_occupants w.occupant).toMild.event (fun _ => rfl) x.zone).trans hocc, (mild_unwatched x.zone).event hwatch'⟩

/-! ### CLEAR_ZONE -/

/-- CLEAR_ZONE of a defined zone touches nothing that holds and lines rest on but the zone's latch (R15). -/
theorem holdView_clearDefined (s : State) (z : Nat) :
    (s.clearDefined z).holdView = (s.modZs z fun q => { q with fault := none, latch := false }).holdView := by
  unfold State.clearDefined
  dsimp only
  refine (holdView_toBerth _ z holdView_berthCleared).trans ?_
  split
  · rfl
  · split
    · exact (holdView_startWatch _ z).trans (holdView_modBoat _ _ _)
    · rfl

theorem fault_startWatch (s : State) (z w : Nat) : ((s.startWatch z).zst w).fault = (s.zst w).fault := by
  rw [zst_startWatch]
  split
  · next h => rw [h.1]
  · rfl

theorem fault_clearDefined (s : State) {z : Nat} (hz : z < 64) (w : Nat) :
    ((s.clearDefined z).zst w).fault = if w = z then none else (s.zst w).fault := by
  have hb : ∀ t : State, (t.toBerth z State.berthCleared).zst w = t.zst w := fun t => by
    unfold State.zst
    rw [zs_toBerthCleared]
  have h1 : ((s.modZs z fun q => { q with fault := none, latch := false }).zst w).fault = if w = z then none else (s.zst w).fault := by
    rw [zst_modZs]
    by_cases hw : w = z <;> simp [hw, hz]
  unfold State.clearDefined
  dsimp only
  rw [hb]
  split
  · exact h1
  · split
    · rw [fault_startWatch, zst_modBoat]
      exact h1
    · exact h1

@[simp] theorem boats_toBerthCleared (s : State) (z : Nat) : (s.toBerth z State.berthCleared).boats = s.boats := by
  unfold State.toBerth State.berthCleared State.berthDerive
  split
  · rfl
  · split
    · split <;> rfl
    · rfl

/-- The occupant of a zone that is cleared is not overdue (R15). -/
theorem overdue_clearDefined {s : State} {z b : Nat} {x : Boat} (ho : s.occupant z = some b) (hx : s.boatR b = some x) :
    ∃ y, (s.clearDefined z).boatR b = some y ∧ y.overdue = false := by
  have hocc : (s.modZs z fun q => { q with fault := none, latch := false }).occupant z = some b := by
    unfold State.occupant at *
    rw [zst_modZs, if_pos ⟨rfl, occupant_range ho⟩]
    exact ho
  have hboat : (s.modZs z fun q => { q with fault := none, latch := false }).boatR b = some x := hx
  have hend : ∀ t : State, (t.toBerth z State.berthCleared).boatR b = t.boatR b := fun t => by
    unfold State.boatR
    rw [boats_toBerthCleared]
  unfold State.clearDefined
  dsimp only
  rw [hend, hocc, Option.bind_some, hboat]
  dsimp only [Option.map_some]
  by_cases hov : x.overdue = true
  · rw [if_pos hov]
    refine ⟨{ x with overdue := false }, ?_, rfl⟩
    unfold State.boatR
    rw [boats_startWatch]
    exact (boatR_modBoat _ b b _).trans (by rw [if_pos rfl, hboat]; rfl)
  · rw [if_neg hov]
    exact ⟨x, hboat, by simpa using hov⟩

theorem completes_cleared {s : State} {t z : Nat} (hf : s.requestFree) (hd : (s.zoneE z).isSome = true) :
    Completes (.clearZone t false z) s fun u =>
      u.answered (.plain .ok) ∧ (u.zst z).fault = none ∧ (u.zst z).latch = false ∧ u.occupant z = s.occupant z ∧
      u.mc = s.mc ∧ (∀ w, w ≠ z → (u.zst w).fault = (s.zst w).fault) ∧
      ∀ b x, s.occupant z = some b → s.boatR b = some x → ∃ y, u.boatR b = some y ∧ y.overdue = false := by
  have hz := zoneE_range hd
  have hv : (s.opened t).carry (.clearZone z) = ((s.opened t).clearDefined z, .plain .ok) := by
    show plainOf ((s.opened t).clearZone z) = _
    unfold State.clearZone
    rw [if_neg (by cases h : s.zoneE z <;> simp_all [State.opened, State.zoneE])]
    rfl
  have hview : (((s.opened t).clearDefined z).withResult (.plain .ok)).holdView = _ := holdView_clearDefined (s.opened t) z
  have hfault : ∀ w, ((((s.opened t).clearDefined z).withResult (.plain .ok)).zst w).fault = if w = z then none else (s.zst w).fault :=
    fun w => fault_clearDefined (s.opened t) hz w
  have hover : ∀ b x, s.occupant z = some b → s.boatR b = some x → ∃ y,
      (((s.opened t).clearDefined z).withResult (.plain .ok)).boatR b = some y ∧ y.overdue = false :=
    fun b x ho hx => overdue_clearDefined (s := s.opened t) ho hx
  have hocc : ∀ w, (((s.opened t).clearDefined z).withResult (.plain .ok)).occupant w = s.occupant w := fun w => by
    rw [occupant_of_view hview w]
    unfold State.occupant
    rw [zst_modZs]
    split
    · next h => rw [h.1]; rfl
    · rfl
  have hlatch : ((((s.opened t).clearDefined z).withResult (.plain .ok)).zst z).latch = false := by
    rw [latch_of_view hview z, zst_modZs, if_pos ⟨rfl, hz⟩]
  have hmc : (((s.opened t).clearDefined z).withResult (.plain .ok)).mc = s.mc := (mc_of_view hview).trans rfl
  have hlevel : ∀ g, (((s.opened t).clearDefined z).withResult (.plain .ok)).genLevel g = (s.at_ t).genLevel g :=
    genLevel_congr hmc (congrArg HoldView.inputs hview) (fun n => (roster_of_view hview n).trans rfl) hocc
  refine completes_carry rfl hf rfl hv ⟨answered_event _ _ _, ?_⟩
  generalize ((s.opened t).clearDefined z).withResult (.plain .ok) = v at *
  refine ⟨(mild_fault z none).event ((hfault z).trans (if_pos rfl)), (latch_event (f := fun _ => v) hlevel z).trans hlatch,
    (calm_occupants s.occupant).toMild.event hocc z, (mc_event _ _).trans hmc,
    fun w hw => (mild_fault w _).event ((hfault w).trans (if_neg hw)), fun b x ho hx => (mild_overdue b false).event (hover b x ho hx)⟩

/-! ### The four records -/

theorem retireResult_refused {s : State} {b : Nat} (hm : s.mode = .checking) : s.retireResult b = .busy := by
  unfold State.retireResult
  rw [hm]

theorem retireResult_mode {s : State} {b : Nat} (hm : s.mode = .run ∨ s.mode = .stop) : s.retireResult b = .mode := by
  unfold State.retireResult
  rcases hm with hm | hm <;> rw [hm]

theorem retireResult_unknown {s : State} {b : Nat} (hm : s.mode = .config ∨ s.mode = .hold) (hb : s.boatR b = none) :
    s.retireResult b = .value := by
  unfold State.retireResult
  rcases hm with hm | hm
  · rw [hm]; dsimp only; rw [hb]
  · rw [hm]; dsimp only; rw [hb]

theorem retireResult_known {s : State} {b : Nat} {x : Boat} (hm : s.mode = .config ∨ s.mode = .hold) (hb : s.boatR b = some x) :
    s.retireResult b = if x.state = .waiting then .ok else .conflict := by
  unfold State.retireResult
  rcases hm with hm | hm
  · rw [hm]; dsimp only; rw [hb]
  · rw [hm]; dsimp only; rw [hb]

theorem setRoute_ok {s : State} {b r : Nat} {x : Boat} (hx : s.boatR b = some x) (hr : r ≤ 1) :
    s.carry (.setRoute b r) = (s.modBoat b fun x => { x with route := if r = 0 then .main else .bay }, .plain .ok) := by
  show plainOf (s.setRoute b r) = _
  unfold State.setRoute
  rw [hx]
  interval_cases r <;> rfl

theorem completes_retireRefused {s : State} {t b : Nat} {code : Code} (hf : s.requestFree)
    (h : (s.opened t).retireResult b = code) (hne : code ≠ .ok) {Q : State → Prop}
    (hQ : ∀ u : State, u.answered (.plain code) → (u.boatR b).isSome = (s.boatR b).isSome → Q u) :
    Completes (.retireBoat t false b) s Q :=
  completes_refused rfl hf rfl (retireBoat_refused h hne) fun u hu keep =>
    hQ u hu (keep (mild_present fun n => (s.boatR n).isSome) (fun _ => rfl) b)

/-- Where boats may be retired, the register decides (R22). -/
theorem completes_retireFree {s : State} {t b : Nat} (hf : s.requestFree) (hm : s.mode = .config ∨ s.mode = .hold) :
    Completes (.retireBoat t false b) s fun u => (s.boatR b = none → u.answered (.plain .value)) ∧
      ∀ x, s.boatR b = some x → x.state ≠ .waiting → u.answered (.plain .conflict) ∧ (u.boatR b).isSome = true := by
  cases hx : s.boatR b with
  | none =>
    exact completes_retireRefused hf (retireResult_unknown (s := s.opened t) hm hx) (by decide) fun u hu _ =>
      ⟨fun _ => hu, nofun⟩
  | some x =>
    have hr := retireResult_known (s := s.opened t) hm hx
    by_cases hw : x.state = .waiting
    · obtain ⟨u, hu, _⟩ := completes_retired hf hx (hr.trans (if_pos hw))
      refine ⟨u, hu, nofun, fun y hy hne => ?_⟩
      cases hy
      exact absurd hw hne
    · exact completes_retireRefused hf (hr.trans (if_neg hw)) (by decide) fun u hu hp =>
        ⟨nofun, fun _ _ _ => ⟨hu, by rw [hp, hx]; rfl⟩⟩

/-- Settles O55: each record is carried out as the only one of its request, and what it gives is kept to the end of the event. -/
theorem boatAndZoneRecords : Obligations.BoatAndZoneRecords := by
  refine ⟨fun t b c z r s hf hm => completes_placeRefused hf ?_ (by decide), fun t b c z r s hf hm => completes_placeRefused hf ?_ (by decide),
    fun t b c z r s hf hm h => completes_placeRefused hf ?_ (by decide),
    fun t b c z r s hf hm hb1 hb2 hc hr hst h => completes_placeRefused hf ?_ (by decide),
    fun t b c z r s hf hm hb1 hb2 hc hr hst hnb hno hnr => ?_, fun t b x s hf hm hx hw => completes_retired hf hx ?_,
    fun t b s hf => ?_, fun t b r x s hf hx hr => ?_, fun t b r s hf h => ?_, fun t z s hf hd => completes_cleared hf hd, fun t z s hf hd => ?_⟩
  · unfold State.placeResult
    rw [show (s.opened t).mode = .checking from hm]
  · unfold State.placeResult
    rcases hm with hm | hm | hm <;> rw [show (s.opened t).mode = _ from hm]
  · rw [placeResult_config (s := s.opened t) hm]
    by_cases hst : s.stoppable z = true
    · rw [if_pos ?_]
      simp only [hst, Bool.true_eq_false, or_false] at h
      omega
    · have hst' : (s.opened t).stoppable z = false := Bool.eq_false_iff.mpr hst
      rw [hst']
      simp
  · have hz := stoppable_range hst
    rw [placeResult_config (s := s.opened t) hm, if_neg (by omega), show (s.opened t).stoppable z = true from hst]
    rcases h with h | h | h
    · rw [if_neg (by decide), if_pos (show ((s.opened t).boatR b).isSome = true from h)]
    · rw [if_neg (by decide)]
      split
      · rfl
      · rw [if_pos (.inl (show ((s.opened t).occupant z).isSome = true from h))]
    · rw [if_neg (by decide)]
      split
      · rfl
      · rw [if_pos (.inr (show (((s.opened t).zst z).reserved).isSome = true from h))]
  · have hz := stoppable_range hst
    have hok : (s.opened t).placeResult b c z r = .ok := by
      rw [placeResult_config (s := s.opened t) hm, if_neg (by omega), show (s.opened t).stoppable z = true from hst,
        show (s.opened t).boatR b = none from hnb, show (s.opened t).occupant z = none from hno,
        show ((s.opened t).zst z).reserved = none from hnr]
      rfl
    have hroute : (Route.ofCode r).getD .main = if r = 0 then .main else .bay := by interval_cases r <;> rfl
    have h := completes_placed hf hm ⟨hb1, hb2⟩ hz hok
    rw [hroute] at h
    exact h
  · rw [retireResult_known (s := s.opened t) hm hx, if_pos hw]
  · cases hm : s.mode with
    | checking =>
      exact completes_retireRefused hf (retireResult_refused (s := s.opened t) hm) (by decide) fun u hu hp =>
        ⟨fun _ => ⟨hu, hp⟩, by simp, by simp, by simp⟩
    | run =>
      exact completes_retireRefused hf (retireResult_mode (s := s.opened t) (.inl hm)) (by decide) fun u hu hp =>
        ⟨by simp, fun _ => ⟨hu, hp⟩, by simp, by simp⟩
    | stop =>
      exact completes_retireRefused hf (retireResult_mode (s := s.opened t) (.inr hm)) (by decide) fun u hu hp =>
        ⟨by simp, fun _ => ⟨hu, hp⟩, by simp, by simp⟩
    | config =>
      obtain ⟨u, hu, h1, h2⟩ := completes_retireFree (t := t) hf (.inl hm)
      exact ⟨u, hu, by simp, by simp, fun _ => h1, fun x _ => h2 x⟩
    | hold =>
      obtain ⟨u, hu, h1, h2⟩ := completes_retireFree (t := t) hf (.inr hm)
      exact ⟨u, hu, by simp, by simp, fun _ => h1, fun x _ => h2 x⟩
  · refine completes_carry rfl hf rfl (setRoute_ok (s := s.opened t) hx hr) ⟨answered_event _ _ _, ?_, fun n hn => ?_⟩
    · refine (mild_routeAt b x.zone _).event ⟨{ x with route := if r = 0 then .main else .bay }, ?_, rfl, rfl⟩
      exact (boatR_modBoat (s.opened t) b b _).trans (by rw [if_pos rfl, show (s.opened t).boatR b = some x from hx]; rfl)
    · refine ((mild_routes fun n => (((s.opened t).modBoat b fun x =>
        { x with route := if r = 0 then .main else .bay }).boatR n).map Boat.route).event (fun _ => rfl) n).trans ?_
      rw [boatR_modBoat, if_neg hn]
      rfl
  · exact completes_refused rfl hf rfl (setRoute_refused (s := s.opened t) h) fun u hu keep => ⟨hu, keep (mild_routes _) fun _ => rfl⟩
  · refine completes_refused rfl hf rfl (?_ : (s.opened t).carry (.clearZone z) = (s.opened t, .plain .value)) fun u hu keep =>
      ⟨hu, fun w => keep (mild_fault w _) rfl⟩
    show plainOf ((s.opened t).clearZone z) = _
    unfold State.clearZone
    rw [show (s.opened t).zoneE z = none from hd]
    rfl

end Sys2Proof.Machine
end

section
/-! A WRITE: its tests, the state it leaves, and what its event leaves of that (R176). -/

namespace Sys2Proof.Machine

/-! ### Writes that are refused -/

/-- Tests 1 to 4 refuse the image (R176). -/
theorem write_refused {s : State} {img : List Byte} {c : Code} (h : s.writeRefusal img = some c) :
    s.carry (.write img) = (s, .plain c) := by
  show plainOf (s.writeEntry img) = _
  unfold State.writeEntry
  rw [h]
  rfl

/-- Tests 5 and 6 refuse the image (R176). -/
theorem write_unstored {s : State} {img : List Byte} {c : Code} (h : s.writeRefusal img = none)
    (hst : s.storeEntry s.ptr.1 s.ptr.2 img = (s, c)) (hc : c = .value ∨ c = .conflict) :
    s.carry (.write img) = (s, .plain c) := by
  show plainOf (s.writeEntry img) = _
  unfold State.writeEntry
  rw [h]
  dsimp only
  rw [hst, if_neg (by rcases hc with rfl | rfl <;> simp)]
  rfl

/-- A WRITE that is not taken leaves the tables and the pointer alone. -/
theorem completes_unwritten {s : State} {t : Nat} {img : List Byte} {c : Code} (hf : s.requestFree)
    (h : (s.opened t).carry (.write img) = (s.opened t, .plain c)) :
    Completes (.write t false img) s fun u => u.answered (.plain c) ∧ u.tab = s.tab ∧ u.ptr = s.ptr := by
  refine completes_refused rfl hf rfl h fun u hu keep => ⟨hu, ?_⟩
  have hd : u.desk = _ := keep (calm_desk ((s.opened t).withResult (.plain c)).desk).toMild rfl
  rw [← desk_tab, ← desk_ptr, hd]
  exact ⟨rfl, rfl⟩

theorem writeRefusal_readOnly {s : State} {img : List Byte} (h : 12 ≤ s.ptr.1.code) : s.writeRefusal img = some .readOnly := by
  unfold State.writeRefusal Table.readOnly
  simp [h]

theorem writeRefusal_busy {s : State} {img : List Byte} (h : s.ptr.1.code < 10) (hm : s.mode = .checking) :
    s.writeRefusal img = some .busy := by
  unfold State.writeRefusal Table.readOnly Table.configuration
  simp [h, hm, show ¬ 12 ≤ s.ptr.1.code by omega]

theorem writeRefusal_mode {s : State} {img : List Byte} (h : s.ptr.1.code < 10) (ht : s.ptr.1 ≠ .stage)
    (hm : s.mode = .run ∨ s.mode = .hold ∨ s.mode = .stop) : s.writeRefusal img = some .mode := by
  unfold State.writeRefusal Table.readOnly Table.configuration
  rcases hm with hm | hm | hm <;> simp [h, hm, ht, show ¬ 12 ≤ s.ptr.1.code by omega]

theorem trimOnly_iff {s : State} {i : Nat} {img : List Byte} :
    s.trimOnly i img = true ↔ byteAt img 0 = (s.stageE i).fin ∧ wordAt img 1 = (s.stageE i).nominal := by
  unfold State.trimOnly
  simp

theorem writeRefusal_trim {s : State} {img : List Byte} (ht : s.ptr.1 = .stage) (hm : s.mode = .run ∨ s.mode = .hold ∨ s.mode = .stop)
    (h : s.trimOnly s.ptr.2 img = false) : s.writeRefusal img = some .mode := by
  unfold State.writeRefusal
  rcases hm with hm | hm | hm <;> simp [hm, ht, h, Table.readOnly, Table.configuration, Table.code]

theorem writeRefusal_config {s : State} {img : List Byte} (hm : s.mode = .config) (h : s.ptr.1.code < 12) :
    s.writeRefusal img = none := by
  unfold State.writeRefusal Table.readOnly
  simp [hm, h]

theorem writeRefusal_stage {s : State} {img : List Byte} (ht : s.ptr.1 = .stage) (hm : s.mode ≠ .checking)
    (h : s.trimOnly s.ptr.2 img = true) : s.writeRefusal img = none := by
  unfold State.writeRefusal
  cases hmode : s.mode <;> simp_all [Table.readOnly, Table.configuration, Table.code]

/-- CHANNEL and USER are written in every mode (R176). -/
theorem writeRefusal_matrix {s : State} {img : List Byte} (ht : s.ptr.1 = .channel ∨ s.ptr.1 = .user) : s.writeRefusal img = none := by
  unfold State.writeRefusal
  rcases ht with ht | ht <;> simp [ht, Table.readOnly, Table.configuration, Table.code]

/-! ### Conflicts -/

theorem otherHas_true {α : Type} {n i j : Nat} {entry : Nat → Option α} {p : α → Bool} {y : α} (hj : j < n) (hne : j ≠ i)
    (hy : entry j = some y) (hp : p y = true) : otherHas n i entry p = true := by
  unfold otherHas
  rw [List.any_eq_true]
  exact ⟨j, List.mem_range.mpr hj, by simp [hne, hy, hp]⟩

theorem otherHas_false {α : Type} {n i : Nat} {entry : Nat → Option α} {p : α → Bool}
    (h : ∀ j y, j ≠ i → entry j = some y → p y = false) : otherHas n i entry p = false := by
  unfold otherHas
  rw [List.any_eq_false]
  intro j _
  cases hy : entry j with
  | none => simp
  | some y =>
    by_cases hj : j = i
    · simp [hj]
    · simp [h j y hj hy]

/-! ### Writes that are taken -/

/-- The code of a WRITE that is taken (R176). -/
def storedCode (clamped : Bool) : Code := if clamped then .okClamped else .ok

/-- What a WRITE's event at moment `t` ends with, where the stored entry gave state `v`. -/
def State.written (s : State) (t : Nat) (v : State) (clamped : Bool) : State :=
  State.event (fun _ => v.advance.withResult (.plain (storedCode clamped))) (s.at_ t)

/-- An image that decodes and does not conflict is stored, and the pointer moves on (R176). -/
theorem completes_stored {s : State} {t : Nat} {img : List Byte} {α : Type} {e : α} {clamped : Bool} {conflict : α → Bool}
    {put : α → State} {Q : State → Prop} (hf : s.requestFree) (hr : (s.opened t).writeRefusal img = none)
    (hst : (s.opened t).storeEntry s.ptr.1 s.ptr.2 img = store (s.opened t) (some (e, clamped)) conflict put) (hc : conflict e = false)
    (hQ : Q (s.written t (put e) clamped)) : Completes (.write t false img) s Q := by
  have hentry : (s.opened t).storeEntry (s.opened t).ptr.1 (s.opened t).ptr.2 img = (put e, storedCode clamped) := by
    refine hst.trans ?_
    unfold store
    dsimp only
    rw [hc]
    rfl
  have hwrite : (s.opened t).carry (.write img) = ((put e).advance, .plain (storedCode clamped)) := by
    show plainOf ((s.opened t).writeEntry img) = _
    unfold State.writeEntry
    rw [hr]
    dsimp only
    rw [hentry, if_pos (by unfold storedCode; cases clamped <;> simp)]
    rfl
  exact completes_carry rfl hf rfl hwrite hQ

theorem desk_inputs (s : State) : s.desk.inputs = s.inputs := rfl

section
variable (s : State) (t : Nat) (v : State) (clamped : Bool)

theorem answered_written : (s.written t v clamped).answered (.plain (if clamped then .okClamped else .ok)) := answered_event _ _ _

theorem desk_written : (s.written t v clamped).desk = (v.advance.withResult (.plain (storedCode clamped))).desk := desk_event _ _

@[simp] theorem tab_written : (s.written t v clamped).tab = v.tab := by
  rw [← desk_tab, desk_written]
  rfl

@[simp] theorem inputs_written : (s.written t v clamped).inputs = v.inputs := by
  rw [← desk_inputs, desk_written]
  rfl

@[simp] theorem mc_written : (s.written t v clamped).mc = v.mc := by
  unfold State.written
  rw [mc_event]
  rfl

theorem ptr_written (h : v.ptr = s.ptr) : (s.written t v clamped).ptr = (s.ptr.1, (s.ptr.2 + 1) % s.ptr.1.entries) := by
  rw [← desk_ptr, desk_written]
  show v.advance.ptr = _
  unfold State.advance
  rw [h]

end

/-- An event keeps what the stored entry gave. -/
theorem Mild.written {P : State → Prop} (h : Mild P) (hp : ∀ {t : State} p, P t → P { t with ptr := p })
    (hq : ∀ {t : State} r, P t → P { t with req := r }) (s : State) (t : Nat) {v : State} (clamped : Bool) (hv : P v) :
    P (s.written t v clamped) := h.event (f := fun _ => _) (hq _ (hp _ hv))

/-! ### Where the pointer stays while an entry is stored -/

/-- An update that touches none of it leaves the pointer where it was. -/
theorem ptr_of_desk {s u : State} (h : u.desk = s.desk) : u.ptr = s.ptr := congrArg Desk.ptr h
theorem tab_of_desk {s u : State} (h : u.desk = s.desk) : u.tab = s.tab := congrArg Desk.tab h
theorem inputs_of_desk {s u : State} (h : u.desk = s.desk) : u.inputs = s.inputs := congrArg Desk.inputs h

@[simp] theorem desk_evalNodeHold (s : State) (z : Nat) : (s.evalNodeHold z).desk = s.desk := (calm_desk s.desk).evalNodeHold z rfl
@[simp] theorem desk_hand (s : State) (a : Nat) (v : ActValue) : (s.hand a v).desk = s.desk := by
  have h1 : (s.handRaw a v).desk = s.desk := by
    unfold State.handRaw
    split
    · rfl
    · dsimp only
      split <;> rfl
  exact (calm_desk s.desk).pumpDn h1
@[simp] theorem desk_reportRoster (s : State) (n : Nat) (o w : Roster) : (s.reportRoster n o w).desk = s.desk :=
  (calm_desk s.desk).reportRoster (fun _ h => h) n o w rfl
@[simp] theorem desk_handLimit (s : State) (n : Nat) : (s.handLimit n).desk = s.desk := (calm_desk s.desk).handLimit n rfl
@[simp] theorem desk_rewriteRun (s : State) (r : Nat) : (s.rewriteRun r).desk = s.desk := by
  have h := calm_desk s.desk
  unfold State.rewriteRun
  split
  · rfl
  · exact h.restoreRun h.putRun r (h.putRun _ _ rfl)
@[simp] theorem desk_rewriteBerth (s : State) (b : Nat) (x : Bool) : (s.rewriteBerth b x).desk = s.desk := by
  have h := calm_desk s.desk
  exact h.handBoth b (h.toMild.berthArrive b (h.toMild.berthDerive b (h.looseBerth b _ rfl)))

theorem desk_closeNamedGate (s : State) (e : ZoneEntry) : (s.closeNamedGate e).desk = s.desk := by
  unfold State.closeNamedGate
  split
  · rfl
  · split
    · rfl
    · exact desk_hand _ _ _

theorem desk_storeStage (s : State) (i : Nat) (x : StageEntry) :
    (s.storeStage i x).desk = (s.modTab fun t => { t with stage := t.stage.setIfInBounds i x }).desk := by
  unfold State.storeStage
  dsimp only
  split
  · exact desk_rewriteRun _ _
  · rfl

theorem desk_storeZone (s : State) (i : Nat) (x : Option ZoneEntry) :
    (s.storeZone i x).desk = (s.modTab fun t => { t with zone := t.zone.setIfInBounds i x }).desk := by
  unfold State.storeZone
  dsimp only
  split
  · rfl
  · exact (desk_closeNamedGate _ _).trans (desk_evalNodeHold _ _)

theorem desk_storeBerth (s : State) (i : Nat) (x : Option BerthEntry) :
    (s.storeBerth i x).desk = (s.modTab fun t => { t with berth := t.berth.setIfInBounds i x }).desk := by
  unfold State.storeBerth
  dsimp only
  split
  · rfl
  · exact desk_rewriteBerth _ _ _
  · exact desk_rewriteBerth _ _ _

theorem desk_dropNode (s : State) (n : Nat) : (s.dropNode n).desk = (s.putInputs n 0).desk := desk_reportRoster _ n _ _

/-- The node entry is replaced; the pointer stays (R123). -/
theorem ptr_tab_storeNode (s : State) (i : Nat) (x : Option NodeEntry) : (s.storeNode i x).ptr = s.ptr ∧
    (s.storeNode i x).tab = { s.tab with node := s.tab.node.setIfInBounds i x } := by
  have drop : ∀ v : State, (v.dropNode i).ptr = v.ptr ∧ (v.dropNode i).tab = v.tab := fun v =>
    ⟨congrArg Desk.ptr (desk_dropNode v i), congrArg Desk.tab (desk_dropNode v i)⟩
  have limit : ∀ v : State, (v.handLimit i).ptr = v.ptr ∧ (v.handLimit i).tab = v.tab := fun v =>
    ⟨ptr_of_desk (desk_handLimit v i), tab_of_desk (desk_handLimit v i)⟩
  unfold State.storeNode
  dsimp only
  split
  · split
    · split
      · exact limit _
      · exact ⟨rfl, rfl⟩
    · exact drop _
  · exact drop _

theorem ptr_tab_storeAuth (s : State) (i : Nat) (x : Option AuthEntry) : (s.storeAuth i x).ptr = s.ptr ∧
    (s.storeAuth i x).tab = { s.tab with auth := s.tab.auth.setIfInBounds i x } := by
  unfold State.storeAuth
  dsimp only
  split
  · split <;> exact ⟨rfl, rfl⟩
  · exact ⟨rfl, rfl⟩
  · exact ⟨rfl, rfl⟩

/-- What stands in a table after one of its optional entries was replaced. -/
theorem join_set {α : Type} {n i : Nat} (v : Vector (Option α) n) (x : Option α) (hi : i < n) : ((v.setIfInBounds i x)[i]?).join = x := by
  rw [join_setIfInBounds, if_pos ⟨rfl, hi⟩]

end Sys2Proof.Machine
end

section
/-! What a command does to an actuator and to the command list (R128), and what the end of an event leaves of both where no charge
is in progress. -/

namespace Sys2Proof.Machine

/-! ### A handed command -/

/-- A value of the state that is not touched when a frame of the actuator unit is placed is not touched when it places all it can. -/
theorem pumpDn_view {β : Type} (v : State → β) (hs : ∀ s : State, v s.startDn = v s) (hl : ∀ (s : State) n e, v (s.placeLimit n e) = v s)
    (hc : ∀ (s : State) n, v (s.placeCommands n) = v s) (s : State) : v s.pumpDn = v s := by
  have one : ∀ {s t : State}, s.placeOne = some t → v t = v s := fun {s t} h => by
    unfold State.placeOne at h
    split at h
    · cases h
    · split at h
      · injection h with h
        rw [← h, hl]
      · split at h
        · injection h with h
          rw [← h, hc]
        · cases h
  have frames : ∀ n (s : State), v (State.placeFrames n s) = v s := fun n => by
    induction n with
    | zero => exact fun s => rfl
    | succ n ih =>
      intro s
      unfold State.placeFrames
      split
      · rfl
      · next t ht => rw [ih, one ht]
  unfold State.pumpDn State.fillDn
  rw [frames, hs, frames, hs]

/-- The command list without what says whether an entry was sent (R127). -/
def State.listed (s : State) : List (Nat × ActValue) := s.cmds.map fun c => (c.act, c.value)

theorem mem_listed {s : State} {p : Nat × ActValue} : p ∈ s.listed ↔ ∃ c ∈ s.cmds, c.act = p.1 ∧ c.value = p.2 := by
  unfold State.listed
  rw [List.mem_map]
  constructor
  · rintro ⟨c, hc, rfl⟩
    exact ⟨c, hc, rfl, rfl⟩
  · rintro ⟨c, hc, h1, h2⟩
    exact ⟨c, hc, by rw [h1, h2]⟩

theorem listed_placeCommands (s : State) (n : Nat) : (s.placeCommands n).listed = s.listed := by
  unfold State.listed State.placeCommands
  rw [List.map_map]
  refine List.map_congr_left fun c _ => ?_
  dsimp only [Function.comp]
  split <;> rfl

@[simp] theorem acts_pumpDn (s : State) : s.pumpDn.acts = s.acts := pumpDn_view State.acts (fun _ => rfl) (fun _ _ _ => rfl) (fun _ _ => rfl) s
@[simp] theorem berths_pumpDn (s : State) : s.pumpDn.berths = s.berths :=
  pumpDn_view State.berths (fun _ => rfl) (fun _ _ _ => rfl) (fun _ _ => rfl) s
@[simp] theorem runs_pumpDn (s : State) : s.pumpDn.runs = s.runs := pumpDn_view State.runs (fun _ => rfl) (fun _ _ _ => rfl) (fun _ _ => rfl) s
@[simp] theorem ev_pumpDn (s : State) : s.pumpDn.ev = s.ev := pumpDn_view State.ev (fun _ => rfl) (fun _ _ _ => rfl) (fun _ _ => rfl) s
@[simp] theorem tab_pumpDn (s : State) : s.pumpDn.tab = s.tab := tab_of_view (holdView_pumpDn s)
@[simp] theorem listed_pumpDn (s : State) : s.pumpDn.listed = s.listed :=
  pumpDn_view State.listed (fun _ => rfl) (fun _ _ _ => rfl) listed_placeCommands s

section
variable (s : State) (a : Nat) (v : ActValue)

theorem handTaken_iff : s.handTaken a v = true ↔ ∃ e, s.authE a = some e ∧ v.kind = e.kind ∧ v.inRange = true := by
  unfold State.handTaken
  cases s.authE a <;> simp

theorem authE_range {s : State} {a : Nat} {e : AuthEntry} (h : s.authE a = some e) : a < 64 := by
  by_contra ha
  unfold State.authE at h
  rw [Vector.getElem?_eq_none (by omega)] at h
  cases h

/-- A command that is taken becomes the commanded value, unconfirmed; any other is discarded (R128). -/
theorem actS_hand (c : Nat) : (s.hand a v).actS c = if c = a ∧ s.handTaken a v = true then ⟨some v, false⟩ else s.actS c := by
  have hp : ∀ t : State, t.pumpDn.actS c = t.actS c := fun t => by unfold State.actS; rw [acts_pumpDn]
  unfold State.hand
  rw [hp]
  unfold State.handRaw
  cases ht : s.handTaken a v with
  | false => simp
  | true =>
    obtain ⟨e, he, _⟩ := (handTaken_iff s a v).mp ht
    have hput := actS_putAct s a c ⟨some v, false⟩
    rw [if_neg (by simp)]
    dsimp only
    split <;> (refine Eq.trans (show _ = (s.putAct a ⟨some v, false⟩).actS c from rfl) (hput.trans ?_); simp [authE_range he])

/-- A command that is taken replaces the actuator's list entry, and has one only where the node is present (R127, R128). -/
theorem listed_hand : (s.hand a v).listed = if s.handTaken a v = true then
    s.listed.filter (fun p => p.1 != a) ++ (if s.handListed a v = true then [(a, v)] else []) else s.listed := by
  have hfilter : (s.cmds.filter fun e => e.act != a).map (fun c => (c.act, c.value)) = s.listed.filter fun p => p.1 != a := by
    unfold State.listed
    rw [List.filter_map]
    rfl
  unfold State.hand
  rw [listed_pumpDn]
  unfold State.handRaw
  cases ht : s.handTaken a v with
  | false => simp
  | true =>
    rw [if_neg (by simp), if_pos rfl]
    dsimp only
    split
    · unfold State.listed
      rw [List.map_append]
      exact congrArg (· ++ [(a, v)]) hfilter
    · rw [List.append_nil]
      exact hfilter

@[simp] theorem berths_hand : (s.hand a v).berths = s.berths := by
  unfold State.hand
  rw [berths_pumpDn]
  unfold State.handRaw
  split
  · rfl
  · dsimp only
    split <;> rfl

@[simp] theorem ev_hand : (s.hand a v).ev = s.ev := by
  unfold State.hand
  rw [ev_pumpDn]
  unfold State.handRaw
  split
  · rfl
  · dsimp only
    split <;> rfl

@[simp] theorem runs_hand : (s.hand a v).runs = s.runs := by
  unfold State.hand
  rw [runs_pumpDn]
  unfold State.handRaw
  split
  · rfl
  · dsimp only
    split <;> rfl

@[simp] theorem tab_hand : (s.hand a v).tab = s.tab := tab_of_view (holdView_hand s a v)

end

/-! ### The end of an event, where nothing is charging and nothing is granted -/

/-- What the end of an event leaves alone before the berths are settled. -/
structure Bench where
  tab : Tables
  mc : ModeCtl
  acts : Vector ActStatus 64
  cmds : List CmdEntry
  berths : Vector BerthStatus 6
  seqs : Vector Seq 2
  runs : Vector RunStatus 2
  nodes : Vector NodeStatus 48
  touched : List Nat

def State.bench (s : State) : Bench := ⟨s.tab, s.mc, s.acts, s.cmds, s.berths, s.seqs, s.runs, s.nodes, s.ev.touched⟩

section
variable {s u : State} (h : u.bench = s.bench)
include h

theorem tab_of_bench : u.tab = s.tab := congrArg Bench.tab h
theorem mc_of_bench : u.mc = s.mc := congrArg Bench.mc h
theorem acts_of_bench : u.acts = s.acts := congrArg Bench.acts h
theorem actS_of_bench (a : Nat) : u.actS a = s.actS a := by unfold State.actS; rw [acts_of_bench h]
theorem cmds_of_bench : u.cmds = s.cmds := congrArg Bench.cmds h
theorem berths_of_bench : u.berths = s.berths := congrArg Bench.berths h
theorem berthS_of_bench (b : Nat) : u.berthS b = s.berthS b := by unfold State.berthS; rw [berths_of_bench h]
theorem seqs_of_bench : u.seqs = s.seqs := congrArg Bench.seqs h
theorem touched_of_bench : u.ev.touched = s.ev.touched := congrArg Bench.touched h

end

section
variable (s : State)

@[simp] theorem bench_placeHeld : s.placeHeld.bench = s.bench := by
  unfold State.placeHeld
  split
  · rfl
  · split <;> rfl

@[simp] theorem bench_buildNotice : s.buildNotice.bench = s.bench := by
  unfold State.buildNotice
  split <;> rfl

@[simp] theorem bench_startUp : s.startUp.bench = s.bench := rfl

@[simp] theorem bench_pumpUp : s.pumpUp.bench = s.bench := by simp [State.pumpUp, State.fillUp]

@[simp] theorem bench_notice (n : Notice) : (s.notice n).bench = s.bench := by
  unfold State.notice
  split
  · rfl
  · split
    · rw [bench_pumpUp]; rfl
    · rfl

@[simp] theorem bench_setZs (z : Nat) (q : ZoneStatus) : (s.setZs z q).bench = s.bench := rfl

@[simp] theorem bench_setLatch (z : Nat) : (s.setLatch z).bench = s.bench := by
  unfold State.setLatch
  split <;> rfl

@[simp] theorem bench_startPulse (u : Nat) : (s.startPulse u).bench = s.bench := rfl

@[simp] theorem bench_arrive (u c : Nat) (a : Arrival) (src : Source) : (s.arrive u c a src).bench = s.bench := by
  unfold State.arrive State.triggerNotice
  dsimp only
  split
  · rfl
  · split
    · split <;> simp
    · split
      · split <;> simp
      · split
        · split <;> simp
        · rfl

@[simp] theorem bench_edges (s0 : State) : (State.edges s0 s).bench = s.bench := by
  refine foldl_view State.bench (fun t c => ?_) _ s
  split
  · rfl
  · exact foldl_view State.bench (fun t u => by split <;> simp) _ t

@[simp] theorem bench_evalUserHolds : s.evalUserHolds.bench = s.bench :=
  foldl_view State.bench (fun t p => by dsimp only; split <;> simp) _ s

theorem bench_scans (n : Nat) {s : State} (hm : s.mode ≠ .run) : (State.scans n s).bench = s.bench := by
  induction n generalizing s with
  | zero => rfl
  | succ n ih =>
    unfold State.scans
    split
    · have hm' : (s.modEv fun e => { e with scanDue := false }).mode ≠ .run := hm
      rw [scan_idle hm', ih hm']
      rfl
    · rfl

end

/-- Outside RUN with no charge in progress, the end of an event settles the berths as the event left them. -/
theorem event_settles {f : State → State} {s : State} (hm : (f s).mode ≠ .run) (hc : ∀ k, k < 2 → ((f s).seqS k).state ≠ .charging) :
    ∃ t : State, t.bench = (f s).bench ∧ State.event f s = t.settleBerths.driveLines.clearEv := by
  have hb : ((State.edges s (f s)).evalUserHolds).bench = (f s).bench := by rw [bench_evalUserHolds, bench_edges]
  unfold State.event State.settle
  dsimp only
  rw [abortInhibited_idle fun k hk => by unfold State.seqS at *; rw [seqs_of_bench hb]; exact hc k hk]
  refine ⟨_, (bench_scans _ ?_).trans hb, rfl⟩
  unfold State.mode at *
  rw [mc_of_bench hb]
  exact hm

/-- A property of the state is kept by the settling of berths where it is kept by what settling hands (R63). -/
theorem settleBerths_keeps {P : State → Prop}
    (hlamp : ∀ {t : State} {b e}, P t → t.berthE b = some e → (t.actS e.lamp).commanded ≠ some (t.berthS b).lamp.value → P (t.handLamp b e))
    (hlock : ∀ {t : State} {b e}, P t → t.berthE b = some e → (t.actS e.lock).commanded ≠ some (t.berthS b).lock.value → P (t.handLock b e))
    {s : State} (hs : P s) : P s.settleBerths := by
  refine foldl_keeps (P := P) (fun t b ht => ?_) _ hs
  split
  · unfold State.settleBerth
    split
    · exact ht
    · next e he =>
      have h1 : P (if (t.actS e.lamp).commanded = some (t.berthS b).lamp.value then t else t.handLamp b e) := by
        split
        · exact ht
        · next hne => exact hlamp ht he hne
      have he1 : (if (t.actS e.lamp).commanded = some (t.berthS b).lamp.value then t else t.handLamp b e).berthE b = some e := by
        split
        · exact he
        · unfold State.berthE at *
          rw [tab_of_view (holdView_handLamp t b e)]
          exact he
      revert h1 he1
      generalize (if (t.actS e.lamp).commanded = some (t.berthS b).lamp.value then t else t.handLamp b e) = v
      intro h1 he1
      show P (if (v.actS e.lock).commanded = some (v.berthS b).lock.value then v else v.handLock b e)
      split
      · exact h1
      · next hne => exact hlock h1 he1 hne
  · exact ht

/-- Where no berth took an event nothing is settled. -/
theorem settleBerths_untouched {s : State} (h : s.ev.touched = []) : s.settleBerths = s := by
  refine foldl_keeps (P := (· = s)) (fun t b ht => ?_) _ rfl
  rw [ht, h]
  rfl

/-- An actuator with a status that nothing of the settling changes: no lamp and no lock. -/
structure State.Aloof (v : Tables) (i : Nat) (q : ActStatus) (s : State) : Prop where
  tab : s.tab = v
  status : s.actS i = q
  unlisted : ∀ p ∈ s.listed, p.1 ≠ i

/-- A command of another kind leaves an actuator alone (R128). -/
theorem State.Aloof.hand {v : Tables} {i : Nat} {q : ActStatus} {s : State} (h : State.Aloof v i q s) (a : Nat) (x : ActValue)
    (hx : ∀ e, s.authE i = some e → x.kind ≠ e.kind) : State.Aloof v i q (s.hand a x) := by
  have hne : s.handTaken a x = true → i ≠ a := fun ht hia => by
    obtain ⟨e, he, hk, _⟩ := (handTaken_iff s a x).mp ht
    exact hx e (hia ▸ he) hk
  refine ⟨(tab_hand s a x).trans h.tab, ?_, fun p hp => ?_⟩
  · rw [actS_hand, if_neg fun hc => hne hc.2 hc.1]
    exact h.status
  · rw [listed_hand] at hp
    split at hp
    · next ht =>
      rcases List.mem_append.mp hp with hp | hp
      · exact h.unlisted p (List.mem_filter.mp hp).1
      · split at hp
        · rw [List.mem_singleton.mp hp]
          exact (hne ht).symm
        · cases hp
    · exact h.unlisted p hp

theorem Lamp.value_kind (x : Lamp) : x.value.kind = .lamp := by cases x <;> rfl
theorem LockV.value_kind (x : LockV) : x.value.kind = .lock := by cases x <;> rfl
theorem Lamp.value_inRange (x : Lamp) : x.value.inRange = true := by cases x <;> rfl
theorem LockV.value_inRange (x : LockV) : x.value.inRange = true := by cases x <;> rfl

/-- Settling berths leaves an actuator alone that is neither a lamp nor a lock. -/
theorem State.Aloof.settleBerths {v : Tables} {i : Nat} {q : ActStatus} {s : State} (h : State.Aloof v i q s)
    (hk : ∀ e, s.authE i = some e → e.kind ≠ .lamp ∧ e.kind ≠ .lock) : State.Aloof v i q s.settleBerths := by
  have hauth : ∀ {t : State}, State.Aloof v i q t → t.authE i = s.authE i := fun ht => by unfold State.authE; rw [ht.tab, h.tab]
  refine settleBerths_keeps (P := State.Aloof v i q) (fun {t b e} ht _ _ => ?_) (fun {t b e} ht _ _ => ?_) h
  · refine State.Aloof.hand (s := t.modBerth b fun q => { q with lampDone := false }) ⟨ht.tab, ht.status, ht.unlisted⟩ _ _ fun e' he' => ?_
    rw [Lamp.value_kind]
    exact ((hk e' ((hauth ht).symm.trans he')).1).symm
  · refine State.Aloof.hand (s := t.modBerth b fun q => { q with lockDone := false }) ⟨ht.tab, ht.status, ht.unlisted⟩ _ _ fun e' he' => ?_
    rw [LockV.value_kind]
    exact ((hk e' ((hauth ht).symm.trans he')).2).symm

end Sys2Proof.Machine
end

section
/-! What a decoded image holds: the fields within their values, and what was clamped (R1, R80, R81, R96, R101, R102, R152, R187). -/

namespace Sys2Proof.Machine

/-! ### Fields -/

theorem ref?_some {m n k : Nat} (h : ref? m n = some k) : n = k ∧ k ≤ m := by
  unfold ref? at h
  split at h
  · next hn => injection h with h; exact ⟨h, h ▸ hn⟩
  · cases h

theorem optRef?_some {m n : Nat} {o : Option Nat} (h : optRef? m n = some o) : atMost m o := by
  intro k hk
  unfold optRef? at h
  split at h
  · injection h with h
    rw [← h] at hk
    cases hk
  · obtain ⟨j, hj, rfl⟩ := Option.map_eq_some_iff.mp h
    injection hk with hk
    exact hk ▸ (ref?_some hj).2

theorem word?_some {img : List Byte} {i n : Nat} (h : word? img i = some n) : n = wordAt img i ∧ wordAt img i ≠ 65535 := by
  unfold word? at h
  split at h
  · cases h
  · next hn => injection h with h; exact ⟨h.symm, hn⟩

theorem byte?_some {img : List Byte} {i n : Nat} (h : byte? img i = some n) : n = byteAt img i := by
  unfold byte? at h
  split at h
  · cases h
  · injection h with h; exact h.symm

theorem clamp_ge {lo hi n : Nat} (h : lo ≤ hi) : lo ≤ clamp lo hi n := by
  unfold clamp
  split
  · omega
  · split <;> omega

theorem clamp_le {lo hi n : Nat} (h : lo ≤ hi) : clamp lo hi n ≤ hi := by
  unfold clamp
  split
  · omega
  · split <;> omega

theorem clamp_zero_le {hi n : Nat} : clamp 0 hi n ≤ hi := clamp_le (Nat.zero_le _)

theorem clampInt_eq {lo hi n : Int} (h : lo ≤ hi) : clampInt lo hi n = max lo (min hi n) := by
  unfold clampInt
  split
  · omega
  · split <;> omega

theorem dependsOf_some {img : List Byte} {l : List Nat} (h : dependsOf img = some l) :
    l.length ≤ 4 ∧ l.Nodup ∧ ∀ n ∈ l, n ≤ 47 := by
  unfold dependsOf at h
  split at h
  · next hn =>
    dsimp only at h
    split at h
    · next hl =>
      injection h with h
      refine ⟨?_, h ▸ hl.2, h ▸ hl.1⟩
      rw [← h, List.length_map]
      exact (List.length_take_le _ _).trans hn
    · cases h
  · cases h

/-! ### Entries -/

/-- The fields of a defined zone's image (R1, R187). -/
theorem decodeZone_defined {img : List Byte} {x : Option ZoneEntry} {c : Bool} (h1 : byteAt img 0 = 1) (h : decodeZone img = some (x, c)) :
    ∃ e, x = some e ∧ ZKind.ofCode (byteAt img 1) = some e.kind ∧ optRef? 63 (byteAt img 7) = some e.gate ∧ e.fits ∧
    e.transit = clamp 100 60000 (wordAt img 8) ∧ wordAt img 8 ≠ 65535 ∧
    e.speedLimit = (if wordAt img 10 = 65535 then none else some (clamp 500 20000 (wordAt img 10))) ∧
    (c = true ↔ e.transit ≠ wordAt img 8 ∨ e.speedLimit.any (· ≠ wordAt img 10) = true) := by
  unfold decodeZone at h
  rw [if_neg (by omega), if_neg (by omega)] at h
  obtain ⟨kind, hkind, h⟩ := Option.bind_eq_some_iff.mp h
  obtain ⟨main, hmain, h⟩ := Option.bind_eq_some_iff.mp h
  obtain ⟨alt, halt, h⟩ := Option.bind_eq_some_iff.mp h
  obtain ⟨switch, hswitch, h⟩ := Option.bind_eq_some_iff.mp h
  obtain ⟨node, hnode, h⟩ := Option.bind_eq_some_iff.mp h
  obtain ⟨sensor, hsensor, h⟩ := Option.bind_eq_some_iff.mp h
  obtain ⟨gate, hgate, h⟩ := Option.bind_eq_some_iff.mp h
  obtain ⟨depends, hdepends, h⟩ := Option.bind_eq_some_iff.mp h
  obtain ⟨berth, hberth, h⟩ := Option.bind_eq_some_iff.mp h
  obtain ⟨sec, hsec, h⟩ := Option.bind_eq_some_iff.mp h
  obtain ⟨run, hrun, h⟩ := Option.bind_eq_some_iff.mp h
  dsimp only at h
  by_cases hroute : kind ≠ .transfer ∧ (alt.isSome = true ∨ switch.isSome = true)
  · rw [if_pos hroute] at h
    cases h
  rw [if_neg hroute] at h
  by_cases hattach : (berth.isSome, sec.isSome, run.isSome) ≠ kind.attachments
  · rw [if_pos hattach] at h
    cases h
  rw [if_neg hattach] at h
  by_cases hgated : kind.gated = true ∧ gate.isNone = true
  · rw [if_pos hgated] at h
    cases h
  rw [if_neg hgated] at h
  obtain ⟨time, htime, h⟩ := Option.bind_eq_some_iff.mp h
  obtain ⟨rfl, hword⟩ := word?_some htime
  injection h with h
  injection h with he hc
  obtain ⟨hlen, hnodup, hle⟩ := dependsOf_some hdepends
  refine ⟨_, he.symm, hkind, hgate, ?_, rfl, hword, rfl, ?_⟩
  · have hatt : (berth.isSome, sec.isSome, run.isSome) = kind.attachments := not_not.mp hattach
    refine ⟨(ref?_some hmain).2, optRef?_some halt, optRef?_some hswitch, (ref?_some hnode).2, (ref?_some hsensor).2, optRef?_some hgate,
      clamp_ge (by decide), clamp_le (by decide), fun v hv => ?_, hlen, hnodup, hle, optRef?_some hberth, optRef?_some hsec,
      optRef?_some hrun, fun hk => ?_, fun hg => ?_, ?_, ?_, ?_⟩
    · dsimp only at hv
      split at hv
      · cases hv
      · injection hv with hv
        exact hv ▸ ⟨clamp_ge (by decide), clamp_le (by decide)⟩
    · simp only [not_and, not_or, Option.not_isSome_iff_eq_none] at hroute
      exact hroute hk
    · simp only [not_and, Option.isNone_iff_eq_none] at hgated
      exact Option.isSome_iff_ne_none.mpr (hgated hg)
    · rw [show berth.isSome = _ from congrArg Prod.fst hatt]
      cases kind <;> simp [ZKind.attachments]
    · rw [show sec.isSome = _ from congrArg (fun p : Bool × Bool × Bool => p.2.1) hatt]
      cases kind <;> simp [ZKind.attachments]
    · rw [show run.isSome = _ from congrArg (fun p : Bool × Bool × Bool => p.2.2) hatt]
      cases kind <;> simp [ZKind.attachments]
  · rw [← hc, decide_eq_true_iff]

theorem decodeZone_some {img : List Byte} {e : ZoneEntry} {c : Bool} (h : decodeZone img = some (some e, c)) :
    ZKind.ofCode (byteAt img 1) = some e.kind ∧ optRef? 63 (byteAt img 7) = some e.gate ∧ e.fits ∧
    e.transit = clamp 100 60000 (wordAt img 8) ∧ wordAt img 8 ≠ 65535 ∧
    e.speedLimit = (if wordAt img 10 = 65535 then none else some (clamp 500 20000 (wordAt img 10))) ∧
    (c = true ↔ e.transit ≠ wordAt img 8 ∨ e.speedLimit.any (· ≠ wordAt img 10) = true) := by
  have h1 : byteAt img 0 = 1 := by
    unfold decodeZone at h
    split at h
    · cases h
    · split at h
      · cases h
      · next hb => exact not_not.mp hb
  obtain ⟨e', he, hfacts⟩ := decodeZone_defined h1 h
  injection he with he
  exact he ▸ hfacts

theorem decodeTrap_some {img : List Byte} {e : TrapEntry} {c : Bool} (h : decodeTrap img = some (some e, c)) :
    e.fits ∧ e.spacing = clamp 50 2000 (wordAt img 3) ∧ (c = true ↔ e.spacing ≠ wordAt img 3) := by
  unfold decodeTrap at h
  split at h
  · cases h
  split at h
  · cases h
  simp only [Option.bind_eq_bind, Option.bind_eq_some_iff] at h
  obtain ⟨node, hnode, pair, hpair, zone, hzone, use, huse, run, hrun, h⟩ := h
  split at h
  · cases h
  next hbrake =>
  simp only [Option.bind_eq_some_iff] at h
  obtain ⟨length, hlength, h⟩ := h
  obtain ⟨rfl, _⟩ := word?_some hlength
  injection h with h
  injection h with he hc
  injection he with he
  subst he
  refine ⟨⟨(ref?_some hnode).2, (ref?_some hpair).2, clamp_ge (by decide), clamp_le (by decide), (ref?_some hzone).2, optRef?_some hrun, ?_⟩,
    rfl, by rw [← hc, decide_eq_true_iff]⟩
  rw [show run.isSome = _ from not_not.mp hbrake]
  exact beq_iff_eq

theorem decodeLaunch_some {img : List Byte} {e : LaunchEntry} {c : Bool} (h : decodeLaunch img = some (some e, c)) :
    e.fits ∧ e.charge = clamp 100 5000 (wordAt img 5) ∧ e.cooldown = clamp 0 30000 (wordAt img 7) ∧
    e.tolerance = clamp 0 25 (byteAt img 9) ∧
    (c = true ↔ e.charge ≠ wordAt img 5 ∨ e.cooldown ≠ wordAt img 7 ∨ e.tolerance ≠ byteAt img 9) := by
  unfold decodeLaunch at h
  split at h
  · cases h
  split at h
  · cases h
  simp only [Option.bind_eq_bind, Option.bind_eq_some_iff] at h
  obtain ⟨zone, hzone, booster, hbooster, trap, htrap, run, hrun, charge, hcharge, cooldown, hcooldown, tolerance, htolerance, h⟩ := h
  obtain ⟨rfl, _⟩ := word?_some hcharge
  obtain ⟨rfl, _⟩ := word?_some hcooldown
  obtain rfl := byte?_some htolerance
  injection h with h
  injection h with he hc
  injection he with he
  subst he
  exact ⟨⟨(ref?_some hzone).2, (ref?_some hbooster).2, (ref?_some htrap).2, (ref?_some hrun).2, clamp_ge (by decide), clamp_le (by decide),
    clamp_zero_le, clamp_zero_le⟩, rfl, rfl, rfl, by rw [← hc, decide_eq_true_iff]⟩

theorem decodeBand_some {img : List Byte} {e : BandEntry} {c : Bool} (h : decodeBand img = some (some e, c)) :
    e.fits ∧ e.upper = clamp 0 4095 (wordAt img 1) ∧ e.target = clamp 500 15000 (wordAt img 3) ∧ e.drop = clamp 0 20000 (wordAt img 5) ∧
    (c = true ↔ e.upper ≠ wordAt img 1 ∨ e.target ≠ wordAt img 3 ∨ e.drop ≠ wordAt img 5) := by
  unfold decodeBand at h
  split at h
  · cases h
  split at h
  · cases h
  simp only [Option.bind_eq_bind, Option.bind_eq_some_iff] at h
  obtain ⟨upper, hupper, target, htarget, drop, hdrop, h⟩ := h
  obtain ⟨rfl, _⟩ := word?_some hupper
  obtain ⟨rfl, _⟩ := word?_some htarget
  obtain ⟨rfl, _⟩ := word?_some hdrop
  injection h with h
  injection h with he hc
  injection he with he
  subst he
  exact ⟨⟨clamp_zero_le, clamp_ge (by decide), clamp_le (by decide), clamp_zero_le⟩, rfl, rfl, rfl,
    by rw [← hc, decide_eq_true_iff]⟩

theorem decodeRun_some {img : List Byte} {e : RunEntry} {c : Bool} (h : decodeRun img = some (some e, c)) :
    e.fits ∧ e.length = clamp 1000 60000 (wordAt img 2) ∧
    e.exit = clamp 0 5000 (wordAt img 4) ∧ e.passive = clamp 0 20000 (wordAt img 6) ∧ e.maxEntry = clamp 0 20000 (wordAt img 8) ∧
    e.water = clamp 0 200 (byteAt img 10) ∧ e.stages = clamp 1 8 (byteAt img 11) ∧ e.minStages = clamp 0 e.stages (byteAt img 12) ∧
    (c = true ↔ e.length ≠ wordAt img 2 ∨ e.exit ≠ wordAt img 4 ∨ e.passive ≠ wordAt img 6 ∨ e.maxEntry ≠ wordAt img 8 ∨
      e.water ≠ byteAt img 10 ∨ e.stages ≠ byteAt img 11 ∨ e.minStages ≠ byteAt img 12) := by
  unfold decodeRun at h
  split at h
  · cases h
  split at h
  · cases h
  simp only [Option.bind_eq_bind, Option.bind_eq_some_iff] at h
  obtain ⟨zone, hzone, length, hlength, exit, hexit, passive, hpassive, maxEntry, hmaxEntry, water, hwater, stages, hstages, minStages,
    hminStages, h⟩ := h
  obtain ⟨rfl, _⟩ := word?_some hlength
  obtain ⟨rfl, _⟩ := word?_some hexit
  obtain ⟨rfl, _⟩ := word?_some hpassive
  obtain ⟨rfl, _⟩ := word?_some hmaxEntry
  obtain rfl := byte?_some hwater
  obtain rfl := byte?_some hstages
  obtain rfl := byte?_some hminStages
  injection h with h
  injection h with he hc
  injection he with he
  subst he
  exact ⟨⟨(ref?_some hzone).2, clamp_ge (by decide), clamp_le (by decide), clamp_zero_le, clamp_zero_le,
    clamp_zero_le, clamp_zero_le, clamp_ge (by decide), clamp_le (by decide), clamp_zero_le⟩,
    rfl, rfl, rfl, rfl, rfl, rfl, rfl, by rw [← hc, decide_eq_true_iff]⟩

theorem decodeStage_some {img : List Byte} {e : StageEntry} {c : Bool} (h : decodeStage img = some (e, c)) :
    e.fits ∧ e.nominal = clamp 0 20000 (wordAt img 1) ∧ e.trim = max (-16) (min 15 (signed1 (byteAt img 3))) ∧
    (c = true ↔ e.nominal ≠ wordAt img 1 ∨ e.trim ≠ signed1 (byteAt img 3)) := by
  unfold decodeStage at h
  simp only [Option.bind_eq_bind, Option.bind_eq_some_iff] at h
  obtain ⟨fin, hfin, force, hforce, h⟩ := h
  obtain ⟨rfl, _⟩ := word?_some hforce
  injection h with h
  injection h with he hc
  subst he
  refine ⟨⟨(ref?_some hfin).2, clamp_zero_le, ?_, ?_⟩, rfl, clampInt_eq (by decide), by rw [← hc, decide_eq_true_iff]⟩
  · dsimp only
    rw [clampInt_eq (by decide)]
    exact le_max_left _ _
  · dsimp only
    rw [clampInt_eq (by decide)]
    omega

/-- The image of an AUX user (R152, R154). -/
theorem decodeUser_some {u : Nat} {img : List Byte} {e : UserEntry} {c : Bool} (hu : u < 8) (h : decodeUser u img = some (e, c)) :
    e.fits u ∧ e.param = clamp 1 2000 (wordAt img 2) ∧ (c = true ↔ e.param ≠ wordAt img 2) := by
  unfold decodeUser at h
  simp only [Option.bind_eq_bind, Option.bind_eq_some_iff, if_pos hu] at h
  obtain ⟨chan, hchan, mode, hmode, length, hlength, h⟩ := h
  obtain ⟨rfl, _⟩ := word?_some hlength
  injection h with h
  injection h with he hc
  subst he
  exact ⟨⟨(ref?_some hchan).2, fun _ => ⟨clamp_ge (by decide), clamp_le (by decide)⟩, by omega, by omega, by omega⟩, rfl,
    by rw [← hc, decide_eq_true_iff]⟩

/-- A class image whose two masses are present decodes, the maximum clamped to the stored empty mass (R9). -/
theorem decodeClass_present {img : List Byte} (h0 : wordAt img 0 ≠ 65535) (h2 : wordAt img 2 ≠ 65535) : decodeClass img =
    some (⟨clamp 100 800 (wordAt img 0), clamp (clamp 100 800 (wordAt img 0)) 1500 (wordAt img 2)⟩,
      decide (clamp 100 800 (wordAt img 0) ≠ wordAt img 0 ∨
        clamp (clamp 100 800 (wordAt img 0)) 1500 (wordAt img 2) ≠ wordAt img 2)) := by
  unfold decodeClass word?
  rw [if_neg h0, if_neg h2]
  rfl

theorem decodeClass_absent {img : List Byte} (h : wordAt img 0 = 65535 ∨ wordAt img 2 = 65535) : decodeClass img = none := by
  unfold decodeClass word?
  rcases h with h | h
  · rw [if_pos h]; rfl
  · rw [if_pos h]
    split <;> rfl

/-- A stage image that changes the trim alone decodes to itself (R102). -/
theorem decodeStage_within {img : List Byte} (h0 : byteAt img 0 ≤ 63) (h1 : wordAt img 1 ≤ 20000) (h2 : -16 ≤ signed1 (byteAt img 3))
    (h3 : signed1 (byteAt img 3) ≤ 15) : decodeStage img = some (⟨byteAt img 0, wordAt img 1, signed1 (byteAt img 3)⟩, false) := by
  have hn : clamp 0 20000 (wordAt img 1) = wordAt img 1 := by unfold clamp; rw [if_neg (by omega), if_neg (by omega)]
  have ht : clampInt (-16) 15 (signed1 (byteAt img 3)) = signed1 (byteAt img 3) := by
    unfold clampInt; rw [if_neg (by omega), if_neg (by omega)]
  unfold decodeStage word? ref?
  rw [if_pos h0, if_neg (by omega)]
  simp only [Option.bind_eq_bind, Option.bind_some, hn, ht]
  simp

/-- An image with byte 0 equal to 1 is refused where it lacks something a defined zone needs. -/
theorem decodeZone_none {img : List Byte} (h1 : byteAt img 0 = 1) (h : ∀ e c, decodeZone img ≠ some (some e, c)) : decodeZone img = none := by
  cases hd : decodeZone img with
  | none => rfl
  | some p =>
    obtain ⟨e, he, _⟩ := decodeZone_defined (x := p.1) (c := p.2) h1 hd
    exact absurd (hd.trans (congrArg some (Prod.ext he rfl : p = (some e, p.2)))) (h e p.2)

/-- A zone of a kind that takes a gate needs one (R2). -/
theorem decodeZone_gateless {img : List Byte} (h1 : byteAt img 0 = 1)
    (hk : byteAt img 1 = 0 ∨ byteAt img 1 = 2 ∨ byteAt img 1 = 5 ∨ byteAt img 1 = 6) (hg : byteAt img 7 = 255) : decodeZone img = none := by
  refine decodeZone_none h1 fun e c hd => ?_
  obtain ⟨hkind, hgate, hfits, _⟩ := decodeZone_some hd
  obtain ⟨_, _, _, _, _, _, _, _, _, _, _, _, _, _, _, _, hgated, _⟩ := hfits
  unfold optRef? at hgate
  rw [if_pos hg] at hgate
  injection hgate with hgate
  have hkg : e.kind.gated = true := by
    rcases hk with hk | hk | hk | hk <;>
    · rw [hk] at hkind
      injection hkind with hkind
      rw [← hkind]
      rfl
  have := hgated hkg
  rw [← hgate] at this
  cases this

/-- A zone's transit limit must be present (R187, log 37). -/
theorem decodeZone_limitless {img : List Byte} (h1 : byteAt img 0 = 1) (hw : wordAt img 8 = 65535) : decodeZone img = none :=
  decodeZone_none h1 fun _ _ hd => by
    obtain ⟨_, _, _, _, hword, _⟩ := decodeZone_some hd
    exact hword hw

end Sys2Proof.Machine
end

section
/-! The tests of a WRITE and what single entries become (R176): settles O52. -/

namespace Sys2Proof.Machine

/-! ### Storing an entry, table by table -/

section
variable (s : State) (i : Nat) (img : List Byte)

theorem storeEntry_zone : s.storeEntry .zone i img = store s (decodeZone img) (fun x => match x with
    | none => s.zoneBusy i
    | some e => s.zoneConflict i e) (s.storeZone i) := rfl
theorem storeEntry_cls : s.storeEntry .cls i img = store s (decodeClass img) (fun _ => false)
    fun x => s.modTab fun t => { t with cls := t.cls.setIfInBounds i x } := rfl
theorem storeEntry_node : s.storeEntry .node i img = store s (decodeNode img) (whenDefined (s.nodeConflict i)) (s.storeNode i) := rfl
theorem storeEntry_authority : s.storeEntry .authority i img =
    store s (decodeAuth img) (whenDefined (s.authConflict i)) (s.storeAuth i) := rfl
theorem storeEntry_trap : s.storeEntry .trap i img = store s (decodeTrap img) (whenDefined (s.trapConflict i))
    fun x => s.modTab fun t => { t with trap := t.trap.setIfInBounds i x } := rfl
theorem storeEntry_band : s.storeEntry .band i img = store s (decodeBand img) (fun _ => false)
    fun x => s.modTab fun t => { t with band := t.band.setIfInBounds i x } := rfl
theorem storeEntry_stage : s.storeEntry .stage i img = store s (decodeStage img) (fun _ => false) (s.storeStage i) := rfl

end

section
variable {s : State} {t i : Nat} {img : List Byte} (hf : s.requestFree) (hm : s.mode = .config)
include hf hm

/-- In CONFIG an image that does not decode is refused with VALUE. -/
theorem completes_value {T : Table} (hp : s.ptr = (T, i)) (hT : T.code < 12) (h : (s.opened t).storeEntry T i img = (s.opened t, .value)) :
    Completes (.write t false img) s fun u => u.answered (.plain .value) ∧ u.tab = s.tab ∧ u.ptr = s.ptr := by
  refine completes_unwritten hf (write_unstored (writeRefusal_config hm ?_) ?_ (.inl rfl))
  · show s.ptr.1.code < 12
    rw [hp]
    exact hT
  · show (s.opened t).storeEntry s.ptr.1 s.ptr.2 img = _
    rw [hp]
    exact h

/-- In CONFIG an image that conflicts with the tables is refused with CONFLICT. -/
theorem completes_conflict {T : Table} (hp : s.ptr = (T, i)) (hT : T.code < 12) {α : Type} {d : Option (α × Bool)} {e : α} {c : Bool}
    {conflict : α → Bool} {put : α → State} (h : (s.opened t).storeEntry T i img = store (s.opened t) d conflict put)
    (hd : d = some (e, c)) (hc : conflict e = true) :
    Completes (.write t false img) s fun u => u.answered (.plain .conflict) ∧ u.tab = s.tab ∧ u.ptr = s.ptr := by
  refine completes_unwritten hf (write_unstored (writeRefusal_config hm ?_) ?_ (.inr rfl))
  · show s.ptr.1.code < 12
    rw [hp]
    exact hT
  · show (s.opened t).storeEntry s.ptr.1 s.ptr.2 img = _
    rw [hp]
    refine h.trans ?_
    rw [hd]
    unfold store
    dsimp only
    rw [if_pos hc]

/-- In CONFIG an image that decodes and does not conflict is stored. -/
theorem completes_put {T : Table} (hp : s.ptr = (T, i)) (hT : T.code < 12) {α : Type} {d : Option (α × Bool)} {e : α} {c : Bool}
    {conflict : α → Bool} {put : α → State} {Q : State → Prop}
    (h : (s.opened t).storeEntry T i img = store (s.opened t) d conflict put)
    (hd : d = some (e, c)) (hc : conflict e = false) (hQ : Q (s.written t (put e) c)) : Completes (.write t false img) s Q := by
  refine completes_stored (e := e) (clamped := c) (conflict := conflict) (put := put) hf (writeRefusal_config hm ?_) ?_ hc hQ
  · show s.ptr.1.code < 12
    rw [hp]
    exact hT
  · rw [hp, ← hd]
    exact h

end

theorem ptr_written_at {s : State} {T : Table} {i : Nat} (hp : s.ptr = (T, i)) (t : Nat) {v : State} (h : v.ptr = s.ptr) (c : Bool) :
    (s.written t v c).ptr = (T, (i + 1) % T.entries) := by
  rw [ptr_written s t v c h, hp]

/-! ### The stages of a run -/

theorem stageE_set {s u : State} {i : Nat} {x : StageEntry} (hi : i < 16)
    (h : u.tab = { s.tab with stage := s.tab.stage.setIfInBounds i x }) : u.stageE i = x := by
  unfold State.stageE
  rw [h]
  exact (getD_setIfInBounds s.tab.stage i i x ⟨0, 0, 0⟩).trans (if_pos ⟨rfl, hi⟩)

/-- A STAGE image that changes the trim alone is taken in every mode but CHECKING (R102, R176). -/
theorem completes_trim {s : State} {t : Nat} {img : List Byte} (hf : s.requestFree) (hp : s.ptr.1 = .stage) (hi : s.ptr.2 < 16)
    (hm : s.mode ≠ .checking) (h0 : byteAt img 0 = (s.stageE s.ptr.2).fin) (h63 : byteAt img 0 ≤ 63)
    (h1 : wordAt img 1 = (s.stageE s.ptr.2).nominal) (hw : wordAt img 1 ≤ 20000) (hlo : -16 ≤ signed1 (byteAt img 3))
    (hhi : signed1 (byteAt img 3) ≤ 15) :
    Completes (.write t false img) s fun u => u.answered (.plain .ok) ∧
      u.stageE s.ptr.2 = { s.stageE s.ptr.2 with trim := signed1 (byteAt img 3) } ∧ u.ptr = (.stage, (s.ptr.2 + 1) % 16) := by
  have hd := decodeStage_within h63 hw hlo hhi
  rw [h0, h1] at hd
  have hstore : (s.opened t).storeEntry s.ptr.1 s.ptr.2 img = store (s.opened t)
      (some (({ s.stageE s.ptr.2 with trim := signed1 (byteAt img 3) } : StageEntry), false)) (fun _ => false)
      ((s.opened t).storeStage s.ptr.2) := by
    rw [hp, storeEntry_stage, hd]
  have hdesk := desk_storeStage (s.opened t) s.ptr.2 { s.stageE s.ptr.2 with trim := signed1 (byteAt img 3) }
  refine completes_stored hf (writeRefusal_stage hp hm (trimOnly_iff.mpr ⟨h0, h1⟩)) hstore rfl ⟨answered_written _ _ _ _, ?_, ?_⟩
  · exact stageE_set (s := s) hi ((tab_written _ _ _ _).trans (congrArg Desk.tab hdesk))
  · rw [ptr_written s t _ false (congrArg Desk.ptr hdesk), hp]
    rfl

/-! ### A node -/

/-- A node entry that becomes another node's makes its status that of an ABSENT one, with low inputs (R123). -/
theorem dropNode_absent (s : State) {n : Nat} (hn : n < 48) : ((s.dropNode n).nodeS n).state = .absent ∧ (s.dropNode n).inputS n = 0 := by
  have hput : (((s.putNode n .absent).putInputs n 0).nodeS n).state = .absent := by
    show ((s.putNode n .absent).nodeS n).state = _
    rw [nodeS_putNode, if_pos ⟨rfl, hn⟩]
    rfl
  constructor
  · unfold State.dropNode
    by_cases ho : (s.nodeS n).state = .absent
    · unfold State.reportRoster
      rw [if_pos ho]
      exact hput
    · obtain ⟨_, hnodes⟩ := evalHolds_tab_nodes ((s.putNode n .absent).putInputs n 0) (fun p : Nat × ZoneEntry => p.1)
        (((s.putNode n .absent).putInputs n 0).definedZones.filter fun p => p.2.depends.contains n)
      rw [roster_of_view (holdView_reportRoster ho) n, ← hput]
      exact congrArg (fun v => (v[n]?.getD NodeStatus.absent).state) hnodes
  · have hin : (s.dropNode n).inputs = (s.putInputs n 0).inputs := congrArg Desk.inputs (desk_dropNode s n)
    unfold State.inputS
    rw [hin]
    exact (inputS_putInputs s n n 0).trans (if_pos ⟨rfl, hn⟩)

theorem storeNode_other {s : State} {i : Nat} {x : NodeEntry}
    (h : ∀ y, s.nodeE i = some y → y.address ≠ x.address ∨ y.kind ≠ x.kind) :
    s.storeNode i (some x) = (s.modTab fun t => { t with node := t.node.setIfInBounds i (some x) }).dropNode i := by
  unfold State.storeNode
  dsimp only
  cases hy : s.nodeE i with
  | none => rfl
  | some y =>
    dsimp only
    rw [if_neg]
    rintro ⟨ha, hk⟩
    exact (h y hy).elim (absurd ha) (absurd hk)

theorem node_written (s : State) (t : Nat) (v : State) (c : Bool) : (s.written t v c).holdView.node = v.holdView.node :=
  node_event _ _

theorem roster_written (s : State) (t : Nat) (v : State) (c : Bool) (n : Nat) : ((s.written t v c).nodeS n).state = (v.nodeS n).state :=
  congrFun (congrArg NodeView.roster (node_written s t v c)) n

/-! ### An actuator -/

theorem mc_seqs_storeAuth (s : State) (i : Nat) (x : Option AuthEntry) :
    (s.storeAuth i x).mc = s.mc ∧ (s.storeAuth i x).seqs = s.seqs := by
  unfold State.storeAuth
  dsimp only
  split
  · split <;> exact ⟨rfl, rfl⟩
  · exact ⟨rfl, rfl⟩
  · exact ⟨rfl, rfl⟩

/-- An authority entry that becomes another actuator's is given the kind's safe value, and loses its list entry (R126). -/
theorem storeAuth_other {s : State} {i : Nat} {x : AuthEntry} (hi : i < 64)
    (h : ∀ y, s.authE i = some y → y.node ≠ x.node ∨ y.num ≠ x.num ∨ y.kind ≠ x.kind) :
    State.Aloof { s.tab with auth := s.tab.auth.setIfInBounds i (some x) } i ⟨some x.kind.safe, false⟩ (s.storeAuth i (some x)) := by
  have aloof : State.Aloof { s.tab with auth := s.tab.auth.setIfInBounds i (some x) } i ⟨some x.kind.safe, false⟩
      (((s.modTab fun t => { t with auth := t.auth.setIfInBounds i (some x) }).removeEntry i).putAct i ⟨some x.kind.safe, false⟩) := by
    refine ⟨rfl, (actS_putAct _ i i _).trans (if_pos ⟨rfl, hi⟩), fun p hp => ?_⟩
    obtain ⟨c, hc, hact, _⟩ := mem_listed.mp hp
    rw [← hact]
    simpa using (List.mem_filter.mp hc).2
  unfold State.storeAuth
  dsimp only
  cases hy : s.authE i with
  | none => exact aloof
  | some y =>
    dsimp only
    rw [if_neg]
    · exact aloof
    · rintro ⟨hn, hnum, hk⟩
      rcases h y hy with h | h | h
      · exact h hn
      · exact h hnum
      · exact h hk

/-- Outside RUN with no charge in progress, a WRITE's event settles the berths as the stored entry left them. -/
theorem written_settles {s v : State} {t : Nat} {c : Bool} (hm : v.mode ≠ .run) (hc : ∀ k, k < 2 → (v.seqS k).state ≠ .charging) :
    ∃ u : State, u.bench = v.bench ∧ s.written t v c = u.settleBerths.driveLines.clearEv := by
  have hb : (v.advance.withResult (.plain (storedCode c))).bench = v.bench := rfl
  unfold State.written
  have hm' : (v.advance.withResult (.plain (storedCode c))).mode ≠ .run := by
    unfold State.mode at *
    rw [mc_of_bench hb]
    exact hm
  have hc' : ∀ k, k < 2 → ((v.advance.withResult (.plain (storedCode c))).seqS k).state ≠ .charging := fun k hk => by
    unfold State.seqS at *
    rw [seqs_of_bench hb]
    exact hc k hk
  obtain ⟨u, hu, hev⟩ := event_settles (f := fun _ => v.advance.withResult (.plain (storedCode c))) (s := s.at_ t) hm' hc'
  exact ⟨u, hu.trans hb, hev⟩

theorem sequencersSound_idle {s : State} (h : s.sequencersSound) (hm : s.mode = .config) (k : Nat) (hk : k < 2) :
    (s.seqS k).state ≠ .charging := by
  obtain ⟨h0, h1⟩ := h (.inl hm)
  interval_cases k
  · rw [h0]; decide
  · rw [h1]; decide

theorem State.Aloof.congr {T : Tables} {i : Nat} {q : ActStatus} {s u : State} (h : State.Aloof T i q s) (ht : u.tab = s.tab)
    (ha : u.acts = s.acts) (hc : u.cmds = s.cmds) : State.Aloof T i q u :=
  ⟨ht.trans h.tab, by unfold State.actS; rw [ha]; exact h.status, by unfold State.listed; rw [hc]; exact h.unlisted⟩

/-- Outside RUN with no charge in progress, an actuator that is neither a lamp nor a lock stays as the stored entry left it. -/
theorem written_aloof {s v : State} {T : Tables} {t i : Nat} {q : ActStatus} {c : Bool} (hm : v.mode ≠ .run)
    (hc : ∀ k, k < 2 → (v.seqS k).state ≠ .charging) (h : State.Aloof T i q v)
    (hk : ∀ e, v.authE i = some e → e.kind ≠ .lamp ∧ e.kind ≠ .lock) : State.Aloof T i q (s.written t v c) := by
  obtain ⟨u, hu, hev⟩ := written_settles (s := s) (t := t) (c := c) hm hc
  have hauth : u.authE i = v.authE i := by unfold State.authE; rw [tab_of_bench hu]
  have hset := (h.congr (tab_of_bench hu) (acts_of_bench hu) (cmds_of_bench hu)).settleBerths fun e he => hk e (hauth ▸ he)
  rw [hev]
  exact hset.congr (by simp) (by simp) (by simp)

/-! ### The obligation -/

/-- Settles O52: the tests of a WRITE in their order, and then what storing an entry of each kind of table gives. -/
theorem writeIsTestedAndStored : Obligations.WriteIsTestedAndStored := by
  refine ⟨fun t img s hf h => completes_unwritten hf (write_refused (writeRefusal_readOnly h)),
    fun t img s hf h hm => completes_unwritten hf (write_refused (writeRefusal_busy h hm)),
    fun t img s hf h ht hm => completes_unwritten hf (write_refused (writeRefusal_mode h ht hm)),
    fun t img s hf ht hm hne => completes_unwritten hf (write_refused (writeRefusal_trim ht hm ?_)),
    fun t img s hf hp hi hm h0 h63 h1 hw hlo hhi => completes_trim hf hp hi hm h0 h63 h1 hw hlo hhi,
    fun t img i s hf hm hp hi h0 h2 => ?_, fun t img i x c s hf hm hp hi hd => ?_, fun t img i s hf hm hp h => ?_,
    fun t img i s hf hm hp h1 hk hg => ?_, fun t img i s hf hm hp hd => ?_, fun t img i x c j y s hf hm hp hd hj hy hn hpair => ?_,
    fun t img i c s hf hm hp hd hb => ?_, fun t img i x c s hf hm hp hi hd hfree => ?_,
    fun t img i x c s hf hm hsq hp hi hd hfree => ?_⟩
  · refine Bool.eq_false_iff.mpr fun h => ?_
    obtain ⟨hfin, hnom⟩ := trimOnly_iff.mp h
    exact hne.elim (absurd hfin) (absurd hnom)
  · have h : ∀ x c, (s.written t ((s.opened t).modTab fun tab => { tab with cls := tab.cls.setIfInBounds i x }) c).clsE i = x ∧
        (s.written t ((s.opened t).modTab fun tab => { tab with cls := tab.cls.setIfInBounds i x }) c).answered
          (.plain (if c then .okClamped else .ok)) := fun x c => by
      refine ⟨?_, answered_written _ _ _ _⟩
      unfold State.clsE
      rw [tab_written]
      exact (getD_setIfInBounds s.tab.cls i i x ⟨0, 0⟩).trans (if_pos ⟨rfl, hi⟩)
    refine completes_put hf hm hp (by decide) (storeEntry_cls _ i img) (decodeClass_present h0 h2) rfl
      ⟨(h _ _).1, ptr_written_at hp t (by rfl) _, ?_⟩
    obtain ⟨hcls, hans⟩ := h ⟨clamp 100 800 (wordAt img 0), clamp (clamp 100 800 (wordAt img 0)) 1500 (wordAt img 2)⟩
      (decide (clamp 100 800 (wordAt img 0) ≠ wordAt img 0 ∨
        clamp (clamp 100 800 (wordAt img 0)) 1500 (wordAt img 2) ≠ wordAt img 2))
    rw [hcls]
    simp only [decide_eq_true_eq, ClassEntry.mk.injEq, ← not_and_or, ite_not] at hans ⊢
    exact hans
  · refine completes_put hf hm hp (by decide) (storeEntry_band _ i img) hd rfl ⟨?_, ptr_written_at hp t (by rfl) _, answered_written _ _ _ _⟩
    unfold State.bandE
    rw [tab_written]
    exact join_set s.tab.band x hi
  · exact completes_value hf hm hp (by decide) (by rw [storeEntry_cls, decodeClass_absent h]; rfl)
  · exact completes_value hf hm hp (by decide) (by rw [storeEntry_zone, decodeZone_gateless h1 hk hg]; rfl)
  · exact completes_value hf hm hp (by decide) (by rw [storeEntry_trap, hd]; rfl)
  · have hj8 : j < 8 := by
      by_contra hj8
      unfold State.trapE at hy
      rw [Vector.getElem?_eq_none (by omega)] at hy
      cases hy
    exact completes_conflict hf hm hp (by decide) (storeEntry_trap _ i img) hd (otherHas_true hj8 hj hy (by simp [hn, hpair]))
  · refine completes_conflict hf hm hp (by decide) (storeEntry_zone _ i img) hd ?_
    show ((s.occupant i).isSome || (s.zst i).reserved.isSome) = true
    rw [Bool.or_eq_true]
    exact hb
  · obtain ⟨hptr, htab⟩ := ptr_tab_storeNode (s.opened t) i (some x)
    refine completes_put hf hm hp (by decide) (storeEntry_node _ i img) hd
      (otherHas_false fun j y hj hy => beq_eq_false_iff_ne.mpr (hfree j y hj hy)) ⟨?_, ptr_written_at hp t hptr _, fun hother => ?_⟩
    · unfold State.nodeE
      rw [tab_written, htab]
      exact join_set s.tab.node _ hi
    · have hdrop := dropNode_absent ((s.opened t).modTab fun tab => { tab with node := tab.node.setIfInBounds i (some x) }) hi
      rw [← storeNode_other (s := s.opened t) hother] at hdrop
      refine ⟨?_, ?_⟩
      · exact (roster_written s t _ c i).trans hdrop.1
      · unfold State.inputS
        rw [inputs_written]
        exact hdrop.2
  · obtain ⟨hptr, htab⟩ := ptr_tab_storeAuth (s.opened t) i (some x)
    have hauth : ((s.opened t).storeAuth i (some x)).authE i = some x := by
      unfold State.authE
      rw [htab]
      exact join_set s.tab.auth _ hi
    refine completes_put hf hm hp (by decide) (storeEntry_authority _ i img) hd (otherHas_false fun j y hj hy => ?_)
      ⟨?_, ptr_written_at hp t hptr _, fun hlamp hlock hother => ?_⟩
    · by_cases hn : y.node = x.node
      · simp [hn, hfree j y hj hy hn]
      · simp [hn]
    · unfold State.authE
      rw [tab_written]
      exact hauth
    · obtain ⟨hmc, hseqs⟩ := mc_seqs_storeAuth (s.opened t) i (some x)
      have hmode : ((s.opened t).storeAuth i (some x)).mode = .config := by
        unfold State.mode
        rw [hmc]
        exact hm
      have hsound : ((s.opened t).storeAuth i (some x)).sequencersSound := fun _ => by
        unfold State.seqS
        rw [hseqs]
        exact hsq (.inl hm)
      obtain ⟨_, hstatus, hlist⟩ := written_aloof (s := s) (t := t) (c := c) (by rw [hmode]; decide) (sequencersSound_idle hsound hmode)
        (storeAuth_other (s := s.opened t) hi hother) fun e he => by
          cases hauth.symm.trans he
          exact ⟨hlamp, hlock⟩
      exact ⟨hstatus, fun k hk => hlist (k.act, k.value) (mem_listed.mpr ⟨k, hk, rfl, rfl⟩)⟩

end Sys2Proof.Machine
end

section
/-! The commands of a RUNTIME reset (R79, R95, R116, R148): every actuator they name gets its kind's value at rest. -/

namespace Sys2Proof.Machine

/-- The values a RUNTIME reset commands. -/
def ActValue.atReset (v : ActValue) : Prop :=
  v = .lampOff ∨ v = .lockLock ∨ v = .boosterSafe ∨ v = .finEngage ∨ v = .gateClose

/-- A reset commands one value of each kind. -/
theorem atReset_unique {v w : ActValue} (hv : v.atReset) (hw : w.atReset) (h : v.kind = w.kind) : v = w := by
  rcases hv with rfl | rfl | rfl | rfl | rfl <;> rcases hw with rfl | rfl | rfl | rfl | rfl <;> first | rfl | cases h

theorem atReset_inRange {v : ActValue} (hv : v.atReset) : v.inRange = true := by
  rcases hv with rfl | rfl | rfl | rfl | rfl <;> rfl

/-- The property is kept by what a reset commands; the berths are such that lamps are to be OFF and locks LOCK. -/
structure Handing (P : State → Prop) : Prop where
  hand : ∀ {s : State} a v, v.atReset → P s → P (s.hand a v)
  modBerth : ∀ {s : State} b f, (∀ q : BerthStatus, (f q).lamp = q.lamp ∧ (f q).lock = q.lock) → P s → P (s.modBerth b f)
  putRun : ∀ {s : State} r q, P s → P (s.putRun r q)
  wanted : ∀ {s : State} b, P s → (s.berthS b).lamp = .off ∧ (s.berthS b).lock = .lock

namespace Handing

variable {P : State → Prop} (h : Handing P) {s : State}
include h

theorem handLamp (b : Nat) (e : BerthEntry) (hs : P s) : P (s.handLamp b e) := by
  refine h.hand _ _ (.inl ?_) (h.modBerth b _ (fun _ => ⟨rfl, rfl⟩) hs)
  rw [(h.wanted b hs).1]
  rfl

theorem handLock (b : Nat) (e : BerthEntry) (hs : P s) : P (s.handLock b e) := by
  refine h.hand _ _ (.inr (.inl ?_)) (h.modBerth b _ (fun _ => ⟨rfl, rfl⟩) hs)
  rw [(h.wanted b hs).2]
  rfl

theorem handBoth (b : Nat) (hs : P s) : P (s.handBoth b) := by
  unfold State.handBoth
  split
  · exact hs
  · exact h.handLock b _ (h.handLamp b _ hs)

theorem handBooster (k : Nat) (hs : P s) : P (s.handBooster k .boosterSafe) := by
  unfold State.handBooster
  split
  · exact hs
  · exact h.hand _ _ (.inr (.inr (.inl rfl))) hs

theorem handFin (r i : Nat) (hs : P s) : P (s.handFin r i .finEngage) := by
  have h1 := h.hand (s.stageOf r i).fin .finEngage (.inr (.inr (.inr (.inl rfl)))) hs
  unfold State.handFin
  dsimp only
  rw [if_pos rfl]
  split
  · exact h.putRun _ _ h1
  · exact h1

theorem engageRun (r : Nat) (hs : P s) : P (s.engageRun r) := by
  unfold State.engageRun
  split
  · exact hs
  · exact h.putRun _ _ (foldl_keeps (P := P) (fun _ i ht => h.handFin r i ht) _ hs)

theorem closeGates (hs : P s) : P s.closeGates :=
  foldl_keeps (P := P) (fun _ a ht => h.hand a _ (.inr (.inr (.inr (.inr rfl)))) ht) _ hs

end Handing

/-- What one step of a fold brings about and the others keep holds at its end. -/
theorem foldl_reaches {α : Type} {P Q : State → Prop} {f : State → α → State} {x : α} (l : List α) (hx : x ∈ l)
    (hP : ∀ s, ∀ a ∈ l, P s → P (f s a)) (hx' : ∀ s, P s → Q (f s x)) (hQ : ∀ s, ∀ a ∈ l, Q s → Q (f s a)) {s : State}
    (hs : P s) : Q (l.foldl f s) := by
  induction l generalizing s with
  | nil => cases hx
  | cons a l ih =>
    rw [List.foldl_cons]
    rcases List.mem_cons.mp hx with rfl | hx
    · exact foldl_keeps_mem (P := Q) l (fun s b hb => hQ s b (List.mem_cons_of_mem _ hb)) (hx' s hs)
    · exact ih hx (fun s b hb => hP s b (List.mem_cons_of_mem _ hb)) (fun s b hb => hQ s b (List.mem_cons_of_mem _ hb))
        (hP s a List.mem_cons_self hs)

/-! ### What the commands leave -/

/-- Nothing is listed but what a reset commands; tables and roster are these, and every berth wants its lamp OFF and its lock LOCK. -/
structure State.Resetting (T : Tables) (N : Nat → Bool) (s : State) : Prop where
  tab : s.tab = T
  present : ∀ n, (s.nodeS n).state.present = N n
  wanted : ∀ b, (s.berthS b).lamp = .off ∧ (s.berthS b).lock = .lock
  listed : ∀ p ∈ s.listed, p.2.atReset

theorem listed_hand_mem {s : State} {a : Nat} {v : ActValue} {p : Nat × ActValue} (h : p ∈ (s.hand a v).listed) : p ∈ s.listed ∨ p = (a, v) := by
  rw [listed_hand] at h
  split at h
  · rcases List.mem_append.mp h with h | h
    · exact .inl (List.mem_filter.mp h).1
    · split at h
      · exact .inr (List.mem_singleton.mp h)
      · cases h
  · exact .inl h

section
variable {T : Tables} {N : Nat → Bool} {s : State} (h : State.Resetting T N s)
include h

theorem State.Resetting.hand (a : Nat) (v : ActValue) (hv : v.atReset) : State.Resetting T N (s.hand a v) where
  tab := (tab_hand s a v).trans h.tab
  present n := by rw [roster_of_view (holdView_hand s a v) n]; exact h.present n
  wanted b := by
    unfold State.berthS
    rw [berths_hand]
    exact h.wanted b
  listed p hp := by
    rcases listed_hand_mem hp with hp | rfl
    · exact h.listed p hp
    · exact hv

theorem State.Resetting.modBerth (b : Nat) (f : BerthStatus → BerthStatus) (hf : ∀ q : BerthStatus, (f q).lamp = q.lamp ∧ (f q).lock = q.lock) :
    State.Resetting T N (s.modBerth b f) where
  tab := h.tab
  present := h.present
  listed := h.listed
  wanted c := by
    unfold State.modBerth
    rw [berthS_putBerth]
    split
    · rw [(hf _).1, (hf _).2]
      exact h.wanted b
    · exact h.wanted c

theorem State.Resetting.putRun (r : Nat) (q : RunStatus) : State.Resetting T N (s.putRun r q) := ⟨h.tab, h.present, h.wanted, h.listed⟩

end

theorem handing_resetting (T : Tables) (N : Nat → Bool) : Handing (State.Resetting T N) where
  hand a v hv hs := hs.hand a v hv
  modBerth b f hf hs := hs.modBerth b f hf
  putRun r q hs := hs.putRun r q
  wanted b hs := hs.wanted b

/-- An actuator has been commanded its value at rest: it stands unconfirmed, and is listed where its node is present. -/
structure State.Rested (T : Tables) (N : Nat → Bool) (a : Nat) (x : AuthEntry) (v : ActValue) (s : State) : Prop
    extends State.Resetting T N s where
  status : s.actS a = ⟨some v, false⟩
  command : N x.node = true → (a, v) ∈ s.listed

section
variable {T : Tables} {N : Nat → Bool} {a : Nat} {x : AuthEntry} {v : ActValue} (hx : (T.auth[a]?).join = some x)
  (hk : v.kind = x.kind) (hv : v.atReset)
include hx hk hv

theorem handTaken_reset {s : State} (hs : State.Resetting T N s) : s.handTaken a v = true :=
  (handTaken_iff s a v).mpr ⟨x, by unfold State.authE; rw [hs.tab]; exact hx, hk, atReset_inRange hv⟩

theorem handListed_reset {s : State} (hs : State.Resetting T N s) (hn : N x.node = true) : s.handListed a v = true := by
  have hauth : s.authE a = some x := by unfold State.authE; rw [hs.tab]; exact hx
  unfold State.handListed
  rw [handTaken_reset hx hk hv hs, hauth, Bool.true_and]
  exact (hs.present x.node).trans hn

/-- The command puts the actuator at rest. -/
theorem rested_hand {s : State} (hs : State.Resetting T N s) : State.Rested T N a x v (s.hand a v) where
  toResetting := hs.hand a v hv
  status := by rw [actS_hand, if_pos ⟨rfl, handTaken_reset hx hk hv hs⟩]
  command hn := by
    rw [listed_hand, if_pos (handTaken_reset hx hk hv hs), if_pos (handListed_reset hx hk hv hs hn)]
    exact List.mem_append.mpr (.inr (List.mem_singleton.mpr rfl))

/-- What else a reset commands leaves the actuator at rest: a command of the same kind is the same command. -/
theorem handing_rested : Handing (State.Rested T N a x v) where
  hand {s} b w hw hs := by
    by_cases hc : b = a ∧ s.handTaken b w = true
    · obtain ⟨rfl, ht⟩ := hc
      obtain ⟨e, he, hwk, _⟩ := (handTaken_iff s b w).mp ht
      have hex : e = x := by
        unfold State.authE at he
        rw [hs.tab, hx] at he
        exact (Option.some.inj he).symm
      have hwv : w = v := atReset_unique hw hv (by rw [hwk, hk, hex])
      rw [hwv]
      exact rested_hand hx hk hv hs.toResetting
    · refine ⟨hs.toResetting.hand b w hw, ?_, fun hn => ?_⟩
      · rw [actS_hand, if_neg fun h => hc ⟨h.1.symm, h.2⟩]
        exact hs.status
      · rw [listed_hand]
        split
        · next ht =>
          exact List.mem_append.mpr (.inl (List.mem_filter.mpr ⟨hs.command hn, by simpa using fun h => hc ⟨h.symm, ht⟩⟩))
        · exact hs.command hn
  modBerth b f hf hs := ⟨hs.toResetting.modBerth b f hf, hs.status, hs.command⟩
  putRun r q hs := ⟨hs.toResetting.putRun r q, hs.status, hs.command⟩
  wanted b hs := hs.wanted b

end

/-! ### Each actuator that is commanded -/

section
variable {T : Tables} {N : Nat → Bool} {a : Nat} {x : AuthEntry} (hx : (T.auth[a]?).join = some x) {s : State}
  (hs : State.Resetting T N s)
include hs

theorem resetHands_resetting : State.Resetting T N s.resetHands := by
  have h := handing_resetting T N
  unfold State.resetHands
  exact h.closeGates (h.engageRun 1 (h.engageRun 0 (h.handBooster 1 (h.handBooster 0
    (foldl_keeps (P := State.Resetting T N) (fun _ b ht => h.handBoth b ht) _ hs)))))

include hx

/-- What the berths' commands put at rest stays so to the end. -/
theorem resetHands_berth {v : ActValue} (hk : v.kind = x.kind) (hv : v.atReset) {b : Nat} {e : BerthEntry} (hb : (T.berth[b]?).join = some e)
    (hstep : ∀ t : State, State.Resetting T N t → State.Rested T N a x v ((t.handLamp b e).handLock b e)) :
    State.Rested T N a x v s.resetHands := by
  have h := handing_rested (N := N) hx hk hv
  have hb6 : b < 6 := by
    by_contra hb6
    rw [Vector.getElem?_eq_none (by omega)] at hb
    cases hb
  unfold State.resetHands
  refine h.closeGates (h.engageRun 1 (h.engageRun 0 (h.handBooster 1 (h.handBooster 0 ?_))))
  refine foldl_reaches (P := State.Resetting T N) (List.range 6) (List.mem_range.mpr hb6)
    (fun _ c _ ht => (handing_resetting T N).handBoth c ht) (fun t ht => ?_) (fun _ c _ ht => h.handBoth c ht) hs
  have hbe : t.berthE b = some e := by unfold State.berthE; rw [ht.tab]; exact hb
  unfold State.handBoth
  rw [hbe]
  exact hstep t ht

theorem resetHands_lamp (hk : ActValue.lampOff.kind = x.kind) {b : Nat} {e : BerthEntry} (hb : (T.berth[b]?).join = some e) (ha : e.lamp = a) :
    State.Rested T N a x .lampOff s.resetHands := by
  have hv : ActValue.lampOff.atReset := .inl rfl
  refine resetHands_berth hx hs hk hv hb fun t ht => (handing_rested hx hk hv).handLock b e ?_
  unfold State.handLamp
  rw [(ht.wanted b).1, ha]
  exact rested_hand hx hk hv (ht.modBerth b _ fun _ => ⟨rfl, rfl⟩)

theorem resetHands_lock (hk : ActValue.lockLock.kind = x.kind) {b : Nat} {e : BerthEntry} (hb : (T.berth[b]?).join = some e) (ha : e.lock = a) :
    State.Rested T N a x .lockLock s.resetHands := by
  have hv : ActValue.lockLock.atReset := .inr (.inl rfl)
  refine resetHands_berth hx hs hk hv hb fun t ht => ?_
  have h1 := (handing_resetting T N).handLamp b e ht
  unfold State.handLock
  rw [(h1.wanted b).2, ha]
  exact rested_hand hx hk hv (h1.modBerth b _ fun _ => ⟨rfl, rfl⟩)

theorem resetHands_booster (hk : ActValue.boosterSafe.kind = x.kind) {k : Nat} {e : LaunchEntry} (hl : (T.launch[k]?).join = some e) (ha : e.booster = a) :
    State.Rested T N a x .boosterSafe s.resetHands := by
  have hv : ActValue.boosterSafe.atReset := .inr (.inr (.inl rfl))
  have h := handing_rested (N := N) hx hk hv
  have hstep : ∀ t : State, State.Resetting T N t → State.Rested T N a x .boosterSafe (t.handBooster k .boosterSafe) := fun t ht => by
    have hle : t.launchE k = some e := by unfold State.launchE; rw [ht.tab]; exact hl
    unfold State.handBooster
    rw [hle, ← ha]
    subst ha
    exact rested_hand hx hk hv ht
  have hk2 : k < 2 := by
    by_contra hk2
    rw [Vector.getElem?_eq_none (by omega)] at hl
    cases hl
  have h0 : State.Resetting T N ((List.range 6).foldl (fun s b => s.handBoth b) s) :=
    foldl_keeps (P := State.Resetting T N) (fun _ b ht => (handing_resetting T N).handBoth b ht) _ hs
  unfold State.resetHands
  refine h.closeGates (h.engageRun 1 (h.engageRun 0 ?_))
  interval_cases k
  · exact h.handBooster 1 (hstep _ h0)
  · exact hstep _ ((handing_resetting T N).handBooster 0 h0)

theorem resetHands_fin (hk : ActValue.finEngage.kind = x.kind) {r i : Nat} {e : RunEntry} (hr : (T.run[r]?).join = some e) (hi : i < e.stages)
    (ha : ((T.stage[8 * r + i]?).getD ⟨0, 0, 0⟩).fin = a) : State.Rested T N a x .finEngage s.resetHands := by
  have hv : ActValue.finEngage.atReset := .inr (.inr (.inr (.inl rfl)))
  have h := handing_rested (N := N) hx hk hv
  have hR := handing_resetting T N
  have hfin : ∀ t : State, State.Resetting T N t → State.Rested T N a x .finEngage (t.handFin r i .finEngage) := fun t ht => by
    have hstage : (t.stageOf r i).fin = a := by
      unfold State.stageOf State.stageE
      rw [ht.tab]
      exact ha
    have h1 := rested_hand hx hk hv ht
    unfold State.handFin
    dsimp only
    rw [if_pos rfl, hstage]
    split
    · exact h.putRun _ _ h1
    · exact h1
  have hstep : ∀ t : State, State.Resetting T N t → State.Rested T N a x .finEngage (t.engageRun r) := fun t ht => by
    have hre : t.runE r = some e := by unfold State.runE; rw [ht.tab]; exact hr
    unfold State.engageRun
    rw [hre]
    exact h.putRun _ _ (foldl_reaches (P := State.Resetting T N) _ (List.mem_range.mpr hi) (fun _ j _ hj => hR.handFin r j hj) hfin
      (fun _ j _ hj => h.handFin r j hj) ht)
  have hr2 : r < 2 := by
    by_contra hr2
    rw [Vector.getElem?_eq_none (by omega)] at hr
    cases hr
  have h0 := hR.handBooster 1 (hR.handBooster 0 (foldl_keeps (P := State.Resetting T N) (fun _ b ht => hR.handBoth b ht) (List.range 6) hs))
  unfold State.resetHands
  refine h.closeGates ?_
  interval_cases r
  · exact h.engageRun 1 (hstep _ h0)
  · exact hstep _ (hR.engageRun 0 h0)

theorem resetHands_gate (hk : ActValue.gateClose.kind = x.kind) {z : Nat} {e : ZoneEntry} (hz : (T.zone[z]?).join = some e) (ha : e.gate = some a) :
    State.Rested T N a x .gateClose s.resetHands := by
  have hv : ActValue.gateClose.atReset := .inr (.inr (.inr (.inr rfl)))
  have h := handing_rested (N := N) hx hk hv
  have hR := handing_resetting T N
  have ha64 : a < 64 := by
    by_contra ha64
    rw [Vector.getElem?_eq_none (by omega)] at hx
    cases hx
  have h0 := hR.engageRun 1 (hR.engageRun 0 (hR.handBooster 1 (hR.handBooster 0
    (foldl_keeps (P := State.Resetting T N) (fun _ b ht => hR.handBoth b ht) (List.range 6) hs))))
  unfold State.resetHands
  revert h0
  dsimp only
  generalize ((((List.foldl (fun s b => s.handBoth b) s (List.range 6)).handBooster 0 ActValue.boosterSafe).handBooster 1
    ActValue.boosterSafe).engageRun 0).engageRun 1 = t
  intro h0
  unfold State.closeGates
  refine foldl_reaches (P := State.Resetting T N) (x := a) _ ?_ (fun _ c _ hc => hR.hand c _ hv hc) (fun _ hc => rested_hand hx hk hv hc)
    (fun _ c _ hc => h.hand c _ hv hc) h0
  refine List.mem_filter.mpr ⟨List.mem_range.mpr ha64, List.any_eq_true.mpr ⟨(z, e), mem_definedZones.mpr ?_, by simp [ha]⟩⟩
  unfold State.zoneE
  rw [h0.tab]
  exact hz

end

end Sys2Proof.Machine
end

section
/-! A management reset: the request, the state it leaves and its response (R17, R148, R173, R181): settles O57. -/

namespace Sys2Proof.Machine

/-! ### The response -/

/-- Notices and responses that leave touch nothing but the upline port, what is held for it and the notice queue. -/
theorem pumpUp_eq (s : State) : ∃ up held notices, s.pumpUp = { s with up := up, held := held, notices := notices } ∧
    (s.notices = [] → notices = []) := by
  have placed : ∀ t : State, ∃ up held, t.placeHeld = { t with up := up, held := held } := fun t => by
    unfold State.placeHeld
    split
    · exact ⟨t.up, t.held, rfl⟩
    · split
      · exact ⟨_, _, rfl⟩
      · exact ⟨t.up, t.held, rfl⟩
  have built : ∀ t : State, ∃ up notices, t.buildNotice = { t with up := up, notices := notices } ∧ (t.notices = [] → notices = []) :=
    fun t => by
      unfold State.buildNotice
      split
      · exact ⟨t.up, t.notices, rfl, id⟩
      · exact ⟨_, _, rfl, fun h => by rw [h]; rfl⟩
  have filled : ∀ t : State, ∃ up held notices, t.fillUp = { t with up := up, held := held, notices := notices } ∧
      (t.notices = [] → notices = []) := fun t => by
    obtain ⟨u1, h1, e1⟩ := placed t
    obtain ⟨u2, n2, e2, k2⟩ := built t.placeHeld
    obtain ⟨u3, n3, e3, k3⟩ := built t.placeHeld.buildNotice
    refine ⟨u3, h1, n3, ?_, fun hn => k3 ?_⟩
    · unfold State.fillUp
      rw [e3, e2, e1]
    · rw [e2]
      refine k2 ?_
      rw [e1]
      exact hn
  obtain ⟨u1, h1, n1, e1, k1⟩ := filled s.startUp
  obtain ⟨u2, h2, n2, e2, k2⟩ := filled s.startUp.fillUp.startUp
  refine ⟨u2, h2, n2, ?_, fun hn => k2 ?_⟩
  · unfold State.pumpUp
    rw [e2, e1]
    rfl
  · rw [e1]
    exact k1 hn

theorem respond_eq (s : State) (l : List MgmtResult) : ∃ up held notices,
    s.respond l = { s with up := up, held := held, notices := notices, ev := { s.ev with holdNotices := false } } ∧
    (s.notices = [] → notices = []) := by
  obtain ⟨up, held, notices, he, hn⟩ := pumpUp_eq (({ s with held := some ⟨s.supervisorFrame 7 (l.map resultRecord), []⟩ } : State).modEv
    fun e => { e with holdNotices := false })
  exact ⟨up, held, notices, he, hn⟩

/-- Where a frame for the supervisor stands from its building on. -/
def State.carries (s : State) (f : QFrame) : Prop := s.up.tx = some f ∨ f ∈ s.up.origin ∨ s.held = some f

theorem carries_startUp {s : State} {f : QFrame} (h : s.carries f) : s.startUp.carries f := by
  have hstart : s.up.tx = some f ∨ f ∈ s.up.origin → s.up.start.tx = some f ∨ f ∈ s.up.start.origin := by
    intro h
    unfold PortState.start
    split
    · exact h
    · next htx =>
      have hmem : f ∈ s.up.origin := h.resolve_left fun h => by rw [htx] at h; cases h
      split
      · next g _ =>
        by_cases hg : g = f
        · exact .inl (congrArg some hg)
        · exact .inr ((List.mem_erase_of_ne fun h => hg h.symm).mpr hmem)
      · split
        · exact .inr hmem
        · split
          · next g rest ho =>
            rw [ho] at hmem
            rcases List.mem_cons.mp hmem with rfl | hm
            · exact .inl rfl
            · exact .inr hm
          · exact .inr hmem
  rcases h with h | h | h
  · rcases hstart (.inl h) with h | h
    · exact .inl h
    · exact .inr (.inl h)
  · rcases hstart (.inr h) with h | h
    · exact .inl h
    · exact .inr (.inl h)
  · exact .inr (.inr h)

theorem carries_placeHeld {s : State} {f : QFrame} (h : s.carries f) : s.placeHeld.carries f := by
  unfold State.placeHeld
  split
  · exact h
  · next g hg =>
    split
    · rcases h with h | h | h
      · exact .inl h
      · exact .inr (.inl (List.mem_append.mpr (.inl h)))
      · rw [hg] at h
        injection h with h
        exact .inr (.inl (List.mem_append.mpr (.inr (List.mem_singleton.mpr h.symm))))
    · exact h

theorem carries_buildNotice {s : State} {f : QFrame} (h : s.carries f) : s.buildNotice.carries f := by
  unfold State.buildNotice
  split
  · exact h
  · rcases h with h | h | h
    · exact .inl h
    · exact .inr (.inl (List.mem_append.mpr (.inl h)))
    · exact .inr (.inr h)

theorem carries_fillUp {s : State} {f : QFrame} (h : s.carries f) : s.fillUp.carries f :=
  carries_buildNotice (carries_buildNotice (carries_placeHeld h))

/-- A response is held only where there is no room for it. -/
theorem held_fillUp {s : State} {f : QFrame} (h : s.fillUp.held = some f) : s.fillUp.up.room = false := by
  have still : ∀ {t : State}, t.held = some f → t.buildNotice = t := fun {t} ht => by
    unfold State.buildNotice
    rw [if_pos (by rw [ht]; simp)]
  have heldB : ∀ t : State, t.buildNotice.held = t.held := fun t => by
    unfold State.buildNotice
    split <;> rfl
  have hplaced : s.placeHeld.held = some f := by
    unfold State.fillUp at h
    rwa [heldB, heldB] at h
  have hfill : s.fillUp = s.placeHeld := by
    unfold State.fillUp
    rw [still hplaced, still hplaced]
  rw [hfill]
  revert hplaced
  unfold State.placeHeld
  split
  · next hn => intro hp; rw [hn] at hp; cases hp
  · split
    · intro hp; cases hp
    · next hr => exact fun _ => Bool.eq_false_iff.mpr hr

theorem responded_respond (s : State) (l : List MgmtResult) : (s.respond l).responded l := by
  obtain ⟨_, _, _, he, _⟩ := respond_eq s l
  refine ⟨⟨s.supervisorFrame 7 (l.map resultRecord), []⟩, ?_, by rw [he]; rfl⟩
  have hstart : (({ s with held := some ⟨s.supervisorFrame 7 (l.map resultRecord), []⟩ } : State).modEv fun e =>
      { e with holdNotices := false }).carries ⟨s.supervisorFrame 7 (l.map resultRecord), []⟩ := .inr (.inr rfl)
  unfold State.respond
  generalize (({ s with held := some ⟨s.supervisorFrame 7 (l.map resultRecord), []⟩ } : State).modEv fun e =>
    { e with holdNotices := false }) = t at hstart
  have hcar : t.pumpUp.carries _ := carries_fillUp (carries_startUp (carries_fillUp (carries_startUp hstart)))
  rcases hcar with h | h | h
  · exact .inl h
  · exact .inr (.inl h)
  · exact .inr (.inr ⟨h, held_fillUp h⟩)

/-! ### The request -/

/-- At moment `t` a request has had a RESET record of kind `k` and nothing else. -/
def State.asked (s : State) (t : Nat) (k : ResetKind) : State :=
  { s.opened t with req := some ⟨[⟨.ok, 0, 0, [], true⟩], none, some k, false, false⟩ }

/-- The state a reset asked for at moment `t` starts from: the event of its record has ended. -/
def State.askedEnd (s : State) (t : Nat) (k : ResetKind) : State :=
  (State.event (fun _ => s.asked t k) (s.at_ t)).modEv fun e => { e with holdNotices := true }

/-- The state after a reset and its response, which reports the mode (R181). -/
def State.answeredReset (v : State) : State :=
  ({ v with req := none } : State).respond [⟨.ok, 0, 0, enc1 v.mode.code, true⟩]

theorem desk_modEv (s : State) (f : Ev → Ev) : (s.modEv f).desk = s.desk := rfl

theorem desk_askedEnd (s : State) (t : Nat) (k : ResetKind) : (s.askedEnd t k).desk = (s.asked t k).desk := by
  unfold State.askedEnd
  rw [desk_modEv, desk_event]

theorem mc_askedEnd (s : State) (t : Nat) (k : ResetKind) : (s.askedEnd t k).mc = s.mc := by
  unfold State.askedEnd
  rw [modEv_mc, mc_event]
  rfl

/-- A reset record that begins and ends its request is done, and answered (R173, R181). -/
theorem completes_reset {c : Instr} {s : State} {t n : Nat} {k : ResetKind} {Q : State → Prop} (hc : exec c s = s.manage t true (.reset n))
    (hn : n = 0 ∧ k = .runtime ∨ n = 1 ∧ k = .full) (hf : s.requestFree) (hQ : Q ((s.askedEnd t k).doReset k).answeredReset) :
    Completes c s Q := by
  have hrec : (s.at_ t).openRequest.takeRecord (.reset n) = s.asked t k := by
    rw [openRequest_free hf]
    rcases hn with ⟨rfl, rfl⟩ | ⟨rfl, rfl⟩ <;> rfl
  have hreq : (State.event (fun _ => s.asked t k) (s.at_ t)).req = some ⟨[⟨.ok, 0, 0, [], true⟩], none, some k, false, false⟩ := by
    rw [← desk_req, desk_event]
    rfl
  refine ⟨((s.askedEnd t k).doReset k).answeredReset, ?_, hQ⟩
  rw [hc]
  unfold State.manage
  rw [event_congr (f := fun s => s.openRequest.takeRecord (.reset n)) (g := fun _ => s.asked t k) hrec]
  unfold State.closeRequest
  dsimp only
  rw [if_pos rfl, hreq]
  rfl

/-- The lasting parts of node status. -/
def State.lasting (s : State) (n : Nat) : Roster × Option Nat × Bool :=
  ((s.nodeS n).state, (s.nodeS n).lastHeard, (s.nodeS n).localFault)

theorem lasting_soft {s : State} {m : Nat} {q : NodeStatus} (hq : (s.nodeS m).Soft q) (n : Nat) : (s.putNode m q).lasting n = s.lasting n := by
  unfold State.lasting
  rw [nodeS_putNode]
  split
  · next hc =>
    unfold NodeStatus.Soft at hq
    rw [hc.1, ← hq]
  · rfl

theorem calm_lasting (v : Nat → Roster × Option Nat × Bool) : Calm fun s => ∀ n, s.lasting n = v n := by
  have same : ∀ {s u : State}, u.nodes = s.nodes → (∀ n, s.lasting n = v n) → ∀ n, u.lasting n = v n := fun h hs n => by
    unfold State.lasting State.nodeS at *
    rw [h]
    exact hs n
  have hand : ∀ (s : State) a x, (s.handRaw a x).nodes = s.nodes := fun s a x => by
    unfold State.handRaw
    split
    · rfl
    · dsimp only
      split <;> rfl
  exact {
    startUp := fun hs => hs
    placeHeld := fun {s} hs => same (by unfold State.placeHeld; split; · rfl
                                        · split <;> rfl) hs
    buildNotice := fun {s} hs => same (by unfold State.buildNotice; split <;> rfl) hs
    startDn := fun hs => hs
    placeLimit := fun {s} m e _ hs n => (lasting_soft (s := s) (m := m) (q := { s.nodeS m with
      limitPending := false, join := if (s.nodeS m).state = .joining then some s.now else (s.nodeS m).join }) rfl n).trans (hs n)
    placeCommands := fun _ _ hs => hs
    queueNotice := fun _ _ hs => hs
    dropNotice := fun hs => hs
    handRaw := fun {s} a x _ hs => same (hand s a x) hs
    handAny := fun {s} a x _ hs => same (hand s a x) hs
    modEv := fun _ hs => hs
    putZs := fun _ _ _ hs => hs
    putBerth := fun _ _ _ hs => hs
    putNode := fun m q hq hs n => (lasting_soft hq n).trans (hs n)
    modBoat := fun _ _ _ hs => same (by simp) hs
    putRel := fun _ _ hs => same (by simp) hs
    filterQueue := fun _ hs => hs
    putSeq := fun _ _ _ _ hs => hs
    driveLines := fun hs => hs
    bump := fun _ hs => hs
    useFree := fun hs => hs
    putRun := fun _ _ hs => hs
    setQueue := fun _ _ hs => hs
    looseZs := fun _ _ _ hs => hs
    looseBerth := fun _ _ hs => hs
    looseSeq := fun _ _ _ hs => hs
    loosePulse := fun _ _ hs => hs
    tripBoat := fun _ _ _ hs => same (by simp) hs
    modMc := fun _ hs => hs }

theorem lasting_askedEnd (s : State) (t : Nat) (k : ResetKind) (n : Nat) : (s.askedEnd t k).lasting n = s.lasting n :=
  (calm_lasting s.lasting).modEv _ ((calm_lasting s.lasting).toMild.event (s := s.at_ t) (f := fun _ => s.asked t k) fun _ => rfl) n

end Sys2Proof.Machine
end

section
/-! What a RUNTIME reset leaves, with and without ESTOP (R17, R39, R148, R181): settles O57. -/

namespace Sys2Proof.Machine

/-! ### What a reset's commands and holds leave alone -/

/-- What neither commands to actuators nor holds touch, the port, the responses and the model's own fields apart. -/
structure Rest where
  desk : Desk
  mc : ModeCtl
  boats : Vector (Option Boat) 24
  rel : Vector (Option Release) 24
  queue : List QEntry
  seqs : Vector Seq 2
  pulses : Vector (Option Nat) 8
  notices : List Notice
  holder : Option Holding
  zones : Nat → ZoneStatus
  nodes : Nat → Roster × Option Nat × Bool

/-- A zone's status but for its holds. -/
def ZoneStatus.unheld (q : ZoneStatus) : ZoneStatus := { q with nodeHold := false, userHold := false }

def State.rest (s : State) : Rest :=
  ⟨s.desk, s.mc, s.boats, s.rel, s.queue, s.seqs, s.pulses, s.notices, s.holder, fun z => (s.zst z).unheld, s.lasting⟩

section
variable {s u : State} (h : u.rest = s.rest)
include h

theorem desk_of_rest : u.desk = s.desk := congrArg Rest.desk h
theorem mc_of_rest : u.mc = s.mc := congrArg Rest.mc h
theorem boats_of_rest : u.boats = s.boats := congrArg Rest.boats h
theorem rel_of_rest : u.rel = s.rel := congrArg Rest.rel h
theorem queue_of_rest : u.queue = s.queue := congrArg Rest.queue h
theorem seqs_of_rest : u.seqs = s.seqs := congrArg Rest.seqs h
theorem pulses_of_rest : u.pulses = s.pulses := congrArg Rest.pulses h
theorem notices_of_rest : u.notices = s.notices := congrArg Rest.notices h
theorem holder_of_rest : u.holder = s.holder := congrArg Rest.holder h
theorem unheld_of_rest (z : Nat) : (u.zst z).unheld = (s.zst z).unheld := congrFun (congrArg Rest.zones h) z
theorem lasting_of_rest (n : Nat) : u.lasting n = s.lasting n := congrFun (congrArg Rest.nodes h) n

end

theorem rest_placeLimit (s : State) (n : Nat) (e : NodeEntry) : (s.placeLimit n e).rest = s.rest := by
  have h : (s.placeLimit n e).lasting = s.lasting := funext fun m =>
    lasting_soft (s := s) (m := n) (q := { s.nodeS n with
      limitPending := false, join := if (s.nodeS n).state = .joining then some s.now else (s.nodeS n).join }) rfl m
  unfold State.rest
  rw [h]
  rfl

theorem rest_hand (s : State) (a : Nat) (v : ActValue) : (s.hand a v).rest = s.rest := by
  unfold State.hand
  rw [pumpDn_view State.rest (fun _ => rfl) rest_placeLimit (fun _ _ => rfl)]
  unfold State.handRaw
  split
  · rfl
  · dsimp only
    split <;> rfl

theorem rest_setZs {s : State} {z : Nat} {q : ZoneStatus} (hq : q.unheld = (s.zst z).unheld) : (s.setZs z q).rest = s.rest := by
  have h : (fun w => ((s.setZs z q).zst w).unheld) = fun w => (s.zst w).unheld := funext fun w => by
    rw [zst_setZs]
    split
    · next hw => rw [hq, hw.1]
    · rfl
  unfold State.rest
  rw [h]
  rfl

theorem rest_evalNodeHold (s : State) (z : Nat) : (s.evalNodeHold z).rest = s.rest := by
  unfold State.evalNodeHold
  split
  · rfl
  · split
    · rfl
    · exact rest_setZs rfl

theorem rest_evalUserHolds (s : State) : s.evalUserHolds.rest = s.rest :=
  foldl_view State.rest (fun t p => by dsimp only; split; · rfl
                                       · exact rest_setZs rfl) _ s

theorem handing_rest (T : Tables) (N : Nat → Bool) (R : Rest) : Handing fun s => State.Resetting T N s ∧ s.rest = R where
  hand a v hv hs := ⟨hs.1.hand a v hv, (rest_hand _ a v).trans hs.2⟩
  modBerth b f hf hs := ⟨hs.1.modBerth b f hf, hs.2⟩
  putRun r q hs := ⟨hs.1.putRun r q, hs.2⟩
  wanted b hs := hs.1.wanted b

/-! ### The state after a RUNTIME reset -/

/-- What follows a reset's commands: holds and lines (R17, R160). -/
def State.resetHolds (s : State) : State :=
  ((s.definedZones.foldl (fun s p => s.evalNodeHold p.1) s).evalUserHolds.driveLines).clearEv

theorem resetRuntime_eq (s : State) : s.resetRuntime = s.wipe.resetHands.resetHolds := rfl

theorem rest_resetHolds (s : State) : s.resetHolds.rest = s.rest := by
  have h : (s.definedZones.foldl (fun s p => s.evalNodeHold p.1) s).evalUserHolds.rest = s.rest :=
    (rest_evalUserHolds _).trans (foldl_view State.rest (fun t (p : Nat × ZoneEntry) => rest_evalNodeHold t p.1) _ s)
  exact h

theorem bench_evalNodeHold (s : State) (z : Nat) : (s.evalNodeHold z).bench = s.bench := by
  unfold State.evalNodeHold
  split
  · rfl
  · split <;> rfl

theorem acts_cmds_resetHolds (s : State) : s.resetHolds.acts = s.acts ∧ s.resetHolds.cmds = s.cmds := by
  have h : (s.definedZones.foldl (fun s p => s.evalNodeHold p.1) s).evalUserHolds.bench = s.bench :=
    (bench_evalUserHolds _).trans (foldl_view State.bench (fun t (p : Nat × ZoneEntry) => bench_evalNodeHold t p.1) _ s)
  unfold State.resetHolds
  exact ⟨by rw [clearEv_acts, driveLines_acts, acts_of_bench h], by rw [clearEv_cmds, driveLines_cmds, cmds_of_bench h]⟩

theorem resetting_wipe (s : State) : State.Resetting s.tab (fun n => (s.nodeS n).state.present) s.wipe where
  tab := rfl
  present _ := rfl
  listed _ hp := nomatch hp
  wanted b := by
    have h : s.wipe.berthS b = ((s.berths.map BerthStatus.wiped)[b]?).getD BerthStatus.initial := rfl
    rw [h, Vector.getElem?_map]
    cases s.berths[b]? <;> exact ⟨rfl, rfl⟩

theorem rest_resetRuntime (s : State) : s.resetRuntime.rest = s.wipe.rest := by
  have h := handing_rest s.tab (fun n => (s.nodeS n).state.present) s.wipe.rest
  have hands : State.Resetting s.tab (fun n => (s.nodeS n).state.present) s.wipe.resetHands ∧ s.wipe.resetHands.rest = s.wipe.rest := by
    unfold State.resetHands
    exact h.closeGates (h.engageRun 1 (h.engageRun 0 (h.handBooster 1 (h.handBooster 0
      (foldl_keeps (P := fun t => State.Resetting s.tab (fun n => (s.nodeS n).state.present) t ∧ t.rest = s.wipe.rest)
        (fun _ b ht => h.handBoth b ht) _ ⟨resetting_wipe s, rfl⟩)))))
  rw [resetRuntime_eq, rest_resetHolds, hands.2]

/-- Every zone is without occupant, reservation, fault, latch and watch after a RUNTIME reset (R17). -/
theorem unheld_resetRuntime (s : State) (z : Nat) : (s.resetRuntime.zst z).unheld = .clear := by
  rw [unheld_of_rest (rest_resetRuntime s) z]
  have h : s.wipe.zst z = ((s.zs.map ZoneStatus.wiped)[z]?).getD ZoneStatus.clear := rfl
  rw [h, Vector.getElem?_map]
  cases s.zs[z]? <;> rfl

theorem mode_resetRuntime (s : State) : s.resetRuntime.mode = .config := by
  unfold State.mode
  rw [mc_of_rest (rest_resetRuntime s)]
  rfl

theorem estop_resetRuntime (s : State) : s.resetRuntime.mc.estop = s.mc.estop := by
  rw [mc_of_rest (rest_resetRuntime s)]
  rfl

theorem linesSound_resetRuntime (s : State) : s.resetRuntime.linesSound :=
  linesSound_of_view (holdView_clearEv _) rfl (linesSound_driveLines _)

theorem holdsSound_resetRuntime (s : State) : s.resetRuntime.holdsSound :=
  holdsSound_of_view (holdView_clearEv _) (holdsSound_of_view (holdView_driveLines _) (holdsSound_evalUserHolds (nodeHoldsRight_evalAll _)))

/-! ### The STOP that ESTOP brings -/

/-- Nothing is on the water and nothing is asked for: no boat, no release, no queue entry, no sequencer at work. -/
structure State.Void (s : State) : Prop where
  boats : s.boats = Vector.replicate 24 none
  rel : s.rel = Vector.replicate 24 none
  queue : s.queue = []
  seqs : s.seqs = Vector.replicate 2 .idle
  holder : s.holder = none

theorem State.Void.congr {s u : State} (h : s.Void) (hb : u.boats = s.boats) (hr : u.rel = s.rel) (hq : u.queue = s.queue)
    (hs : u.seqs = s.seqs) (hh : u.holder = s.holder) : u.Void :=
  ⟨hb.trans h.boats, hr.trans h.rel, hq.trans h.queue, hs.trans h.seqs, hh.trans h.holder⟩

theorem base_void : Base State.Void where
  startUp hs := hs.congr rfl rfl rfl rfl rfl
  placeHeld {s} hs := by
    unfold State.placeHeld
    split
    · exact hs
    · split
      · exact hs.congr rfl rfl rfl rfl rfl
      · exact hs
  buildNotice {s} hs := by
    unfold State.buildNotice
    split
    · exact hs
    · exact hs.congr rfl rfl rfl rfl rfl
  startDn hs := hs.congr rfl rfl rfl rfl rfl
  placeLimit _ _ _ hs := hs.congr rfl rfl rfl rfl rfl
  placeCommands _ _ hs := hs.congr rfl rfl rfl rfl rfl
  queueNotice _ _ hs := hs.congr rfl rfl rfl rfl rfl
  dropNotice hs := hs.congr rfl rfl rfl rfl rfl
  handRaw {s} a v _ hs := by
    unfold State.handRaw
    split
    · exact hs
    · dsimp only
      split <;> exact hs.congr rfl rfl rfl rfl rfl
  modEv _ hs := hs.congr rfl rfl rfl rfl rfl
  putZs _ _ _ hs := hs.congr rfl rfl rfl rfl rfl
  putBerth _ _ _ hs := hs.congr rfl rfl rfl rfl rfl
  putNode _ _ _ hs := hs.congr rfl rfl rfl rfl rfl

/-- Runs are restored by commands at rest alone (R112, R116). -/
theorem Base.restoreRun {P : State → Prop} (h : Base P) (hr : ∀ {s : State} r q, P s → P (s.putRun r q)) {s : State} (r : Nat) (hs : P s) :
    P (s.restoreRun r) := by
  have hfin : ∀ {t : State} i, P t → P (t.handFin r i .finEngage) := fun {t} i ht => by
    have h1 := h.handRest (t.stageOf r i).fin .finEngage rfl ht
    unfold State.handFin
    dsimp only
    rw [if_pos rfl]
    split
    · exact hr _ _ h1
    · exact h1
  unfold State.restoreRun
  split
  · exact hs
  · refine hr _ _ (foldl_keeps_mem (P := P) _ (fun t i hi ht => ?_) hs)
    dsimp only
    rw [if_pos (List.mem_range.mp hi)]
    split
    · exact ht
    · exact hfin i ht

theorem State.Void.boatR {s : State} (h : s.Void) (b : Nat) : s.boatR b = none := boatR_of_empty h.boats b
theorem State.Void.release {s : State} (h : s.Void) (b : Nat) : s.release b = none := release_of_empty h.rel b
theorem State.Void.seqS {s : State} (h : s.Void) (k : Nat) : s.seqS k = .idle := by
  unfold State.seqS
  rw [h.seqs]
  exact getD_replicate_self 2 k Seq.idle

theorem State.Void.withdrawAll {s : State} (h : s.Void) : s.withdrawAll.Void := by
  unfold State.withdrawAll
  rw [h.queue]
  exact h.congr rfl rfl h.queue.symm rfl rfl

theorem State.Void.returnAll {s : State} (h : s.Void) : s.returnAll.Void := by
  have hid : s.returnAll = s := by
    refine foldl_keeps (P := (· = s)) (fun t i ht => ?_) (List.range 24) rfl
    rw [ht, h.boatR]
  rw [hid]
  exact h

theorem State.Void.modMc {s : State} (h : s.Void) (f : ModeCtl → ModeCtl) : (s.modMc f).Void := h.congr rfl rfl rfl rfl rfl

theorem State.Void.goStop {s : State} (h : s.Void) (c : Cause) : (s.goStop c).Void := by
  have hput : ∀ {s : State} r q, s.Void → (s.putRun r q).Void := fun r q hs => hs.congr rfl rfl rfl rfl rfl
  have hsafe : ∀ {t : State}, t.Void → t.boostersToSafe.Void := fun {t} ht => by
    unfold State.boostersToSafe
    rw [if_pos ⟨by rw [ht.seqS]; rfl, by rw [ht.seqS]; rfl⟩]
    exact base_void.boostersSafeByMode ht
  have hcheck : s.abortCheck.Void := by
    unfold State.abortCheck
    split
    · exact h
    · exact h.modMc _
  unfold State.goStop
  split
  · exact h
  · unfold State.changeMode State.enterMode State.enterStop State.restoreRuns
    exact base_void.handAllRest _ (sharedSafe_resting _) (base_void.restoreRun hput 1 (base_void.restoreRun hput 0 (base_void.closeGates
      (hsafe ((base_void.notice _ (hcheck.modMc _)).modMc _).withdrawAll.returnAll))))

theorem State.Void.event {f : State → State} {s : State} (h : (f s).Void) (hm : (f s).mode ≠ .run) : (State.event f s).Void := by
  have hpulse : ∀ {t : State} u, t.Void → (t.startPulse u).Void := fun u ht => ht.congr rfl rfl rfl rfl rfl
  have hlines : ∀ {t : State}, t.Void → t.driveLines.Void := fun ht => ht.congr rfl rfl rfl rfl rfl
  unfold State.event
  exact base_void.clearEv (base_void.settle hpulse hlines s hm (fun k _ => by rw [h.seqS]; decide) h)

theorem void_resetRuntime (s : State) : s.resetRuntime.Void := by
  have h := rest_resetRuntime s
  exact ⟨boats_of_rest h, rel_of_rest h, queue_of_rest h, seqs_of_rest h, holder_of_rest h⟩

/-- The STOP at once after a reset under ESTOP (R141, R148). -/
theorem thenStop_estop {s : State} (h : s.mc.estop = true) : s.thenStop = State.event (fun s => s.goStop .estop) s := by
  unfold State.thenStop
  rw [if_pos h]

theorem thenStop_clear {s : State} (h : s.mc.estop = false) : s.thenStop = s := by
  unfold State.thenStop
  rw [h]
  rfl

/-- ESTOP takes a part in CONFIG to STOP, its stop output set; management is left as it was (R141). -/
theorem stopped_thenStop {s : State} (h : s.mc.estop = true) (hm : s.mode = .config) :
    s.thenStop.mode = .stop ∧ s.thenStop.mc.stopOut = true ∧ s.thenStop.desk = s.desk := by
  have hd := (calm_desk s.desk).goStop .estop rfl
  rw [thenStop_estop h]
  refine ⟨?_, ?_, ?_⟩
  · unfold State.mode
    rw [mc_event]
    exact mode_goStop s _
  · rw [mc_event]
    unfold State.goStop
    rw [if_neg (by rw [hm]; decide), mc_changeStop]
  · rw [desk_event]
    exact hd

end Sys2Proof.Machine
end

section
/-! The two resets as management records: settles O57. -/

namespace Sys2Proof.Machine

theorem answeredReset_eq (v : State) : ∃ up held notices, v.answeredReset =
    { v with req := none, up := up, held := held, notices := notices, ev := { v.ev with holdNotices := false } } ∧
    (v.notices = [] → notices = []) := respond_eq _ _

theorem responded_answeredReset (v : State) : v.answeredReset.responded [⟨.ok, 0, 0, enc1 v.mode.code, true⟩] := responded_respond _ _

theorem Between.answeredReset {P : State → Prop} (h : Between P) {v : State} (hs : P v) : P v.answeredReset :=
  h.respond _ (h.noReq hs)

theorem desk_resetRuntime (s : State) : s.resetRuntime.desk = s.desk := (desk_of_rest (rest_resetRuntime s)).trans rfl
theorem lasting_resetRuntime (s : State) (n : Nat) : s.resetRuntime.lasting n = s.lasting n :=
  (lasting_of_rest (rest_resetRuntime s) n).trans rfl
theorem estop_resetFull (s : State) : s.resetFull.mc.estop = s.mc.estop := rfl
theorem tab_askedEnd (s : State) (t : Nat) (k : ResetKind) : (s.askedEnd t k).tab = s.tab := by
  rw [← desk_tab, desk_askedEnd]
  rfl
theorem doReset_runtime_stop (s : State) : s.doReset .runtime = s.resetRuntime.thenStop := rfl
theorem doReset_full_stop (s : State) : s.doReset .full = s.resetFull.thenStop := rfl

theorem doReset_runtime {s : State} (h : s.mc.estop = false) : s.doReset .runtime = s.resetRuntime :=
  thenStop_clear ((estop_resetRuntime s).trans h)

theorem doReset_full {s : State} (h : s.mc.estop = false) : s.doReset .full = s.resetFull := thenStop_clear h

/-! ### RUNTIME without ESTOP -/

section
variable {s : State} {t : Nat} (hf : s.requestFree)
include hf

/-- What a RUNTIME reset clears and keeps (R181). -/
theorem completes_runtime (he : s.mc.estop = false) : Completes (.resetRuntime t true) s fun u =>
    u.mode = .config ∧ u.mc.layoutChecked = false ∧ u.mc.stopOut = false ∧ u.tab = s.tab ∧ u.ptr = s.ptr ∧
    u.mask = s.mask ∧ u.inputs = s.inputs ∧ u.addr = s.addr ∧ u.rate = s.rate ∧ u.queue = [] ∧ u.notices = [] ∧
    u.holder = none ∧ u.req = none ∧ (∀ b, u.boatR b = none ∧ u.release b = none) ∧
    (∀ k, u.seqS k = .idle) ∧ (∀ x : Nat, x < 8 → u.pulses[x]? = some none) ∧
    (∀ z, u.occupant z = none ∧ (u.zst z).reserved = none ∧ (u.zst z).fault = none ∧ (u.zst z).latch = false ∧
      (u.zst z).watch = none) ∧
    u.responded [⟨.ok, 0, 0, enc1 (Mode.code .config), true⟩] := by
  refine completes_reset rfl (.inl ⟨rfl, rfl⟩) hf ?_
  have hestop : (s.askedEnd t .runtime).mc.estop = false := by rw [mc_askedEnd]; exact he
  have hdesk := desk_askedEnd s t .runtime
  rw [doReset_runtime hestop]
  have hrest := rest_resetRuntime (s.askedEnd t .runtime)
  have hvoid := void_resetRuntime (s.askedEnd t .runtime)
  have hzone := unheld_resetRuntime (s.askedEnd t .runtime)
  have hmode := mode_resetRuntime (s.askedEnd t .runtime)
  generalize s.askedEnd t .runtime = w at hdesk hrest hvoid hzone hmode
  have hd : w.resetRuntime.desk = (s.asked t .runtime).desk := (desk_of_rest hrest).trans hdesk
  have hmc := mc_of_rest hrest
  have hpulses := pulses_of_rest hrest
  have hnotices := notices_of_rest hrest
  have hresp := responded_answeredReset w.resetRuntime
  rw [hmode] at hresp
  generalize w.resetRuntime = v at hd hmc hpulses hnotices hresp hvoid hzone hmode
  obtain ⟨up, held, notices, hu, hn⟩ := answeredReset_eq v
  refine ⟨?_, ?_, ?_, ?_, ?_, ?_, ?_, ?_, ?_, ?_, ?_, ?_, ?_, ?_, ?_, ?_, ?_, hresp⟩
  all_goals rw [hu]
  · exact hmode
  · exact congrArg ModeCtl.layoutChecked hmc
  · exact congrArg ModeCtl.stopOut hmc
  · exact congrArg Desk.tab hd
  · exact congrArg Desk.ptr hd
  · exact congrArg Desk.mask hd
  · exact congrArg Desk.inputs hd
  · exact congrArg Desk.addr hd
  · exact congrArg Desk.rate hd
  · exact hvoid.queue
  · exact hn hnotices
  · exact hvoid.holder
  · exact fun b => ⟨hvoid.boatR b, hvoid.release b⟩
  · exact hvoid.seqS
  · intro x hx
    show v.pulses[x]? = some none
    rw [hpulses]
    show (Vector.replicate 8 (none : Option Nat))[x]? = some none
    rw [Vector.getElem?_replicate, if_pos hx]
  · intro z
    exact ⟨congrArg ZoneStatus.occupant (hzone z), congrArg ZoneStatus.reserved (hzone z), congrArg ZoneStatus.fault (hzone z),
      congrArg ZoneStatus.latch (hzone z), congrArg ZoneStatus.watch (hzone z)⟩

/-- What a RUNTIME reset commands, and the nodes, lines and holds after it (R79, R95, R116, R148). -/
theorem completes_runtimeHands (he : s.mc.estop = false) : Completes (.resetRuntime t true) s fun u =>
    (∀ n, (u.nodeS n).state = (s.nodeS n).state ∧ (u.nodeS n).lastHeard = (s.nodeS n).lastHeard ∧
      (u.nodeS n).localFault = (s.nodeS n).localFault) ∧
    u.linesSound ∧ u.holdsSound ∧
    (∀ c ∈ u.cmds, c.value = .lampOff ∨ c.value = .lockLock ∨ c.value = .boosterSafe ∨ c.value = .finEngage ∨
      c.value = .gateClose) ∧
    ∀ a v x, s.authE a = some x →
      (x.kind = .lamp ∧ v = .lampOff ∧ (∃ b e, s.berthE b = some e ∧ e.lamp = a)) ∨
      (x.kind = .lock ∧ v = .lockLock ∧ (∃ b e, s.berthE b = some e ∧ e.lock = a)) ∨
      (x.kind = .booster ∧ v = .boosterSafe ∧ (∃ k e, s.launchE k = some e ∧ e.booster = a)) ∨
      (x.kind = .fin ∧ v = .finEngage ∧ (∃ r e i, s.runE r = some e ∧ i < e.stages ∧ (s.stageOf r i).fin = a)) ∨
      (x.kind = .gate ∧ v = .gateClose ∧ (∃ z e, s.zoneE z = some e ∧ e.gate = some a)) →
      u.actS a = ⟨some v, false⟩ ∧
      ((s.nodeS x.node).state.present = true → ∃ c ∈ u.cmds, c.act = a ∧ c.value = v) := by
  refine completes_reset rfl (.inl ⟨rfl, rfl⟩) hf ?_
  have hestop : (s.askedEnd t .runtime).mc.estop = false := by rw [mc_askedEnd]; exact he
  rw [doReset_runtime hestop]
  have htab := tab_askedEnd s t .runtime
  have hlast : ∀ n, (s.askedEnd t .runtime).resetRuntime.lasting n = s.lasting n := fun n =>
    (lasting_resetRuntime (s.askedEnd t .runtime) n).trans (lasting_askedEnd s t .runtime n)
  have hpres : (fun n => ((s.askedEnd t .runtime).nodeS n).state.present) = fun n => (s.nodeS n).state.present := funext fun n =>
    congrArg (fun p : Roster × Option Nat × Bool => p.1.present) (lasting_askedEnd s t .runtime n)
  have hwipe := resetting_wipe (s.askedEnd t .runtime)
  rw [htab, hpres] at hwipe
  obtain ⟨hacts, hcmds⟩ := acts_cmds_resetHolds (s.askedEnd t .runtime).wipe.resetHands
  rw [← resetRuntime_eq] at hacts hcmds
  have hlines := between_linesSound.answeredReset (linesSound_resetRuntime (s.askedEnd t .runtime))
  have hholds := between_holdsSound.answeredReset (holdsSound_resetRuntime (s.askedEnd t .runtime))
  generalize (s.askedEnd t .runtime).resetRuntime = v at hlast hacts hcmds hlines hholds
  generalize (s.askedEnd t .runtime).wipe = w at hwipe hacts hcmds
  obtain ⟨up, held, notices, hu, _⟩ := answeredReset_eq v
  have hcmdsU : v.answeredReset.cmds = w.resetHands.cmds := by rw [hu]; exact hcmds
  have hactsU : v.answeredReset.acts = w.resetHands.acts := by rw [hu]; exact hacts
  refine ⟨fun n => ?_, hlines, hholds, fun c hc => ?_, fun a v x hx h => ?_⟩
  · have hl := hlast n
    have hn : v.answeredReset.nodeS n = v.nodeS n := by rw [hu]; rfl
    rw [hn]
    exact ⟨congrArg (fun p : Roster × Option Nat × Bool => p.1) hl, congrArg (fun p : Roster × Option Nat × Bool => p.2.1) hl,
      congrArg (fun p : Roster × Option Nat × Bool => p.2.2) hl⟩
  · rw [hcmdsU] at hc
    exact (resetHands_resetting hwipe).listed (c.act, c.value) (mem_listed.mpr ⟨c, hc, rfl, rfl⟩)
  · have hrested : State.Rested s.tab (fun n => (s.nodeS n).state.present) a x v w.resetHands := by
      rcases h with ⟨hk, rfl, b, e, hb, ha⟩ | ⟨hk, rfl, b, e, hb, ha⟩ | ⟨hk, rfl, k, e, hl, ha⟩ | ⟨hk, rfl, r, e, i, hr, hi, ha⟩ |
        ⟨hk, rfl, z, e, hz, ha⟩
      · exact resetHands_lamp hx hwipe hk.symm hb ha
      · exact resetHands_lock hx hwipe hk.symm hb ha
      · exact resetHands_booster hx hwipe hk.symm hl ha
      · exact resetHands_fin hx hwipe hk.symm hr hi ha
      · exact resetHands_gate hx hwipe hk.symm hz ha
    refine ⟨?_, fun hp => ?_⟩
    · unfold State.actS
      rw [hactsU]
      exact hrested.status
    · obtain ⟨c, hc, hact, hval⟩ := mem_listed.mp (hrested.command hp)
      exact ⟨c, by rw [hcmdsU]; exact hc, hact, hval⟩

/-! ### RUNTIME under ESTOP -/

/-- A RUNTIME reset under ESTOP goes on to STOP (R148). -/
theorem completes_runtimeStop (he : s.mc.estop = true) : Completes (.resetRuntime t true) s fun u =>
    u.mode = .stop ∧ u.mc.stopOut = true ∧ u.tab = s.tab ∧ u.ptr = s.ptr ∧ u.mask = s.mask ∧ u.inputs = s.inputs ∧
    u.queue = [] ∧ u.holder = none ∧ u.req = none ∧ (∀ b, u.boatR b = none ∧ u.release b = none) ∧
    u.responded [⟨.ok, 0, 0, enc1 (Mode.code .stop), true⟩] := by
  refine completes_reset rfl (.inl ⟨rfl, rfl⟩) hf ?_
  have hestop : (s.askedEnd t .runtime).resetRuntime.mc.estop = true := by rw [estop_resetRuntime, mc_askedEnd]; exact he
  have hdesk := (desk_resetRuntime (s.askedEnd t .runtime)).trans (desk_askedEnd s t .runtime)
  have hmode := mode_resetRuntime (s.askedEnd t .runtime)
  have hvoid := void_resetRuntime (s.askedEnd t .runtime)
  rw [doReset_runtime_stop]
  generalize (s.askedEnd t .runtime).resetRuntime = w at hestop hdesk hmode hvoid
  obtain ⟨hstop, hout, hkept⟩ := stopped_thenStop hestop hmode
  have hd := hkept.trans hdesk
  have hv : w.thenStop.Void := by
    rw [thenStop_estop hestop]
    exact (hvoid.goStop .estop).event (f := fun s => s.goStop .estop) (by rw [mode_goStop]; decide)
  have hresp := responded_answeredReset w.thenStop
  rw [hstop] at hresp
  generalize w.thenStop = v at hstop hout hd hv hresp
  obtain ⟨up, held, notices, hu, _⟩ := answeredReset_eq v
  refine ⟨?_, ?_, ?_, ?_, ?_, ?_, ?_, ?_, ?_, ?_, hresp⟩
  all_goals rw [hu]
  · exact hstop
  · exact hout
  · exact congrArg Desk.tab hd
  · exact congrArg Desk.ptr hd
  · exact congrArg Desk.mask hd
  · exact congrArg Desk.inputs hd
  · exact hv.queue
  · exact hv.holder
  · exact fun b => ⟨hv.boatR b, hv.release b⟩

/-! ### FULL -/

/-- A FULL reset gives the state at power-on, straps and ports apart (R181). -/
theorem completes_full (he : s.mc.estop = false) : Completes (.resetFull t true) s fun u =>
    { u with now := 0, pending := [], free := 0, reqSeq := 0, addr := 96, rate := 0, up := .empty, dn := .empty,
             held := none } = State.reset ∧ u.addr = s.addr ∧ u.rate = s.rate ∧
    u.responded [⟨.ok, 0, 0, enc1 (Mode.code .config), true⟩] := by
  refine completes_reset rfl (.inr ⟨rfl, rfl⟩) hf ?_
  have hestop : (s.askedEnd t .full).mc.estop = false := by rw [mc_askedEnd]; exact he
  have hdesk := desk_askedEnd s t .full
  have hev : (s.askedEnd t .full).ev = { Ev.none with holdNotices := true } := rfl
  rw [doReset_full hestop]
  generalize s.askedEnd t .full = w at hestop hdesk hev
  obtain ⟨up, held, notices, hu, hn⟩ := answeredReset_eq w.resetFull
  refine ⟨?_, ?_, ?_, responded_answeredReset w.resetFull⟩
  · rw [hu, hn rfl]
    unfold State.resetFull
    rw [hestop, hev]
    rfl
  · rw [hu]
    exact congrArg Desk.addr hdesk
  · rw [hu]
    exact congrArg Desk.rate hdesk

/-- A FULL reset under ESTOP goes on to STOP (R148). -/
theorem completes_fullStop (he : s.mc.estop = true) : Completes (.resetFull t true) s fun u =>
    u.mode = .stop ∧ u.mc.stopOut = true ∧ u.tab = Tables.initial ∧ u.addr = s.addr ∧ u.rate = s.rate ∧
    u.responded [⟨.ok, 0, 0, enc1 (Mode.code .stop), true⟩] := by
  refine completes_reset rfl (.inr ⟨rfl, rfl⟩) hf ?_
  have hestop : (s.askedEnd t .full).resetFull.mc.estop = true := by rw [estop_resetFull, mc_askedEnd]; exact he
  have hdesk := desk_askedEnd s t .full
  rw [doReset_full_stop]
  generalize s.askedEnd t .full = w at hestop hdesk
  obtain ⟨hstop, hout, hkept⟩ := stopped_thenStop hestop rfl
  have hresp := responded_answeredReset w.resetFull.thenStop
  rw [hstop] at hresp
  have haddr : w.resetFull.thenStop.addr = s.addr := (congrArg Desk.addr hkept).trans (congrArg Desk.addr hdesk)
  have hrate : w.resetFull.thenStop.rate = s.rate := (congrArg Desk.rate hkept).trans (congrArg Desk.rate hdesk)
  have htab : w.resetFull.thenStop.tab = Tables.initial := congrArg Desk.tab hkept
  generalize w.resetFull.thenStop = v at hstop hout htab haddr hrate hresp
  obtain ⟨up, held, notices, hu, _⟩ := answeredReset_eq v
  refine ⟨?_, ?_, ?_, ?_, ?_, hresp⟩
  all_goals rw [hu]
  · exact hstop
  · exact hout
  · exact htab
  · exact haddr
  · exact hrate

end

/-- Settles O57: what each reset leaves is taken through the event, the emergency stop that may follow, and the response. -/
theorem resetsTakeEffect : Obligations.ResetsTakeEffect :=
  ⟨fun _ _ hf he => completes_runtime hf he, fun _ _ hf he => completes_runtimeHands hf he, fun _ _ hf he => completes_runtimeStop hf he,
    fun _ _ hf he => completes_full hf he, fun _ _ hf he => completes_fullStop hf he⟩

end Sys2Proof.Machine
end

section
/-! Writes to ZONE, TRAP and LAUNCH, and what the event after a ZONE write leaves of zones and gates (R16, R142, R176). -/

namespace Sys2Proof.Machine

/-! ### Storing an entry, table by table -/

section
variable (s : State) (i : Nat) (img : List Byte)

theorem storeEntry_launch : s.storeEntry .launch i img = store s (decodeLaunch img) (whenDefined (s.launchConflict i))
    fun x => s.modTab fun t => { t with launch := t.launch.setIfInBounds i x } := rfl
theorem storeEntry_run : s.storeEntry .run i img = store s (decodeRun img) (whenDefined (s.runConflict i)) (s.storeRun i) := rfl
theorem storeEntry_berth : s.storeEntry .berth i img = store s (decodeBerth img) (whenDefined (s.berthConflict i)) (s.storeBerth i) := rfl
theorem storeEntry_channel : s.storeEntry .channel i img = store s ((decodeChannel i img).map fun g => (g, false)) (fun _ => false)
    fun x => s.modTab fun t => { t with chan := t.chan.setIfInBounds i x } := rfl
theorem storeEntry_user : s.storeEntry .user i img = store s (decodeUser i img) (fun _ => false)
    fun x => s.modTab fun t => { t with user := t.user.setIfInBounds i x } := rfl

end

/-! ### Zones to the end of an event -/

@[simp] theorem zs_hand (s : State) (a : Nat) (v : ActValue) : (s.hand a v).zs = s.zs := by
  unfold State.hand
  rw [pumpDn_view State.zs (fun _ => rfl) (fun _ _ _ => rfl) (fun _ _ => rfl)]
  exact (handRaw_boats_zs s a v).2

theorem zs_settleBerths (s : State) : s.settleBerths.zs = s.zs := by
  refine foldl_keeps (P := fun t => t.zs = s.zs) (fun t b ht => ?_) _ rfl
  have lamp : ∀ (t : State) e, (t.handLamp b e).zs = t.zs := fun t e => zs_hand _ _ _
  have lock : ∀ (t : State) e, (t.handLock b e).zs = t.zs := fun t e => zs_hand _ _ _
  split
  · unfold State.settleBerth
    split
    · exact ht
    · dsimp only
      split <;> split
      · exact ht
      · exact (lock _ _).trans ht
      · exact (lamp _ _).trans ht
      · exact (lock _ _).trans ((lamp _ _).trans ht)
  · exact ht

theorem zs_scans (n : Nat) {s : State} (hm : s.mode ≠ .run) : (State.scans n s).zs = s.zs := by
  induction n generalizing s with
  | zero => rfl
  | succ n ih =>
    unfold State.scans
    split
    · have hm' : (s.modEv fun e => { e with scanDue := false }).mode ≠ .run := hm
      rw [scan_idle hm', ih hm']
      rfl
    · rfl

/-- Outside RUN with no charge in progress, an event that changes no level ends with its USER holds evaluated and its zones
otherwise as it left them. -/
theorem zst_event {f : State → State} {s : State} (hm : (f s).mode ≠ .run) (hc : ∀ k, k < 2 → ((f s).seqS k).state ≠ .charging)
    (hl : ∀ g, (f s).genLevel g = s.genLevel g) (z : Nat) : (State.event f s).zst z = (f s).evalUserHolds.zst z := by
  have hb : (f s).evalUserHolds.bench = (f s).bench := bench_evalUserHolds _
  have hm' : (f s).evalUserHolds.mode ≠ .run := by unfold State.mode at *; rw [mc_of_bench hb]; exact hm
  have hzs : (State.event f s).zs = (f s).evalUserHolds.zs := by
    unfold State.event State.settle
    dsimp only
    rw [edges_of_levels hl, abortInhibited_idle fun k hk => by unfold State.seqS at *; rw [seqs_of_bench hb]; exact hc k hk]
    rw [clearEv_zs, driveLines_zs, zs_settleBerths, zs_scans _ hm']
  unfold State.zst
  rw [hzs]

theorem zst_written {s v : State} {t : Nat} {c : Bool} (hm : v.mode ≠ .run) (hc : ∀ k, k < 2 → (v.seqS k).state ≠ .charging)
    (hl : ∀ g, v.genLevel g = s.genLevel g) (z : Nat) : (s.written t v c).zst z = v.evalUserHolds.zst z := by
  have hw : (v.advance.withResult (.plain (storedCode c))).holdView = v.holdView := rfl
  unfold State.written
  rw [zst_event (f := fun _ => v.advance.withResult (.plain (storedCode c))) (s := s.at_ t)
    (by unfold State.mode at *; rw [mc_of_view hw]; exact hm) hc
    (fun g => (genLevel_of_view hw g).trans ((hl g).trans (genLevel_of_view (holdView_at s t) g).symm)) z,
    zst_evalUserHolds, zst_evalUserHolds, zoneE_of_view hw, followHolds_of_view hw]
  rfl

/-! ### A zone that is defined or redefined -/

theorem holdView_closeNamedGate (s : State) (e : ZoneEntry) : (s.closeNamedGate e).holdView = s.holdView := by
  unfold State.closeNamedGate
  split
  · rfl
  · split
    · rfl
    · exact holdView_hand _ _ _

theorem zs_closeNamedGate (s : State) (e : ZoneEntry) : (s.closeNamedGate e).zs = s.zs := by
  unfold State.closeNamedGate
  split
  · rfl
  · split
    · rfl
    · exact zs_hand _ _ _

/-- The NODE hold of the zone written is placed or removed; no other status of a zone changes (R12, R16). -/
theorem zst_storeZone {s : State} {i : Nat} {x : ZoneEntry} (hi : i < 64) (z : Nat) : (s.storeZone i (some x)).zst z =
    if z = i then { s.zst i with nodeHold := s.wantsNodeHold x } else s.zst z := by
  have hz : (s.modTab fun t => { t with zone := t.zone.setIfInBounds i (some x) }).zoneE i = some x := join_set s.tab.zone _ hi
  unfold State.storeZone
  dsimp only
  unfold State.zst
  rw [zs_closeNamedGate]
  refine (zst_evalNodeHold _ i z).trans ?_
  split
  · next h =>
    subst h
    rw [wantedHold_of_defined hz]
    rfl
  · rfl

theorem occupant_storeZone {s : State} {i : Nat} {x : ZoneEntry} (hi : i < 64) (z : Nat) :
    (s.storeZone i (some x)).occupant z = s.occupant z := by
  unfold State.occupant
  rw [zst_storeZone hi]
  split
  · next h => rw [h]
  · rfl

theorem mc_storeZone (s : State) (i : Nat) (x : Option ZoneEntry) : (s.storeZone i x).mc = s.mc := by
  unfold State.storeZone
  dsimp only
  split
  · rfl
  · rw [mc_of_view (holdView_closeNamedGate _ _)]
    exact (quiet_mc s.mc).evalNodeHold i rfl

theorem nodes_evalNodeHold (s : State) (z : Nat) : (s.evalNodeHold z).nodes = s.nodes := (evalNodeHold_tab_nodes s z).2

theorem roster_storeZone (s : State) (i : Nat) (x : Option ZoneEntry) (n : Nat) :
    ((s.storeZone i x).nodeS n).state = (s.nodeS n).state := by
  unfold State.storeZone
  dsimp only
  split
  · rfl
  · rw [roster_of_view (holdView_closeNamedGate _ _)]
    unfold State.nodeS
    rw [nodes_evalNodeHold]
    rfl

theorem seqs_storeZone (s : State) (i : Nat) (x : Option ZoneEntry) : (s.storeZone i x).seqs = s.seqs := by
  unfold State.storeZone
  dsimp only
  split
  · rfl
  · unfold State.closeNamedGate
    have h : ∀ t : State, (t.evalNodeHold i).seqs = t.seqs := fun t => (still_seqs t.seqs).evalNodeHold i rfl
    split
    · exact h _
    · split
      · exact h _
      · exact ((still_seqs _).handRest _ _ rfl rfl).trans (h _)

theorem levels_storeZone {s : State} {i : Nat} {x : ZoneEntry} (hi : i < 64) (g : Gen) :
    (s.storeZone i (some x)).genLevel g = s.genLevel g :=
  genLevel_congr (mc_storeZone s i _) ((inputs_of_desk (u := s.storeZone i (some x)) (s := s.modTab fun t =>
    { t with zone := t.zone.setIfInBounds i (some x) }) (desk_storeZone s i (some x))).trans rfl) (roster_storeZone s i _)
    (occupant_storeZone hi) g

/-- The levels of the FOLLOW users rest on the matrix and on what its generators read. -/
theorem followHolds_congr {s u : State} (hu : u.tab.user = s.tab.user) (hc : u.tab.chan = s.tab.chan)
    (hl : ∀ g, u.genLevel g = s.genLevel g) : u.followHolds = s.followHolds := by
  have huser : ∀ x, u.userE x = s.userE x := fun x => by unfold State.userE; rw [hu]
  have hchan : ∀ c, u.chanLevel c = s.chanLevel c := fun c => by
    have he : u.chanE c = s.chanE c := by unfold State.chanE; rw [hc]
    unfold State.chanLevel
    rw [he]
    cases s.chanE c with
    | none => rfl
    | some g => exact hl g
  have hlevel : ∀ x, u.userLevel x = s.userLevel x := fun x => by
    unfold State.userLevel
    rw [huser]
    cases (s.userE x).chan with
    | zero => rfl
    | succ c => exact hchan c
  unfold State.followHolds
  simp only [huser, hlevel]

theorem tab_storeZone (s : State) (i : Nat) (x : Option ZoneEntry) :
    (s.storeZone i x).tab = { s.tab with zone := s.tab.zone.setIfInBounds i x } :=
  (tab_of_desk (u := s.storeZone i x) (s := s.modTab fun t => { t with zone := t.zone.setIfInBounds i x }) (desk_storeZone s i x)).trans rfl

theorem ptr_storeZone (s : State) (i : Nat) (x : Option ZoneEntry) : (s.storeZone i x).ptr = s.ptr :=
  (ptr_of_desk (u := s.storeZone i x) (s := s.modTab fun t => { t with zone := t.zone.setIfInBounds i x }) (desk_storeZone s i x)).trans rfl

/-! ### Actuators at rest -/

/-- A value of which no other of its kind is at rest: a gate's CLOSE and a fin's ENGAGE. -/
def ActValue.soleRest (v : ActValue) : Prop := v.resting = true ∧ ∀ w : ActValue, w.kind = v.kind → w.resting = true → w = v

theorem gateClose_soleRest : ActValue.gateClose.soleRest := ⟨rfl, fun w hk hr => by cases w <;> simp_all [ActValue.kind, ActValue.resting]⟩
theorem finEngage_soleRest : ActValue.finEngage.soleRest := ⟨rfl, fun w hk hr => by cases w <;> simp_all [ActValue.kind, ActValue.resting]⟩

/-- Actuator `a`, of the kind of `v`, has been commanded `v`. -/
def State.Commanded (T : Tables) (a : Nat) (v : ActValue) (s : State) : Prop := s.tab = T ∧ (s.actS a).commanded = some v

section
variable {T : Tables} {a : Nat} {v : ActValue} {y : AuthEntry} (hy : (T.auth[a]?).join = some y) (hk : v.kind = y.kind) {s : State}

theorem State.Commanded.congr {u : State} (h : State.Commanded T a v s) (ht : u.tab = s.tab) (ha : u.acts = s.acts) :
    State.Commanded T a v u :=
  ⟨ht.trans h.1, by unfold State.actS; rw [ha]; exact h.2⟩

theorem actS_handRaw (s : State) (b : Nat) (w : ActValue) (c : Nat) :
    (s.handRaw b w).actS c = if c = b ∧ s.handTaken b w = true then ⟨some w, false⟩ else s.actS c := by
  have h := actS_hand s b w c
  unfold State.hand State.actS at h
  rw [acts_pumpDn] at h
  exact h

include hy hk

theorem handTaken_kind {b : Nat} {w : ActValue} (h : State.Commanded T a v s) (hb : a = b) (ht : s.handTaken b w = true) : w.kind = v.kind := by
  obtain ⟨e, he, hwk, _⟩ := (handTaken_iff s b w).mp ht
  subst hb
  unfold State.authE at he
  rw [h.1, hy] at he
  cases he
  rw [hwk, hk]

theorem State.Commanded.handRaw (h : State.Commanded T a v s) (b : Nat) (w : ActValue)
    (hw : (s.actS b).commanded = some w ∨ (w.kind = v.kind → w = v)) : State.Commanded T a v (s.handRaw b w) := by
  refine ⟨(tab_of_view (holdView_handRaw s b w)).trans h.1, ?_⟩
  rw [actS_handRaw]
  split
  · next hc =>
    have hkind := handTaken_kind hy hk h hc.1 hc.2
    rcases hw with hw | hw
    · rw [← hc.1, h.2] at hw
      exact hw.symm
    · exact congrArg some (hw hkind)
  · exact h.2

/-- An actuator that is commanded its kind's one value at rest keeps it where the brakes are in full (R109). -/
theorem quiet_commanded (hv : v.soleRest) {m : ModeCtl} (hm : m.mode.fullBrake = true) :
    Quiet fun s => s.mc = m ∧ State.Commanded T a v s where
  startUp hs := hs
  placeHeld {s} hs := by
    refine ⟨(mc_of_view (holdView_placeHeld s)).trans hs.1, hs.2.congr (tab_of_view (holdView_placeHeld s)) ?_⟩
    exact acts_of_bench (bench_placeHeld s)
  buildNotice {s} hs := ⟨(mc_of_view (holdView_buildNotice s)).trans hs.1,
    hs.2.congr (tab_of_view (holdView_buildNotice s)) (acts_of_bench (bench_buildNotice s))⟩
  startDn hs := hs
  placeLimit _ _ _ hs := hs
  placeCommands _ _ hs := hs
  queueNotice _ _ hs := hs
  dropNotice hs := hs
  handRaw {s} b w hw hs := ⟨(handRaw_mc s b w).trans hs.1, hs.2.handRaw hy hk b w (.inr fun h => hv.2 w h hw)⟩
  handAny {s} b w hw hs := by
    refine ⟨(handRaw_mc s b w).trans hs.1, hs.2.handRaw hy hk b w (.inl (hw.resolve_left ?_))⟩
    unfold State.mode
    rw [hs.1, hm]
    decide
  modEv _ hs := hs
  putZs _ _ _ hs := hs
  putBerth _ _ _ hs := hs
  putNode _ _ _ hs := hs
  modBoat b f _ hs := ⟨(modBoat_mc _ b f).trans hs.1, hs.2.congr (modBoat_tab _ b f) (modBoat_acts _ b f)⟩
  putRel b x hs := ⟨(putRel_mc _ b x).trans hs.1, hs.2.congr (putRel_tab _ b x) (putRel_acts _ b x)⟩
  filterQueue _ hs := hs
  putSeq _ _ _ _ hs := hs

/-- A command that is taken gives the value. -/
theorem commanded_hand (hs : s.tab = T) (hr : v.inRange = true) : State.Commanded T a v (s.hand a v) := by
  refine ⟨(tab_hand s a v).trans hs, ?_⟩
  rw [actS_hand, if_pos ⟨rfl, (handTaken_iff s a v).mpr ⟨y, by unfold State.authE; rw [hs]; exact hy, hk, hr⟩⟩]

/-- An event where the brakes are in full keeps it so. -/
theorem commanded_written (hv : v.soleRest) {u : State} {t : Nat} {c : Bool} (hm : u.mode.fullBrake = true) (h : State.Commanded T a v u) :
    ((s.written t u c).actS a).commanded = some v := by
  have hq := quiet_commanded hy hk hv (m := u.mc) hm
  have hev := hq.clearEv (hq.settle (fun _ hs => hs) (fun hs => hs) (s.at_ t)
    (s := u.advance.withResult (.plain (storedCode c))) ⟨rfl, h.1, h.2⟩)
  exact hev.2.2

end

/-! ### The obligation's clauses for ZONE, TRAP and LAUNCH -/

section
variable {s : State} {t i : Nat} {img : List Byte} {c : Bool} (hf : s.requestFree) (hm : s.mode = .config)
include hf hm

/-- A zone is written: its holds are evaluated, and its gate is closed (R12, R13, R16, R142). -/
theorem completes_writeZone {x : ZoneEntry} (hsq : s.sequencersSound) (hp : s.ptr = (.zone, i)) (hi : i < 64)
    (hd : decodeZone img = some (some x, c))
    (hfree : ∀ j y, j ≠ i → s.zoneE j = some y → y.markerNode = x.markerNode → y.markerSensor ≠ x.markerSensor) :
    Completes (.write t false img) s fun u => u.zoneE i = some x ∧ u.ptr = (.zone, (i + 1) % 64) ∧
      u.answered (.plain (if c then .okClamped else .ok)) ∧
      u.zst i = { s.zst i with nodeHold := s.wantsNodeHold x, userHold := (s.zst i).latch || s.followHolds.contains i } ∧
      ∀ a y, x.gate = some a → s.authE a = some y → y.kind = .gate → (u.actS a).commanded = some .gateClose := by
  refine completes_put hf hm hp (by decide) (storeEntry_zone _ i img) hd (otherHas_false fun j y hj hy => ?_)
    ⟨?_, ptr_written_at hp t (ptr_storeZone (s.opened t) i (some x)) _, answered_written _ _ _ _, ?_, fun a y ha hy hk => ?_⟩
  · by_cases hn : y.markerNode = x.markerNode
    · simp [hfree j y hj hy hn]
    · simp [hn]
  · unfold State.zoneE
    rw [tab_written, tab_storeZone]
    exact join_set s.tab.zone _ hi
  · have hmode : ((s.opened t).storeZone i (some x)).mode = .config := by unfold State.mode; rw [mc_storeZone]; exact hm
    have hsound : ((s.opened t).storeZone i (some x)).sequencersSound := fun _ => by
      unfold State.seqS
      rw [seqs_storeZone]
      exact hsq (.inl hm)
    have hlevel : ∀ g, ((s.opened t).storeZone i (some x)).genLevel g = s.genLevel g := fun g => levels_storeZone (s := s.opened t) hi g
    have hzone : ((s.opened t).storeZone i (some x)).zoneE i = some x := by
      unfold State.zoneE
      rw [tab_storeZone]
      exact join_set s.tab.zone _ hi
    have hfollow : ((s.opened t).storeZone i (some x)).followHolds = s.followHolds :=
      followHolds_congr (by rw [tab_storeZone]; rfl) (by rw [tab_storeZone]; rfl) hlevel
    rw [zst_written (by rw [hmode]; decide) (sequencersSound_idle hsound hmode) hlevel, zst_evalUserHolds, hzone, hfollow,
      zst_storeZone hi, if_pos rfl]
    rfl
  · have hkind : ActValue.gateClose.kind = y.kind := hk.symm
    refine commanded_written (T := { s.tab with zone := s.tab.zone.setIfInBounds i (some x) }) (y := y) hy hkind
      gateClose_soleRest (by unfold State.mode; rw [mc_storeZone]; exact congrArg Mode.fullBrake hm) ?_
    have htab : (((s.opened t).modTab fun tab => { tab with zone := tab.zone.setIfInBounds i (some x) }).evalNodeHold i).tab =
        { s.tab with zone := s.tab.zone.setIfInBounds i (some x) } := (evalNodeHold_tab_nodes _ i).1
    unfold State.storeZone
    dsimp only
    unfold State.closeNamedGate
    rw [ha]
    dsimp only
    split
    · next hc => exact ⟨htab, hc⟩
    · exact commanded_hand (T := { s.tab with zone := s.tab.zone.setIfInBounds i (some x) }) hy hkind htab rfl

/-- A zone is made undefined: its status is clear (R16). -/
theorem completes_undefineZone (hsq : s.sequencersSound) (hp : s.ptr = (.zone, i)) (hi : i < 64) (hd : decodeZone img = some (none, c))
    (ho : s.occupant i = none) (hr : (s.zst i).reserved = none) :
    Completes (.write t false img) s fun u => u.zoneE i = none ∧ u.zst i = .clear ∧ u.ptr = (.zone, (i + 1) % 64) := by
  have hbusy : (s.opened t).zoneBusy i = false := by
    show ((s.occupant i).isSome || (s.zst i).reserved.isSome) = false
    rw [ho, hr]
    rfl
  refine completes_put hf hm hp (by decide) (storeEntry_zone _ i img) hd hbusy ⟨?_, ?_, ptr_written_at hp t (ptr_storeZone (s.opened t) i none) _⟩
  · unfold State.zoneE
    rw [tab_written, tab_storeZone]
    exact join_set s.tab.zone _ hi
  · have hzst : ∀ z, ((s.opened t).storeZone i none).zst z = if z = i then .clear else s.zst z := fun z => by
      refine (zst_setZs _ i z .clear).trans ?_
      by_cases hz : z = i
      · rw [if_pos ⟨hz, hi⟩, if_pos hz]
      · rw [if_neg fun h => hz h.1, if_neg hz]
        rfl
    have hocc : ∀ z, ((s.opened t).storeZone i none).occupant z = s.occupant z := fun z => by
      unfold State.occupant
      rw [hzst]
      split
      · next h => rw [h]; exact ho.symm
      · rfl
    have hlevel : ∀ g, ((s.opened t).storeZone i none).genLevel g = s.genLevel g := genLevel_congr rfl rfl (fun _ => rfl) hocc
    have hzone : ((s.opened t).storeZone i none).zoneE i = none := join_set s.tab.zone _ hi
    have hmode : ((s.opened t).storeZone i none).mode = .config := hm
    have hsound : ((s.opened t).storeZone i none).sequencersSound := hsq
    rw [zst_written (by rw [hmode]; decide) (sequencersSound_idle hsound hmode) hlevel, zst_evalUserHolds, hzone, hzst, if_pos rfl]
    rfl

theorem completes_writeTrap {x : TrapEntry} (hp : s.ptr = (.trap, i)) (hi : i < 8) (hd : decodeTrap img = some (some x, c))
    (hfree : ∀ j y, j ≠ i → s.trapE j = some y → y.node = x.node → y.pair ≠ x.pair) :
    Completes (.write t false img) s fun u => u.trapE i = some x ∧ u.ptr = (.trap, (i + 1) % 8) ∧
      u.answered (.plain (if c then .okClamped else .ok)) := by
  refine completes_put hf hm hp (by decide) (storeEntry_trap _ i img) hd (otherHas_false fun j y hj hy => ?_)
    ⟨?_, ptr_written_at hp t (by rfl) _, answered_written _ _ _ _⟩
  · by_cases hn : y.node = x.node
    · simp [hfree j y hj hy hn]
    · simp [hn]
  · unfold State.trapE
    rw [tab_written]
    exact join_set s.tab.trap _ hi

theorem completes_writeLaunch {x : LaunchEntry} (hp : s.ptr = (.launch, i)) (hi : i < 2) (hd : decodeLaunch img = some (some x, c))
    (hfree : ∀ j y, j ≠ i → s.launchE j = some y → y.zone ≠ x.zone ∧ y.booster ≠ x.booster ∧ y.trap ≠ x.trap) :
    Completes (.write t false img) s fun u => u.launchE i = some x ∧ u.ptr = (.launch, (i + 1) % 2) ∧
      u.answered (.plain (if c then .okClamped else .ok)) := by
  refine completes_put hf hm hp (by decide) (storeEntry_launch _ i img) hd (otherHas_false fun j y hj hy => ?_)
    ⟨?_, ptr_written_at hp t (by rfl) _, answered_written _ _ _ _⟩
  · obtain ⟨hz, hb, htr⟩ := hfree j y hj hy
    simp [hz, hb, htr]
  · unfold State.launchE
    rw [tab_written]
    exact join_set s.tab.launch _ hi

end

end Sys2Proof.Machine
end

section
/-! Writes to RUN and STAGE: the run is restored from the tables as they stand (R102, R109, R114). -/

namespace Sys2Proof.Machine

/-! ### Runs to the end of an event -/

/-- No update of which the end of an event is made touches a brake run. -/
theorem quiet_runs (v : Vector RunStatus 2) : Quiet fun s => s.runs = v where
  startUp hs := hs
  placeHeld {s} hs := (congrArg Bench.runs (bench_placeHeld s)).trans hs
  buildNotice {s} hs := (congrArg Bench.runs (bench_buildNotice s)).trans hs
  startDn hs := hs
  placeLimit _ _ _ hs := hs
  placeCommands _ _ hs := hs
  queueNotice _ _ hs := hs
  dropNotice hs := hs
  handRaw {s} a x _ hs := by
    have h := runs_hand s a x
    unfold State.hand at h
    rw [runs_pumpDn] at h
    exact h.trans hs
  handAny {s} a x _ hs := by
    have h := runs_hand s a x
    unfold State.hand at h
    rw [runs_pumpDn] at h
    exact h.trans hs
  modEv _ hs := hs
  putZs _ _ _ hs := hs
  putBerth _ _ _ hs := hs
  putNode _ _ _ hs := hs
  modBoat b f _ hs := (modBoat_runs _ b f).trans hs
  putRel b x hs := (putRel_runs _ b x).trans hs
  filterQueue _ hs := hs
  putSeq _ _ _ _ hs := hs

theorem runs_written (s : State) (t : Nat) (v : State) (c : Bool) : (s.written t v c).runs = v.runs := by
  have h := (quiet_runs v.runs).clearEv ((quiet_runs v.runs).settle (fun _ hs => hs) (fun hs => hs) (s.at_ t)
    (s := v.advance.withResult (.plain (storedCode c))) rfl)
  exact h

theorem runS_written (s : State) (t : Nat) (v : State) (c : Bool) (r : Nat) : (s.written t v c).runS r = v.runS r := by
  unfold State.runS
  rw [runs_written]

/-! ### A run that is restored -/

/-- A run as it stands once it is restored: no boat, no count, RESTORING while a stage is awaited (R109). -/
def RunStatus.restored (q : RunStatus) : Prop :=
  q.boat = none ∧ q.count = none ∧ q.state ≠ .set ∧ (q.state = .restoring ↔ ∃ j : Nat, q.awaiting[j]? = some true)

theorem anyAwaiting_iff (q : RunStatus) : q.anyAwaiting = true ↔ ∃ j : Nat, q.awaiting[j]? = some true := by
  unfold RunStatus.anyAwaiting
  rw [List.any_eq_true]
  constructor
  · rintro ⟨x, hx, hx'⟩
    obtain ⟨j, hj, he⟩ := Vector.mem_iff_getElem.mp (Vector.mem_toList_iff.mp hx)
    exact ⟨j, by rw [Vector.getElem?_eq_getElem hj, he, show x = true from hx']⟩
  · rintro ⟨j, hj⟩
    exact ⟨true, Vector.mem_toList_iff.mpr (Vector.mem_of_getElem? hj), rfl⟩

theorem restored_of_engaged (q : RunStatus) :
    RunStatus.restored { q with boat := none, count := none, state := if q.anyAwaiting then .restoring else .ready } := by
  refine ⟨rfl, rfl, ?_, ?_⟩
  · dsimp only
    split <;> decide
  · dsimp only
    rw [← anyAwaiting_iff]
    cases q.anyAwaiting <;> simp

theorem rewriteRun_restored {s : State} {r : Nat} {e : RunEntry} (hr : s.runE r = some e) (hr2 : r < 2) :
    ((s.rewriteRun r).runS r).restored := by
  have he : (s.modRun r fun q => { q with awaiting := Vector.replicate 8 false }).runE r = some e := hr
  unfold State.rewriteRun State.restoreRun
  rw [hr]
  dsimp only
  rw [he]
  dsimp only
  unfold State.modRun
  rw [runS_putRun, if_pos ⟨rfl, hr2⟩]
  exact restored_of_engaged _

theorem rewriteRun_undefined {s : State} {r : Nat} (hr : s.runE r = none) (hr2 : r < 2) : (s.rewriteRun r).runS r = .ready := by
  unfold State.rewriteRun
  rw [hr]
  exact (runS_putRun s r r .ready).trans (if_pos ⟨rfl, hr2⟩)

theorem handFin_engage (s : State) (r i : Nat) : (s.handFin r i .finEngage).tab = s.tab ∧
    (s.handFin r i .finEngage).acts = (s.hand (s.stageOf r i).fin .finEngage).acts := by
  unfold State.handFin
  dsimp only
  rw [if_pos rfl]
  split
  · unfold State.setAwaiting State.modRun
    exact ⟨(putRun_tab _ _ _).trans (tab_hand s _ _), putRun_acts _ _ _⟩
  · exact ⟨tab_hand s _ _, rfl⟩

/-- A run that is restored has its fins commanded ENGAGE (R109, R112). -/
theorem commanded_rewriteRun {T : Tables} {s : State} {r i a : Nat} {e : RunEntry} {y : AuthEntry} (ht : s.tab = T)
    (hr : (T.run[r]?).join = some e) (hi : i < e.stages) (ha : ((T.stage[8 * r + i]?).getD ⟨0, 0, 0⟩).fin = a)
    (hy : (T.auth[a]?).join = some y) (hk : ActValue.finEngage.kind = y.kind) : State.Commanded T a .finEngage (s.rewriteRun r) := by
  have hre : ∀ {t : State}, t.tab = T → t.runE r = some e := fun h => by unfold State.runE; rw [h]; exact hr
  have hstage : ∀ {t : State}, t.tab = T → (t.stageOf r i).fin = a := fun h => by
    unfold State.stageOf State.stageE
    rw [h]
    exact ha
  unfold State.rewriteRun State.restoreRun
  rw [hre ht]
  dsimp only
  rw [hre (t := s.modRun r fun q => { q with awaiting := Vector.replicate 8 false }) ht]
  dsimp only
  have hfins : State.Commanded T a .finEngage
      ((s.modRun r fun q => { q with awaiting := Vector.replicate 8 false }).setFins r e.stages e.stages) := by
    refine foldl_reaches (P := fun t => t.tab = T) (x := i) _ (List.mem_range.mpr hi) (fun t j hj hT => ?_) (fun t hT => ?_)
      (fun t j hj hc => ?_) ht
    · dsimp only
      rw [if_pos (List.mem_range.mp hj)]
      split
      · exact hT
      · exact (handFin_engage t r j).1.trans hT
    · dsimp only
      rw [if_pos hi]
      split
      · next hc => exact ⟨hT, by rw [← hstage hT]; exact hc⟩
      · obtain ⟨h1, h2⟩ := handFin_engage t r i
        have hcom := commanded_hand hy hk hT (rfl : ActValue.finEngage.inRange = true)
        rw [hstage hT] at h2
        exact hcom.congr (h1.trans (tab_hand t a _).symm) h2
    · dsimp only
      rw [if_pos (List.mem_range.mp hj)]
      split
      · exact hc
      · obtain ⟨h1, h2⟩ := handFin_engage t r j
        have hraw := hc.handRaw hy hk (t.stageOf r j).fin .finEngage (.inr fun _ => rfl)
        refine hraw.congr (h1.trans (tab_of_view (holdView_handRaw t _ _)).symm) (h2.trans ?_)
        unfold State.hand
        exact acts_pumpDn _
  exact hfins.congr (putRun_tab _ _ _) (putRun_acts _ _ _)

/-! ### The obligation's clauses for RUN and STAGE -/

section
variable {s : State} {t i : Nat} {img : List Byte} {c : Bool} (hf : s.requestFree) (hm : s.mode = .config)
include hf hm

/-- A run is defined or redefined: it is restored, and its fins are engaged (R109, R114). -/
theorem completes_writeRun {x : RunEntry} (hp : s.ptr = (.run, i)) (hi : i < 2) (hd : decodeRun img = some (some x, c))
    (hfree : ∀ j y, j ≠ i → s.runE j = some y → y.zone ≠ x.zone) :
    Completes (.write t false img) s fun u => u.runE i = some x ∧ u.ptr = (.run, (i + 1) % 2) ∧
      u.answered (.plain (if c then .okClamped else .ok)) ∧ (u.runS i).boat = none ∧ (u.runS i).count = none ∧
      (u.runS i).state ≠ .set ∧ ((u.runS i).state = .restoring ↔ ∃ j : Nat, (u.runS i).awaiting[j]? = some true) ∧
      ∀ j a, j < x.stages → s.authE (s.stageOf i j).fin = some a → a.kind = .fin →
        (u.actS (s.stageOf i j).fin).commanded = some .finEngage := by
  have hrun : ((s.opened t).modTab fun tab => { tab with run := tab.run.setIfInBounds i (some x) }).runE i = some x :=
    join_set s.tab.run _ hi
  have hdesk : ((s.opened t).storeRun i (some x)).desk =
      ((s.opened t).modTab fun tab => { tab with run := tab.run.setIfInBounds i (some x) }).desk := desk_rewriteRun _ i
  have hmc : ((s.opened t).storeRun i (some x)).mc = s.mc := congrArg HoldView.mc
    (holdView_rewriteRun ((s.opened t).modTab fun tab => { tab with run := tab.run.setIfInBounds i (some x) }) i)
  have hrestored : (((s.opened t).storeRun i (some x)).runS i).restored := rewriteRun_restored hrun hi
  refine completes_put hf hm hp (by decide) (storeEntry_run _ i img) hd
    (otherHas_false fun j y hj hy => beq_eq_false_iff_ne.mpr (hfree j y hj hy))
    ⟨?_, ptr_written_at hp t (congrArg Desk.ptr hdesk) _, answered_written _ _ _ _, ?_⟩
  · unfold State.runE
    rw [tab_written, show ((s.opened t).storeRun i (some x)).tab = _ from congrArg Desk.tab hdesk]
    exact hrun
  · rw [runS_written]
    obtain ⟨hboat, hcount, hset, hrestoring⟩ := hrestored
    refine ⟨hboat, hcount, hset, hrestoring, fun j a hj ha hk => ?_⟩
    refine commanded_written (T := { s.tab with run := s.tab.run.setIfInBounds i (some x) }) (y := a) ha (by rw [hk]; rfl)
      finEngage_soleRest (by unfold State.mode; rw [hmc]; exact congrArg Mode.fullBrake hm) ?_
    exact commanded_rewriteRun rfl hrun hj rfl ha hk.symm

/-- A run is made undefined: its status is READY (R114). -/
theorem completes_undefineRun (hp : s.ptr = (.run, i)) (hi : i < 2) (hd : decodeRun img = some (none, c)) :
    Completes (.write t false img) s fun u => u.runE i = none ∧ u.runS i = .ready := by
  have hrun : ((s.opened t).modTab fun tab => { tab with run := tab.run.setIfInBounds i none }).runE i = none := join_set s.tab.run _ hi
  have hdesk : ((s.opened t).storeRun i none).desk =
      ((s.opened t).modTab fun tab => { tab with run := tab.run.setIfInBounds i none }).desk := desk_rewriteRun _ i
  refine completes_put hf hm hp (by decide) (storeEntry_run _ i img) hd rfl ⟨?_, ?_⟩
  · unfold State.runE
    rw [tab_written, show ((s.opened t).storeRun i none).tab = _ from congrArg Desk.tab hdesk]
    exact hrun
  · rw [runS_written]
    exact rewriteRun_undefined hrun hi

/-- A stage is written in CONFIG: its run is restored, and its fin is engaged (R102, R114). -/
theorem completes_writeStage {x : StageEntry} (hp : s.ptr = (.stage, i)) (hi : i < 16) (hd : decodeStage img = some (x, c)) :
    Completes (.write t false img) s fun u => u.stageE i = x ∧ u.ptr = (.stage, (i + 1) % 16) ∧
      u.answered (.plain (if c then .okClamped else .ok)) ∧
      ∀ e a, s.runE (i / 8) = some e → i % 8 < e.stages → s.authE x.fin = some a → a.kind = .fin →
        (u.runS (i / 8)).boat = none ∧ (u.runS (i / 8)).count = none ∧ (u.actS x.fin).commanded = some .finEngage := by
  have hdesk := desk_storeStage (s.opened t) i x
  have hstore : (s.opened t).storeStage i x =
      ((s.opened t).modTab fun tab => { tab with stage := tab.stage.setIfInBounds i x }).rewriteRun (i / 8) := if_pos hm
  have hmc : ((s.opened t).storeStage i x).mc = s.mc := by
    rw [hstore]
    exact congrArg HoldView.mc
      (holdView_rewriteRun ((s.opened t).modTab fun tab => { tab with stage := tab.stage.setIfInBounds i x }) (i / 8))
  refine completes_put hf hm hp (by decide) (storeEntry_stage _ i img) hd rfl
    ⟨stageE_set (s := s) hi ((tab_written _ _ _ _).trans (congrArg Desk.tab hdesk)), ptr_written_at hp t (congrArg Desk.ptr hdesk) _,
      answered_written _ _ _ _, fun e a he hlt ha hk => ?_⟩
  rw [runS_written, hstore]
  obtain ⟨hboat, hcount, _, _⟩ := rewriteRun_restored
    (s := (s.opened t).modTab fun tab => { tab with stage := tab.stage.setIfInBounds i x }) he (by omega)
  refine ⟨hboat, hcount, ?_⟩
  rw [← hstore]
  refine commanded_written (T := { s.tab with stage := s.tab.stage.setIfInBounds i x }) (y := a) ha (by rw [hk]; rfl)
    finEngage_soleRest (by unfold State.mode; rw [hmc]; exact congrArg Mode.fullBrake hm) ?_
  rw [hstore]
  refine commanded_rewriteRun (T := { s.tab with stage := s.tab.stage.setIfInBounds i x }) rfl he hlt ?_ ha hk.symm
  rw [show 8 * (i / 8) + i % 8 = i by omega]
  exact congrArg StageEntry.fin ((getD_setIfInBounds s.tab.stage i i x ⟨0, 0, 0⟩).trans (if_pos ⟨rfl, hi⟩))

end

end Sys2Proof.Machine
end

section
/-! Writes to BERTH: the berth's state is derived and its lamp and lock are handed (R61, R63, R65). -/

namespace Sys2Proof.Machine

/-! ### A berth that is rewritten -/

/-- The status a berth's derivation gives (R65). -/
def State.derived (s : State) (e : BerthEntry) (q : BerthStatus) : BerthStatus :=
  if (s.occupant e.zone).isNone || !q.presence then q.emptied
  else if q.latch && s.lockConfirmed e then
    { q with state := .secured, lamp := .on, lock := .lock, pending := false, reason := .none }
  else { q with state := .occupied, lamp := .off, lock := e.role.lockFor q.latch, pending := false, reason := .none }

theorem berthDerive_eq {s : State} {b : Nat} {e : BerthEntry} (h : s.berthE b = some e) : s.berthDerive b = s.setBerth b (s.derived e) := by
  unfold State.berthDerive
  rw [h]
  rfl

theorem berthS_setBerth (s : State) (b c : Nat) (f : BerthStatus → BerthStatus) :
    (s.setBerth b f).berthS c = if c = b ∧ b < 6 then f (s.berthS b) else s.berthS c := berthS_putBerth s b c _

theorem berthS_modBerth (s : State) (b c : Nat) (f : BerthStatus → BerthStatus) :
    (s.modBerth b f).berthS c = if c = b ∧ b < 6 then f (s.berthS b) else s.berthS c := berthS_putBerth s b c _

/-- What the derivation keeps, what it clears, and the state it gives (R65). -/
theorem derived_fields (s : State) (e : BerthEntry) (q : BerthStatus) : (s.derived e q).presence = q.presence ∧
    (s.derived e q).latch = q.latch ∧ (s.derived e q).weight = q.weight ∧ (s.derived e q).pending = false ∧
    (s.derived e q).reason = .none ∧
    (s.derived e q).state = (if s.occupant e.zone = none ∨ q.presence = false then .empty
      else if q.latch = true ∧ s.lockConfirmed e = true then .secured else .occupied) := by
  unfold State.derived
  by_cases h1 : ((s.occupant e.zone).isNone || !q.presence) = true
  · have h1' : s.occupant e.zone = none ∨ q.presence = false := by simpa using h1
    rw [if_pos h1, if_pos h1']
    exact ⟨rfl, rfl, rfl, rfl, rfl, rfl⟩
  · have h1' : ¬ (s.occupant e.zone = none ∨ q.presence = false) := by simpa using h1
    rw [if_neg h1, if_neg h1']
    by_cases h2 : (q.latch && s.lockConfirmed e) = true
    · rw [if_pos h2, if_pos (by simpa using h2)]
      exact ⟨rfl, rfl, rfl, rfl, rfl, rfl⟩
    · rw [if_neg h2, if_neg (by simpa using h2)]
      exact ⟨rfl, rfl, rfl, rfl, rfl, rfl⟩

/-- A derived EMPTY berth finds no boat to take (R65, R66). -/
theorem derived_empty {s : State} {e : BerthEntry} {q : BerthStatus} (h : (s.derived e q).state = .empty) :
    ¬ ((s.occupant e.zone).isSome = true ∧ (s.derived e q).presence = true) := by
  obtain ⟨hpres, _, _, _, _, hstate⟩ := derived_fields s e q
  rw [hstate] at h
  rintro ⟨ho, hp⟩
  rw [hpres] at hp
  rw [if_neg] at h
  · split at h <;> cases h
  · rintro (hn | hn)
    · rw [hn] at ho; cases ho
    · rw [hn] at hp; cases hp

theorem tab_modBerth (s : State) (b : Nat) (f : BerthStatus → BerthStatus) : (s.modBerth b f).tab = s.tab := rfl
theorem tab_touch (s : State) (b : Nat) : (s.touch b).tab = s.tab := rfl
theorem occupant_setBerth (s : State) (b z : Nat) (f : BerthStatus → BerthStatus) : (s.setBerth b f).occupant z = s.occupant z := rfl
theorem derived_modBerth (s : State) (b : Nat) (f : BerthStatus → BerthStatus) (e : BerthEntry) : (s.modBerth b f).derived e = s.derived e := rfl
theorem berthE_of_tab {s u : State} (h : u.tab = s.tab) (b : Nat) : u.berthE b = s.berthE b := by unfold State.berthE; rw [h]

/-- A berth whose state has been derived is told nothing new by an arrival (R65, R66). -/
theorem berthArrive_derived {s : State} {b : Nat} {e : BerthEntry} (h : s.berthE b = some e) (hb : b < 6) :
    (s.setBerth b (s.derived e)).berthArrive b = (s.setBerth b (s.derived e)).touch b := by
  have hstill : ¬ (((s.setBerth b (s.derived e)).berthS b).state = .empty ∧
      ((s.setBerth b (s.derived e)).occupant e.zone).isSome = true ∧ ((s.setBerth b (s.derived e)).berthS b).presence = true) := by
    rw [berthS_setBerth, if_pos ⟨rfl, hb⟩, occupant_setBerth]
    rintro ⟨hs, ho, hp⟩
    exact derived_empty hs ⟨ho, hp⟩
  unfold State.berthArrive
  rw [berthE_of_tab (setBerth_tab s b _), h]
  dsimp only
  rw [if_neg hstill]

/-- A rewritten berth: its status is derived from what was kept of it, and its lamp and lock are handed (R61). -/
theorem rewriteBerth_eq {s : State} {b : Nat} {e : BerthEntry} (h : s.berthE b = some e) (hb : b < 6) (same : Bool) :
    s.rewriteBerth b same = (((((s.modBerth b fun q => q.rewritten same).setBerth b
      (s.derived e)).touch b).handLamp b e).handLock b e) := by
  have h1 : (s.modBerth b fun q => q.rewritten same).berthE b = some e := (berthE_of_tab (tab_modBerth s b _) b).trans h
  have harrive := berthArrive_derived h1 hb
  rw [derived_modBerth] at harrive
  have h3 : (((s.modBerth b fun q => q.rewritten same).setBerth b (s.derived e)).touch b).berthE b = some e := by
    rw [berthE_of_tab (tab_touch _ b), berthE_of_tab (setBerth_tab _ b _), h1]
  unfold State.rewriteBerth
  rw [berthDerive_eq h1, derived_modBerth, harrive]
  unfold State.handBoth
  rw [h3]

theorem seqs_handBerth (s : State) (b : Nat) (e : BerthEntry) : ((s.handLamp b e).handLock b e).seqs = s.seqs := by
  have h := still_seqs s.seqs
  exact h.handLock b e (h.handLamp b e rfl)

theorem seqs_rewriteBerth {s : State} {b : Nat} {e : BerthEntry} (h : s.berthE b = some e) (hb : b < 6) (same : Bool) :
    (s.rewriteBerth b same).seqs = s.seqs := by
  rw [rewriteBerth_eq h hb, seqs_handBerth]
  unfold State.touch State.modBerth
  rw [modEv_seqs, setBerth_seqs, putBerth_seqs]

theorem berthS_hand (s : State) (a : Nat) (v : ActValue) (c : Nat) : (s.hand a v).berthS c = s.berthS c := by
  unfold State.berthS
  rw [berths_hand]

theorem berthS_handLamp (s : State) (b : Nat) (e : BerthEntry) (c : Nat) :
    (s.handLamp b e).berthS c = if c = b ∧ b < 6 then { s.berthS b with lampDone := false } else s.berthS c := by
  unfold State.handLamp
  rw [berthS_hand, berthS_modBerth]

theorem berthS_handLock (s : State) (b : Nat) (e : BerthEntry) (c : Nat) :
    (s.handLock b e).berthS c = if c = b ∧ b < 6 then { s.berthS b with lockDone := false } else s.berthS c := by
  unfold State.handLock
  rw [berthS_hand, berthS_modBerth]

theorem berthS_touch (s : State) (b c : Nat) : (s.touch b).berthS c = s.berthS c := rfl

/-- The status a rewritten berth has before its lamp and lock are handed. -/
theorem berthS_rederived {s : State} {b : Nat} (e : BerthEntry) (hb : b < 6) (same : Bool) :
    (((s.modBerth b fun q => q.rewritten same).setBerth b (s.derived e)).touch b).berthS b =
      s.derived e ((s.berthS b).rewritten same) := by
  rw [berthS_touch, berthS_setBerth, if_pos ⟨rfl, hb⟩, berthS_modBerth, if_pos ⟨rfl, hb⟩]

/-- The status of a rewritten berth. -/
def State.rewrittenStatus (s : State) (b : Nat) (e : BerthEntry) (same : Bool) : BerthStatus :=
  { s.derived e ((s.berthS b).rewritten same) with lampDone := false, lockDone := false }

theorem berthS_rewriteBerth {s : State} {b : Nat} {e : BerthEntry} (h : s.berthE b = some e) (hb : b < 6) (same : Bool) :
    (s.rewriteBerth b same).berthS b = s.rewrittenStatus b e same := by
  rw [rewriteBerth_eq h hb, berthS_handLock, if_pos ⟨rfl, hb⟩, berthS_handLamp, if_pos ⟨rfl, hb⟩]
  rw [berthS_rederived e hb]
  rfl

/-! ### Its lamp and its lock -/

theorem actS_handLamp (s : State) (b : Nat) (e : BerthEntry) (c : Nat) : (s.handLamp b e).actS c =
    if c = e.lamp ∧ s.handTaken e.lamp (s.berthS b).lamp.value = true then ⟨some (s.berthS b).lamp.value, false⟩ else s.actS c :=
  actS_hand (s.modBerth b fun q => { q with lampDone := false }) e.lamp (s.berthS b).lamp.value c

theorem actS_handLock (s : State) (b : Nat) (e : BerthEntry) (c : Nat) : (s.handLock b e).actS c =
    if c = e.lock ∧ s.handTaken e.lock (s.berthS b).lock.value = true then ⟨some (s.berthS b).lock.value, false⟩ else s.actS c :=
  actS_hand (s.modBerth b fun q => { q with lockDone := false }) e.lock (s.berthS b).lock.value c

/-- Berth `i` has a status, its lamp and lock not done, and actuator `a` is commanded a value, unconfirmed. -/
structure State.Wanting (T : Tables) (i : Nat) (p : BerthStatus) (a : Nat) (v : ActValue) (s : State) : Prop where
  tab : s.tab = T
  status : s.berthS i = p
  value : s.actS a = ⟨some v, false⟩

section
variable {T : Tables} {i : Nat} {p : BerthStatus} {a : Nat} {v : ActValue} {y : AuthEntry} (hy : (T.auth[a]?).join = some y)
include hy

/-- A value of another kind is not taken. -/
theorem handTaken_other {s : State} (hs : s.tab = T) {w : ActValue} (hk : w.kind ≠ y.kind) : s.handTaken a w = false := by
  refine Bool.eq_false_iff.mpr fun ht => ?_
  obtain ⟨e, he, hwk, _⟩ := (handTaken_iff s a w).mp ht
  unfold State.authE at he
  rw [hs, hy] at he
  cases he
  exact hk hwk

variable {x : BerthEntry} (hx : (T.berth[i]?).join = some x) (hlamp : p.lampDone = false) (hlock : p.lockDone = false)
include hx hlamp hlock

omit hy hx hlock in
theorem status_handLamp {s : State} (hs : s.berthS i = p) (b : Nat) (e : BerthEntry) : (s.handLamp b e).berthS i = p := by
  rw [berthS_handLamp]
  split
  · next h => rw [← h.1, hs, ← hlamp]
  · exact hs

omit hy hx hlamp in
theorem status_handLock {s : State} (hs : s.berthS i = p) (b : Nat) (e : BerthEntry) : (s.handLock b e).berthS i = p := by
  rw [berthS_handLock]
  split
  · next h => rw [← h.1, hs, ← hlock]
  · exact hs

/-- Settling leaves a berth's lamp alone that has just been handed, where no other berth names it (R63). -/
theorem wanting_lamp (hk : y.kind = .lamp) (ha : x.lamp = a) (hv : v = p.lamp.value)
    (hfree : ∀ j e, j ≠ i → (T.berth[j]?).join = some e → e.lamp ≠ a) {s : State} (hs : State.Wanting T i p a v s) :
    State.Wanting T i p a v s.settleBerths := by
  refine settleBerths_keeps (P := State.Wanting T i p a v) (fun {t b e} ht he hne => ?_) (fun {t b e} ht he _ => ?_) hs
  · refine ⟨(tab_of_view (holdView_handLamp t b e)).trans ht.tab, status_handLamp hlamp ht.status b e, ?_⟩
    rw [actS_handLamp, if_neg]
    · exact ht.value
    · rintro ⟨hc, _⟩
      have heT : (T.berth[b]?).join = some e := by unfold State.berthE at he; rw [← ht.tab]; exact he
      by_cases hb : b = i
      · subst hb
        rw [hx] at heT
        cases heT
        exact hne (by rw [ha, ht.value, ht.status, hv])
      · exact hfree b e hb heT hc.symm
  · refine ⟨(tab_of_view (holdView_handLock t b e)).trans ht.tab, status_handLock hlock ht.status b e, ?_⟩
    rw [actS_handLock, if_neg]
    · exact ht.value
    · rintro ⟨hc, htk⟩
      rw [← hc, handTaken_other hy ht.tab (by rw [LockV.value_kind, hk]; decide)] at htk
      cases htk

/-- Settling leaves a berth's lock alone that has just been handed, where no other berth names it (R63). -/
theorem wanting_lock (hk : y.kind = .lock) (ha : x.lock = a) (hv : v = p.lock.value)
    (hfree : ∀ j e, j ≠ i → (T.berth[j]?).join = some e → e.lock ≠ a) {s : State} (hs : State.Wanting T i p a v s) :
    State.Wanting T i p a v s.settleBerths := by
  refine settleBerths_keeps (P := State.Wanting T i p a v) (fun {t b e} ht he _ => ?_) (fun {t b e} ht he hne => ?_) hs
  · refine ⟨(tab_of_view (holdView_handLamp t b e)).trans ht.tab, status_handLamp hlamp ht.status b e, ?_⟩
    rw [actS_handLamp, if_neg]
    · exact ht.value
    · rintro ⟨hc, htk⟩
      rw [← hc, handTaken_other hy ht.tab (by rw [Lamp.value_kind, hk]; decide)] at htk
      cases htk
  · refine ⟨(tab_of_view (holdView_handLock t b e)).trans ht.tab, status_handLock hlock ht.status b e, ?_⟩
    rw [actS_handLock, if_neg]
    · exact ht.value
    · rintro ⟨hc, _⟩
      have heT : (T.berth[b]?).join = some e := by unfold State.berthE at he; rw [← ht.tab]; exact he
      by_cases hb : b = i
      · subst hb
        rw [hx] at heT
        cases heT
        exact hne (by rw [ha, ht.value, ht.status, hv])
      · exact hfree b e hb heT hc.symm

end

/-- The settling keeps a berth's status whose lamp and lock are not done. -/
theorem berthS_settleBerths {s : State} {i : Nat} (hlamp : (s.berthS i).lampDone = false) (hlock : (s.berthS i).lockDone = false) :
    s.settleBerths.berthS i = s.berthS i :=
  settleBerths_keeps (P := fun t => t.berthS i = s.berthS i) (fun ht _ _ => status_handLamp hlamp ht _ _)
    (fun ht _ _ => status_handLock hlock ht _ _) rfl

section
variable {s : State} {b : Nat} {e : BerthEntry} (h : s.berthE b = some e) (hb : b < 6) (same : Bool)
include h hb

/-- A rewritten berth's lamp has been handed (R61). -/
theorem actS_rewriteBerth_lamp {y : AuthEntry} (hy : s.authE e.lamp = some y) (hk : y.kind = .lamp) :
    (s.rewriteBerth b same).actS e.lamp = ⟨some (s.rewrittenStatus b e same).lamp.value, false⟩ := by
  have h1 := berthS_rederived (s := s) e hb same
  have htab : (((s.modBerth b fun q => q.rewritten same).setBerth b (s.derived e)).touch b).tab = s.tab := by
    rw [tab_touch, setBerth_tab, tab_modBerth]
  rw [rewriteBerth_eq h hb]
  generalize (((s.modBerth b fun q => q.rewritten same).setBerth b (s.derived e)).touch b) = t at h1 htab
  have hlock : ¬ (e.lamp = e.lock ∧ (t.handLamp b e).handTaken e.lock ((t.handLamp b e).berthS b).lock.value = true) := by
    rintro ⟨hl, htk⟩
    rw [← hl, handTaken_other (T := s.tab) hy ((tab_of_view (holdView_handLamp t b e)).trans htab)
      (by rw [LockV.value_kind, hk]; decide)] at htk
    cases htk
  have hauth : t.authE e.lamp = some y := by unfold State.authE; rw [htab]; exact hy
  rw [actS_handLock, if_neg hlock, actS_handLamp,
    if_pos ⟨rfl, (handTaken_iff t _ _).mpr ⟨y, hauth, by rw [Lamp.value_kind, hk], Lamp.value_inRange _⟩⟩, h1]
  rfl

/-- A rewritten berth's lock has been handed (R61). -/
theorem actS_rewriteBerth_lock {y : AuthEntry} (hy : s.authE e.lock = some y) (hk : y.kind = .lock) :
    (s.rewriteBerth b same).actS e.lock = ⟨some (s.rewrittenStatus b e same).lock.value, false⟩ := by
  have h1 := berthS_rederived (s := s) e hb same
  have htab : (((s.modBerth b fun q => q.rewritten same).setBerth b (s.derived e)).touch b).tab = s.tab := by
    rw [tab_touch, setBerth_tab, tab_modBerth]
  rw [rewriteBerth_eq h hb]
  generalize (((s.modBerth b fun q => q.rewritten same).setBerth b (s.derived e)).touch b) = t at h1 htab
  have hst : ((t.handLamp b e).berthS b).lock = (s.derived e ((s.berthS b).rewritten same)).lock := by
    rw [berthS_handLamp, if_pos ⟨rfl, hb⟩, h1]
  have hauth : (t.handLamp b e).authE e.lock = some y := by
    unfold State.authE
    rw [tab_of_view (holdView_handLamp t b e), htab]
    exact hy
  rw [actS_handLock, if_pos ⟨rfl, (handTaken_iff _ _ _).mpr ⟨y, hauth, by rw [LockV.value_kind, hk], LockV.value_inRange _⟩⟩, hst]
  rfl

end

end Sys2Proof.Machine
end

section
/-! The obligation's clauses for BERTH (R61, R63, R65). -/

namespace Sys2Proof.Machine

section
variable {s : State} {t i : Nat} {img : List Byte} {c : Bool} (hf : s.requestFree) (hm : s.mode = .config)

/-- Whether a stored BERTH entry keeps the readings: its node stays (R61). -/
def State.sameBerthNode (s : State) (i : Nat) (x : BerthEntry) : Bool :=
  match s.berthE i with
  | none => false
  | some old => decide (old.node = x.node)

theorem storeBerth_defined (s : State) (i : Nat) (x : BerthEntry) : s.storeBerth i (some x) =
    (s.modTab fun t => { t with berth := t.berth.setIfInBounds i (some x) }).rewriteBerth i (s.sameBerthNode i x) := by
  unfold State.storeBerth State.sameBerthNode
  cases s.berthE i <;> rfl

theorem storeBerth_undefined (s : State) (i : Nat) : s.storeBerth i none =
    (s.modTab fun t => { t with berth := t.berth.setIfInBounds i none }).putBerth i .initial := by
  unfold State.storeBerth
  cases s.berthE i <;> rfl

/-- The readings of a rewritten berth, kept with its node or not (R61). -/
theorem rewritten_fields (q : BerthStatus) (same : Bool) :
    (q.rewritten same).presence = (if same then q.presence else false) ∧ (q.rewritten same).latch = (if same then q.latch else false) ∧
    (q.rewritten same).weight = if same then q.weight else none := by
  cases same <;> exact ⟨rfl, rfl, rfl⟩

theorem sameBerthNode_true {s : State} {i : Nat} {x y : BerthEntry} (hy : s.berthE i = some y) (h : y.node = x.node) :
    s.sameBerthNode i x = true := by
  unfold State.sameBerthNode
  rw [hy]
  exact decide_eq_true h

theorem sameBerthNode_false {s : State} {i : Nat} {x : BerthEntry} (h : ∀ y, s.berthE i = some y → y.node ≠ x.node) :
    s.sameBerthNode i x = false := by
  unfold State.sameBerthNode
  cases hy : s.berthE i with
  | none => rfl
  | some y => exact decide_eq_false (h y hy)

/-- Where nothing of a berth's lamp and lock is done, a WRITE's event leaves its status as it was stored. -/
theorem berthS_written {v : State} (hmode : v.mode ≠ .run) (hidle : ∀ k, k < 2 → (v.seqS k).state ≠ .charging)
    (hlamp : (v.berthS i).lampDone = false) (hlock : (v.berthS i).lockDone = false) : (s.written t v c).berthS i = v.berthS i := by
  obtain ⟨u, hu, hev⟩ := written_settles (s := s) (t := t) (c := c) hmode hidle
  have hb := berthS_of_bench hu i
  have hset := berthS_settleBerths (s := u) (i := i) (by rw [hb]; exact hlamp) (by rw [hb]; exact hlock)
  rw [hev]
  unfold State.berthS at *
  rw [clearEv_berths, driveLines_berths, hset, hb]

/-- Where settling leaves an actuator as it was handed, so does a WRITE's event. -/
theorem wanting_written {T : Tables} {p : BerthStatus} {a : Nat} {w : ActValue} {v : State} (hmode : v.mode ≠ .run)
    (hidle : ∀ k, k < 2 → (v.seqS k).state ≠ .charging)
    (hset : ∀ {u : State}, State.Wanting T i p a w u → State.Wanting T i p a w u.settleBerths) (hv : State.Wanting T i p a w v) :
    (s.written t v c).actS a = ⟨some w, false⟩ := by
  obtain ⟨u, hu, hev⟩ := written_settles (s := s) (t := t) (c := c) hmode hidle
  have h1 := hset (u := u) ⟨(tab_of_bench hu).trans hv.tab, (berthS_of_bench hu i).trans hv.status, (actS_of_bench hu a).trans hv.value⟩
  have h2 := h1.value
  rw [hev]
  unfold State.actS at *
  rw [clearEv_acts, driveLines_acts, h2]

/-- What a rewritten berth's status holds (R61, R65). -/
theorem rewrittenStatus_fields (v : State) (b : Nat) (e : BerthEntry) (same : Bool) :
    (v.rewrittenStatus b e same).presence = (if same then (v.berthS b).presence else false) ∧
    (v.rewrittenStatus b e same).latch = (if same then (v.berthS b).latch else false) ∧
    (v.rewrittenStatus b e same).weight = (if same then (v.berthS b).weight else none) ∧
    (v.rewrittenStatus b e same).pending = false ∧ (v.rewrittenStatus b e same).reason = .none ∧
    (v.rewrittenStatus b e same).state = (if v.occupant e.zone = none ∨ (v.rewrittenStatus b e same).presence = false then .empty
      else if (v.rewrittenStatus b e same).latch = true ∧ v.lockConfirmed e = true then .secured else .occupied) := by
  obtain ⟨hp, hl, hw, hpend, hreason, hstate⟩ := derived_fields v e ((v.berthS b).rewritten same)
  obtain ⟨kp, kl, kw⟩ := rewritten_fields (v.berthS b) same
  refine ⟨hp.trans kp, hl.trans kl, hw.trans kw, hpend, hreason, ?_⟩
  rw [show (v.rewrittenStatus b e same).presence = _ from hp, show (v.rewrittenStatus b e same).latch = _ from hl]
  exact hstate

section
variable {v : State} {x : BerthEntry} (hE : v.berthE i = some x) (hi : i < 6) (hmode : v.mode = .config) (hsound : v.sequencersSound) (same : Bool)
include hE hi hmode hsound

omit hE hi hsound in
theorem mode_rewriteBerth : (v.rewriteBerth i same).mode ≠ .run := by
  rw [mode_of_view (holdView_rewriteBerth v i same), hmode]
  decide

theorem idle_rewriteBerth (k : Nat) (hk : k < 2) : ((v.rewriteBerth i same).seqS k).state ≠ .charging := by
  unfold State.seqS
  rw [seqs_rewriteBerth hE hi]
  exact sequencersSound_idle hsound hmode k hk

/-- A rewritten berth ends the event as it was rewritten. -/
theorem berthS_written_rewrite : (s.written t (v.rewriteBerth i same) c).berthS i = v.rewrittenStatus i x same := by
  have hst := berthS_rewriteBerth hE hi same
  rw [berthS_written (mode_rewriteBerth hmode same) (idle_rewriteBerth hE hi hmode hsound same) (by rw [hst]; rfl) (by rw [hst]; rfl), hst]

theorem lamp_written_rewrite {a : AuthEntry} (ha : v.authE x.lamp = some a) (hk : a.kind = .lamp)
    (hfree : ∀ j y, j ≠ i → v.berthE j = some y → y.lamp ≠ x.lamp) :
    (s.written t (v.rewriteBerth i same) c).actS x.lamp = ⟨some (v.rewrittenStatus i x same).lamp.value, false⟩ :=
  wanting_written (mode_rewriteBerth hmode same) (idle_rewriteBerth hE hi hmode hsound same)
    (fun hu => wanting_lamp (T := v.tab) ha hE rfl rfl hk rfl rfl hfree hu)
    ⟨tab_of_view (holdView_rewriteBerth v i same), berthS_rewriteBerth hE hi same, actS_rewriteBerth_lamp hE hi same ha hk⟩

theorem lock_written_rewrite {a : AuthEntry} (ha : v.authE x.lock = some a) (hk : a.kind = .lock)
    (hfree : ∀ j y, j ≠ i → v.berthE j = some y → y.lock ≠ x.lock) :
    (s.written t (v.rewriteBerth i same) c).actS x.lock = ⟨some (v.rewrittenStatus i x same).lock.value, false⟩ :=
  wanting_written (mode_rewriteBerth hmode same) (idle_rewriteBerth hE hi hmode hsound same)
    (fun hu => wanting_lock (T := v.tab) ha hE rfl rfl hk rfl rfl hfree hu)
    ⟨tab_of_view (holdView_rewriteBerth v i same), berthS_rewriteBerth hE hi same, actS_rewriteBerth_lock hE hi same ha hk⟩

end

include hf hm

/-- A berth is defined or redefined: its state is derived, and its lamp and lock are commanded (R61, R63, R65). -/
theorem completes_writeBerth {x : BerthEntry} (hsq : s.sequencersSound) (hp : s.ptr = (.berth, i)) (hi : i < 6)
    (hd : decodeBerth img = some (some x, c)) (hfree : ∀ j y, j ≠ i → s.berthE j = some y → y.zone ≠ x.zone ∧ y.node ≠ x.node) :
    Completes (.write t false img) s fun u => u.berthE i = some x ∧ u.ptr = (.berth, (i + 1) % 6) ∧
      ((∃ y, s.berthE i = some y ∧ y.node = x.node) → (u.berthS i).presence = (s.berthS i).presence ∧
        (u.berthS i).latch = (s.berthS i).latch ∧ (u.berthS i).weight = (s.berthS i).weight) ∧
      ((∀ y, s.berthE i = some y → y.node ≠ x.node) → (u.berthS i).presence = false ∧
        (u.berthS i).latch = false ∧ (u.berthS i).weight = none) ∧
      (u.berthS i).pending = false ∧ (u.berthS i).reason = .none ∧
      (u.berthS i).lampDone = false ∧ (u.berthS i).lockDone = false ∧
      (u.berthS i).state = (if s.occupant x.zone = none ∨ (u.berthS i).presence = false then .empty
        else if (u.berthS i).latch = true ∧ s.lockConfirmed x = true then .secured else .occupied) ∧
      (∀ a, s.authE x.lamp = some a → a.kind = .lamp → (∀ j y, j ≠ i → s.berthE j = some y → y.lamp ≠ x.lamp) →
        u.actS x.lamp = ⟨some (u.berthS i).lamp.value, false⟩) ∧
      ∀ a, s.authE x.lock = some a → a.kind = .lock → (∀ j y, j ≠ i → s.berthE j = some y → y.lock ≠ x.lock) →
        u.actS x.lock = ⟨some (u.berthS i).lock.value, false⟩ := by
  have hdesk := desk_storeBerth (s.opened t) i (some x)
  refine completes_put hf hm hp (by decide) (storeEntry_berth _ i img) hd (otherHas_false fun j y hj hy => ?_)
    ⟨?_, ptr_written_at hp t (congrArg Desk.ptr hdesk) _, ?_⟩
  · obtain ⟨hz, hn⟩ := hfree j y hj hy
    simp [hz, hn]
  · unfold State.berthE
    rw [tab_written, show ((s.opened t).storeBerth i (some x)).tab = _ from congrArg Desk.tab hdesk]
    exact join_set s.tab.berth _ hi
  · rw [storeBerth_defined, show (s.opened t).sameBerthNode i x = s.sameBerthNode i x from rfl]
    have hE : ((s.opened t).modTab fun tab => { tab with berth := tab.berth.setIfInBounds i (some x) }).berthE i = some x :=
      join_set s.tab.berth _ hi
    have hOther : ∀ j y, j ≠ i → ((s.opened t).modTab fun tab => { tab with berth := tab.berth.setIfInBounds i (some x) }).berthE j = some y →
        s.berthE j = some y := fun j y hj he => by
      rw [← he]
      exact ((join_setIfInBounds s.tab.berth i j (some x)).trans (if_neg fun h => hj h.1)).symm
    have hmode : ((s.opened t).modTab fun tab => { tab with berth := tab.berth.setIfInBounds i (some x) }).mode = .config := hm
    have hsound : ((s.opened t).modTab fun tab => { tab with berth := tab.berth.setIfInBounds i (some x) }).sequencersSound := hsq
    have hst : ((s.opened t).modTab fun tab => { tab with berth := tab.berth.setIfInBounds i (some x) }).berthS i = s.berthS i := rfl
    have hocc : ((s.opened t).modTab fun tab => { tab with berth := tab.berth.setIfInBounds i (some x) }).occupant x.zone =
        s.occupant x.zone := rfl
    have hconf : ((s.opened t).modTab fun tab => { tab with berth := tab.berth.setIfInBounds i (some x) }).lockConfirmed x =
        s.lockConfirmed x := rfl
    have hauth : ∀ a, ((s.opened t).modTab fun tab => { tab with berth := tab.berth.setIfInBounds i (some x) }).authE a = s.authE a :=
      fun _ => rfl
    generalize ((s.opened t).modTab fun tab => { tab with berth := tab.berth.setIfInBounds i (some x) }) = v at *
    obtain ⟨hpres, hlatch, hweight, hpend, hreason, hstate⟩ := rewrittenStatus_fields v i x (s.sameBerthNode i x)
    rw [hst] at hpres hlatch hweight
    rw [hocc, hconf] at hstate
    rw [berthS_written_rewrite hE hi hmode hsound]
    refine ⟨fun ⟨y, hy, hn⟩ => ?_, fun hn => ?_, hpend, hreason, rfl, rfl, hstate, fun a ha hk hl => ?_, fun a ha hk hl => ?_⟩
    · have hsame := sameBerthNode_true hy hn
      rw [hpres, hlatch, hweight, hsame]
      exact ⟨rfl, rfl, rfl⟩
    · have hsame := sameBerthNode_false hn
      rw [hpres, hlatch, hweight, hsame]
      exact ⟨rfl, rfl, rfl⟩
    · exact lamp_written_rewrite hE hi hmode hsound _ ((hauth _).trans ha) hk fun j y hj hy => hl j y hj (hOther j y hj hy)
    · exact lock_written_rewrite hE hi hmode hsound _ ((hauth _).trans ha) hk fun j y hj hy => hl j y hj (hOther j y hj hy)

/-- A berth is made undefined: its status is the one at power-on, and nothing is commanded (R61). -/
theorem completes_undefineBerth (hsq : s.sequencersSound) (hev : s.ev = Ev.none) (hp : s.ptr = (.berth, i)) (hi : i < 6)
    (hd : decodeBerth img = some (none, c)) :
    Completes (.write t false img) s fun u => u.berthE i = none ∧ u.berthS i = .initial ∧ u.acts = s.acts ∧ u.cmds = s.cmds := by
  have hdesk := desk_storeBerth (s.opened t) i none
  refine completes_put hf hm hp (by decide) (storeEntry_berth _ i img) hd rfl ⟨?_, ?_⟩
  · unfold State.berthE
    rw [tab_written, show ((s.opened t).storeBerth i none).tab = _ from congrArg Desk.tab hdesk]
    exact join_set s.tab.berth _ hi
  · rw [storeBerth_undefined]
    have hst : (((s.opened t).modTab fun tab => { tab with berth := tab.berth.setIfInBounds i none }).putBerth i .initial).berthS i =
        .initial := (berthS_putBerth _ i i _).trans (if_pos ⟨rfl, hi⟩)
    have hmode : (((s.opened t).modTab fun tab => { tab with berth := tab.berth.setIfInBounds i none }).putBerth i .initial).mode = .config := hm
    have hsound : (((s.opened t).modTab fun tab =>
      { tab with berth := tab.berth.setIfInBounds i none }).putBerth i .initial).sequencersSound := hsq
    have hacts : (((s.opened t).modTab fun tab => { tab with berth := tab.berth.setIfInBounds i none }).putBerth i .initial).acts = s.acts := rfl
    have hcmds : (((s.opened t).modTab fun tab => { tab with berth := tab.berth.setIfInBounds i none }).putBerth i .initial).cmds = s.cmds := rfl
    have htouched : (((s.opened t).modTab fun tab =>
      { tab with berth := tab.berth.setIfInBounds i none }).putBerth i .initial).ev.touched = [] := congrArg Ev.touched hev
    generalize (((s.opened t).modTab fun tab => { tab with berth := tab.berth.setIfInBounds i none }).putBerth i .initial) = v at *
    obtain ⟨u, hu, hend⟩ := written_settles (s := s) (t := t) (v := v) (c := c) (by rw [hmode]; decide) (sequencersSound_idle hsound hmode)
    rw [hend, settleBerths_untouched ((touched_of_bench hu).trans htouched)]
    refine ⟨?_, ?_, ?_⟩
    · rw [← hst, ← berthS_of_bench hu]
      unfold State.berthS
      rw [clearEv_berths, driveLines_berths]
    · rw [clearEv_acts, driveLines_acts, acts_of_bench hu, hacts]
    · rw [clearEv_cmds, driveLines_cmds, cmds_of_bench hu, hcmds]

end

end Sys2Proof.Machine
end

section
/-! Writes to CHANNEL and USER, which are taken in every mode (R151 to R159). -/

namespace Sys2Proof.Machine

/-! ### An event that changes no level -/

/-- Evaluating the USER holds sets those of the defined zones, of all that levels and holds rest on (R13). -/
theorem holdView_evalUserHolds (s : State) : s.evalUserHolds.holdView = { s.holdView with
    zones := fun z => if (s.zoneE z).isSome then { (s.zst z).holds with userHold := (s.zst z).latch || s.followHolds.contains z }
      else (s.zst z).holds } := by
  have hrest : { s.evalUserHolds.holdView with zones := s.holdView.zones } = s.holdView :=
    evalUserHolds_keeps (fun t => { t.holdView with zones := s.holdView.zones }) (fun _ _ _ => rfl) s
  have hzones : s.evalUserHolds.holdView.zones = fun z => if (s.zoneE z).isSome then
      { (s.zst z).holds with userHold := (s.zst z).latch || s.followHolds.contains z } else (s.zst z).holds := by
    funext z
    show (s.evalUserHolds.zst z).holds = _
    rw [zst_evalUserHolds]
    split <;> rfl
  rw [← hzones, ← hrest]

theorem holdView_evalUserHolds_congr {s u : State} (h : u.holdView = s.holdView) : u.evalUserHolds.holdView = s.evalUserHolds.holdView := by
  rw [holdView_evalUserHolds, holdView_evalUserHolds, h, followHolds_of_view h]
  simp only [zoneE_of_view h, holds_of_view h, latch_of_view h]

theorem view_stored (v : State) (c : Bool) : (v.advance.withResult (.plain (storedCode c))).holdView = v.holdView := rfl

section
variable {s v : State} {t : Nat} {c : Bool} (hl : ∀ g, v.genLevel g = s.genLevel g)
include hl

theorem levels_stored (g : Gen) : (v.advance.withResult (.plain (storedCode c))).genLevel g = (s.at_ t).genLevel g := by
  rw [genLevel_of_view (view_stored v c), hl, genLevel_of_view (holdView_at s t)]

theorem holdView_written : (s.written t v c).holdView = v.evalUserHolds.holdView := by
  unfold State.written
  rw [holdView_event (f := fun _ => v.advance.withResult (.plain (storedCode c))) (levels_stored hl)]
  exact holdView_evalUserHolds_congr (view_stored v c)

theorem pulses_written : (s.written t v c).pulses = v.pulses := by
  have h := holdView_written (t := t) (c := c) hl
  rw [holdView_evalUserHolds] at h
  generalize s.written t v c = u at h
  exact congrArg HoldView.pulses h

/-- Latches stay, and the USER holds of defined zones follow latches and FOLLOW users (R13, R155). -/
theorem userHolds_written {z : Nat} {e : ZoneEntry} (he : v.zoneE z = some e) :
    ((s.written t v c).zst z).latch = (v.zst z).latch ∧
    ((s.written t v c).zst z).userHold = (((s.written t v c).zst z).latch || (s.written t v c).followHolds.contains z) := by
  have hview := holdView_written (t := t) (c := c) hl
  have hz : v.evalUserHolds.zst z = { v.zst z with userHold := (v.zst z).latch || v.followHolds.contains z } := by
    rw [zst_evalUserHolds, he]
    rfl
  rw [latch_of_view hview z, userHold_of_view hview z, followHolds_of_view hview, followHolds_evalUserHolds, hz]
  exact ⟨rfl, rfl⟩

end

theorem linesSound_written (s : State) (t : Nat) (v : State) (c : Bool) : (s.written t v c).linesSound := linesSound_event _ _

/-! ### Charges of inhibited sections -/

/-- An INHIBIT user with a high level names section `k` (R157). -/
def State.barred (s : State) (k : Nat) : Prop := ∃ x, (x = 20 ∨ x = 21) ∧ (s.userE x).param = k ∧ s.userLevel x = true

theorem inhibited_of_barred {s : State} {k : Nat} (h : s.barred k) : s.inhibited k = true := by
  obtain ⟨x, hx, hk, hlevel⟩ := h
  unfold State.inhibited
  rw [List.any_eq_true]
  refine ⟨x, ?_, by simp [hk, hlevel]⟩
  rcases hx with rfl | rfl <;> decide

theorem barred_of_view {s u : State} (h : u.holdView = s.holdView) {k : Nat} (hs : s.barred k) : u.barred k := by
  obtain ⟨x, hx, hk, hlevel⟩ := hs
  exact ⟨x, hx, by rw [userE_of_view h]; exact hk, by rw [userLevel_of_view h]; exact hlevel⟩

/-- What a notice of an aborted charge rests on: an INHIBIT user with a high level, and the boat that is charging (R87, R157). -/
structure State.BarredCharge (k b : Nat) (s : State) : Prop where
  barred : s.barred k
  launch : (s.launchE k).isSome = true
  charging : (s.seqS k).state = .charging
  boat : (s.seqS k).boat = some b

theorem State.BarredCharge.congr {k b : Nat} {s u : State} (h : s.BarredCharge k b) (hv : u.holdView = s.holdView)
    (hq : u.seqS k = s.seqS k) : u.BarredCharge k b := by
  refine ⟨barred_of_view hv h.barred, ?_, by rw [hq]; exact h.charging, by rw [hq]; exact h.boat⟩
  unfold State.launchE
  rw [tab_of_view hv]
  exact h.launch

/-- A section that is charging and inhibited has its charge aborted, with a notice (R87, R157). -/
theorem sent_abortInhibited {s : State} {k b : Nat} (hm : s.mask.getLsbD (Notice.launchAborted k b .inhibited).kind = true) {t : State}
    (hst : Steady s t) (hc : t.BarredCharge k b) : Sent s (.launchAborted k b .inhibited) t.abortInhibited := by
  have hk : k ∈ [0, 1] := by
    obtain ⟨e, he⟩ := Option.isSome_iff_exists.mp hc.launch
    have hk2 := launchE_range he
    interval_cases k <;> decide
  unfold State.abortInhibited
  revert hst hc hk
  generalize [0, 1] = l
  induction l generalizing t with
  | nil => exact fun _ _ hk => absurd hk List.not_mem_nil
  | cons j l ih =>
    intro hst hc hk
    rw [List.foldl_cons]
    by_cases hj : k = j
    · subst hj
      refine foldl_keeps (P := Sent s (.launchAborted k b .inhibited)) (fun u j hu => ?_) l ?_
      · split
        · exact (sent_calm s _).abortCharge j _ hu
        · exact hu
      · rw [if_pos (inhibited_of_barred hc.barred)]
        exact State.sent_abortCharges [k] List.mem_cons_self hst hc.launch hc.charging hc.boat hm
    · have hkl := (List.mem_cons.mp hk).resolve_left hj
      split
      · exact ih ((steady_calm s).abortCharge j _ hst) (hc.congr (holdView_abortCharge t j _) (seqS_abortCharge_other t _ hj)) hkl
      · exact ih hst hc hkl

/-- The charge of a section that a WRITE leaves inhibited is aborted as its event ends, with a notice (R87, R157). -/
theorem sent_written {s v : State} {t k b : Nat} {c : Bool} (hm : s.mask.getLsbD (Notice.launchAborted k b .inhibited).kind = true)
    (hl : ∀ g, v.genLevel g = s.genLevel g) (hst : Steady s v) (hc : v.evalUserHolds.BarredCharge k b) :
    Sent s (.launchAborted k b .inhibited) (s.written t v c) := by
  have hw : Steady s (v.advance.withResult (.plain (storedCode c))) := hst.congr rfl rfl rfl
  have hcw : (v.advance.withResult (.plain (storedCode c))).evalUserHolds.BarredCharge k b := by
    refine hc.congr (holdView_evalUserHolds_congr (view_stored v c)) ?_
    unfold State.seqS
    rw [seqs_of_bench (bench_evalUserHolds _), seqs_of_bench (bench_evalUserHolds v)]
    rfl
  have hlw := levels_stored (t := t) (c := c) hl
  have hcalm := sent_calm s (.launchAborted k b .inhibited)
  unfold State.written State.event State.settle
  generalize v.advance.withResult (.plain (storedCode c)) = w at *
  rw [edges_of_levels hlw]
  exact hcalm.clearEv (hcalm.driveLines (hcalm.settleBerths (hcalm.scans _
    (sent_abortInhibited hm ((steady_calm s).evalUserHolds hw) hcw))))

/-! ### The obligation's clauses for CHANNEL and USER -/

/-- What the clauses for CHANNEL and USER say in common of the state `u` that a WRITE to `s` ends with: pulses, mode control and
latches stay, lines and USER holds are evaluated, and charges that have become inhibited are aborted with a notice (R87, R155 to R157). -/
def State.matrixTaken (s u : State) : Prop :=
  u.pulses = s.pulses ∧ u.mc = s.mc ∧ (∀ x, x < 8 → u.lines[x]? = some (u.auxLine x)) ∧
    (∀ z e, s.zoneE z = some e → (u.zst z).latch = (s.zst z).latch ∧
      (u.zst z).userHold = ((u.zst z).latch || u.followHolds.contains z)) ∧
    ∀ x k b, x = 20 ∨ x = 21 → (u.userE x).param = k → u.userLevel x = true → (s.launchE k).isSome = true →
      (s.seqS k).state = .charging → (s.seqS k).boat = some b → s.noticed u (.launchAborted k b .inhibited)

theorem holdView_openedTab (s : State) (t : Nat) (f : Tables → Tables) :
    ((s.opened t).modTab f).holdView = { s.holdView with tab := f s.tab } := rfl

theorem levels_openedTab (s : State) (t : Nat) (f : Tables → Tables) (g : Gen) : ((s.opened t).modTab f).genLevel g = s.genLevel g :=
  genLevel_congr rfl rfl (fun _ => rfl) (fun _ => rfl) g

theorem steady_openedTab (s : State) (t : Nat) (f : Tables → Tables) : Steady s ((s.opened t).modTab f) := (Steady.refl s).congr rfl rfl rfl

theorem seqS_openedTab (s : State) (t : Nat) (f : Tables → Tables) (k : Nat) : ((s.opened t).modTab f).seqS k = s.seqS k := rfl

theorem matrixTaken_written {s : State} (t : Nat) (c : Bool) {f : Tables → Tables} (hzone : (f s.tab).zone = s.tab.zone)
    (hlaunch : (f s.tab).launch = s.tab.launch) : s.matrixTaken (s.written t ((s.opened t).modTab f) c) := by
  have hl := levels_openedTab s t f
  have hv := holdView_openedTab s t f
  have hst := steady_openedTab s t f
  have hseq := seqS_openedTab s t f
  have hz : ∀ z, ((s.opened t).modTab f).zoneE z = s.zoneE z := fun z => by
    unfold State.zoneE
    rw [tab_of_view (s := { s with tab := f s.tab }) hv, ← hzone]
  have hlatch : ∀ z, (((s.opened t).modTab f).zst z).latch = (s.zst z).latch := fun z =>
    latch_of_view (s := { s with tab := f s.tab }) hv z
  have hlaunchE : ∀ k, ((s.opened t).modTab f).launchE k = s.launchE k := fun k => by
    unfold State.launchE
    rw [tab_of_view (s := { s with tab := f s.tab }) hv, ← hlaunch]
  have hpulses : ((s.opened t).modTab f).pulses = s.pulses := rfl
  have hmc : ((s.opened t).modTab f).mc = s.mc := rfl
  generalize (s.opened t).modTab f = v at *
  have hview := holdView_written (t := t) (c := c) hl
  refine ⟨(pulses_written hl).trans hpulses, (mc_written s t v c).trans hmc, linesSound_written s t v c, fun z e he => ?_,
    fun x k b hx hk hlevel he hq hb => noticed_of_sent fun hm => sent_written hm hl hst ?_⟩
  · have h := userHolds_written (t := t) (c := c) hl ((hz z).trans he)
    exact ⟨h.1.trans (hlatch z), h.2⟩
  · have hseqv : v.evalUserHolds.seqS k = s.seqS k := by
      rw [← hseq k]
      unfold State.seqS
      rw [seqs_of_bench (bench_evalUserHolds v)]
    refine ⟨⟨x, hx, by rw [← userE_of_view hview]; exact hk, by rw [← userLevel_of_view hview]; exact hlevel⟩, ?_,
      by rw [hseqv]; exact hq, by rw [hseqv]; exact hb⟩
    rw [← hlaunchE k] at he
    unfold State.launchE at *
    rw [evalUserHolds_keeps State.tab (fun _ _ _ => rfl) v]
    exact he

section
variable {s : State} {t i : Nat} {img : List Byte} (hf : s.requestFree)
include hf

theorem completes_writeChannel {g : Option Gen} (hp : s.ptr = (.channel, i)) (hi : i < 12) (hd : decodeChannel i img = some g) :
    Completes (.write t false img) s fun u => u.chanE i = g ∧ u.ptr = (.channel, (i + 1) % 12) ∧ u.answered (.plain .ok) ∧
      (∀ x, u.userE x = s.userE x) ∧ s.matrixTaken u := by
  refine completes_stored (e := g) (clamped := false) (conflict := fun _ => false)
    (put := fun x => (s.opened t).modTab fun tab => { tab with chan := tab.chan.setIfInBounds i x }) hf
    (writeRefusal_matrix (.inl ?_)) ?_ rfl ⟨?_, ptr_written_at hp t (by rfl) _, answered_written _ _ _ _, fun x => ?_,
      matrixTaken_written t false rfl rfl⟩
  · show s.ptr.1 = .channel
    rw [hp]
  · rw [hp, storeEntry_channel, hd]
    rfl
  · unfold State.chanE
    rw [tab_written]
    exact join_set s.tab.chan _ hi
  · unfold State.userE
    rw [tab_written]
    rfl

theorem completes_writeUser {e : UserEntry} {c : Bool} (hp : s.ptr = (.user, i)) (hi : i < 22) (hd : decodeUser i img = some (e, c)) :
    Completes (.write t false img) s fun u => u.userE i = e ∧ u.ptr = (.user, (i + 1) % 22) ∧
      u.answered (.plain (if c then .okClamped else .ok)) ∧ s.matrixTaken u := by
  refine completes_stored (e := e) (clamped := c) (conflict := fun _ => false)
    (put := fun x => (s.opened t).modTab fun tab => { tab with user := tab.user.setIfInBounds i x }) hf
    (writeRefusal_matrix (.inr ?_)) ?_ rfl ⟨?_, ptr_written_at hp t (by rfl) _, answered_written _ _ _ _,
      matrixTaken_written t c rfl rfl⟩
  · show s.ptr.1 = .user
    rw [hp]
  · rw [hp, storeEntry_user, hd]
  · unfold State.userE
    rw [tab_written]
    exact (getD_setIfInBounds s.tab.user i i e (UserEntry.initial i)).trans (if_pos ⟨rfl, hi⟩)

end

end Sys2Proof.Machine
end

section
/-! What a WRITE that is taken puts into effect, table by table, and what decoding gives (R176, R186). -/

namespace Sys2Proof.Machine

/-- The transit time and the speed limit that decoding a ZONE image gives, and when they are clamped (R186). -/
theorem decodeZone_numbers {img : List Byte} {e : ZoneEntry} {c : Bool} (h : decodeZone img = some (some e, c)) :
    e.fits ∧ e.transit = clamp 100 60000 (wordAt img 8) ∧ (wordAt img 10 = 65535 → e.speedLimit = none) ∧
    (wordAt img 10 ≠ 65535 → e.speedLimit = some (clamp 500 20000 (wordAt img 10))) ∧
    (c = true ↔ e.transit ≠ wordAt img 8 ∨ ∃ v, e.speedLimit = some v ∧ v ≠ wordAt img 10) := by
  obtain ⟨_, _, hfits, htransit, _, hlimit, hclamped⟩ := decodeZone_some h
  refine ⟨hfits, htransit, fun hw => hlimit.trans (if_pos hw), fun hw => hlimit.trans (if_neg hw), hclamped.trans ?_⟩
  simp [Option.any_eq_true]

/-- Settles O12: the event of a WRITE ends with the entry that was stored, table by table. -/
theorem writesTakeEffect : Obligations.WritesTakeEffect := by
  refine ⟨fun _ _ _ _ _ _ hf hm hsq hp hi hd hfree => completes_writeZone hf hm hsq hp hi hd hfree,
    fun _ _ _ _ _ hf hm hsq hp hi hd ho hr => completes_undefineZone hf hm hsq hp hi hd ho hr,
    fun _ _ _ _ _ _ hf hm hp hi hd hfree => completes_writeTrap hf hm hp hi hd hfree,
    fun _ _ _ _ _ _ hf hm hp hi hd hfree => completes_writeLaunch hf hm hp hi hd hfree,
    fun _ _ _ _ _ _ hf hm hp hi hd hfree => completes_writeRun hf hm hp hi hd hfree,
    fun _ _ _ _ _ hf hm hp hi hd => completes_undefineRun hf hm hp hi hd,
    fun _ _ _ _ _ _ hf hm hp hi hd => completes_writeStage hf hm hp hi hd,
    fun _ _ _ _ _ _ hf hm hsq hp hi hd hfree => completes_writeBerth hf hm hsq hp hi hd hfree,
    fun _ _ _ _ _ hf hm hsq hev hp hi hd => completes_undefineBerth hf hm hsq hev hp hi hd,
    fun t img i g s hf hp hi hd => ?_, fun t img i e c s hf hp hi hd => completes_writeUser hf hp hi hd,
    fun _ _ _ h => decodeZone_numbers h, fun _ _ _ h => decodeTrap_some h, fun _ _ _ h => decodeLaunch_some h,
    fun _ _ _ h => decodeBand_some h, fun _ _ _ h => decodeRun_some h, fun _ _ _ h => decodeStage_some h,
    fun _ _ _ _ hu h => decodeUser_some hu h, fun _ h1 hw => decodeZone_limitless h1 hw⟩
  obtain ⟨u, hex, hg, hptr, hans, huser, hpulses, hmc, hlines, hholds, hcharges⟩ :=
    completes_writeChannel (t := t) hf hp hi hd
  exact ⟨u, hex, hg, hptr, hans, hpulses, hmc, hlines, hholds, fun x k b hx hk => hcharges x k b hx ((congrArg _ (huser x)).trans hk)⟩

end Sys2Proof.Machine
end

section
/-! The ports' queues, the numbers and the command list, each within its bounds through every update of which the commands are
made (R127, R168, R169, R173, R179, R180). -/

namespace Sys2Proof.Machine

variable {P : State → Prop}

/-- What the bounds of queues, numbers and the command list are read from. -/
structure Ledger where
  up : PortState
  dn : PortState
  notices : List Notice
  req : Option Request
  counters : Vector Nat 21
  tag : Nat
  cmds : List CmdEntry

def State.ledger (s : State) : Ledger := ⟨s.up, s.dn, s.notices, s.req, s.counters, s.tag, s.cmds⟩

/-- The property looks at the ledger alone, and every update of the ledger keeps it. -/
structure Booked (P : State → Prop) : Prop where
  same : ∀ {s u : State}, P s → u.ledger = s.ledger → P u
  startUp : ∀ {s}, P s → P s.startUp
  placeHeld : ∀ {s}, P s → P s.placeHeld
  buildNotice : ∀ {s}, P s → P s.buildNotice
  startDn : ∀ {s}, P s → P s.startDn
  placeLimit : ∀ {s} n e, s.dn.room = true → P s → P (s.placeLimit n e)
  placeCommands : ∀ {s} n, s.dn.room = true → P s → P (s.placeCommands n)
  queueNotice : ∀ {s : State} n, s.notices.length < 16 → P s → P { s with notices := s.notices ++ [n] }
  bump : ∀ {s} c, P s → P (s.bump c)
  handRaw : ∀ {s} a v, P s → P (s.handRaw a v)
  keepCmds : ∀ {s : State} p, P s → P { s with cmds := s.cmds.filter p }
  idleUp : ∀ {s : State}, P s → P { s with up := { s.up with tx := none } }
  idleDn : ∀ {s : State}, P s → P { s with dn := { s.dn with tx := none } }
  joinUp : ∀ {s : State} f, s.up.fwd.length < 8 → P s → P { s with up := { s.up with fwd := s.up.fwd ++ [f] } }
  joinDn : ∀ {s : State} f, s.dn.fwd.length < 8 → P s → P { s with dn := { s.dn with fwd := s.dn.fwd ++ [f] } }
  setReq : ∀ {s : State} r, (∀ x, r = some x → x.count ≤ 8 ∨ ∃ y, s.req = some y ∧ x.count ≤ y.count) → P s →
    P { s with req := r }
  clearCounters : ∀ {s : State}, P s → P { s with counters := Vector.replicate 21 0 }
  wipe : ∀ {s : State}, P s → P s.wipe
  resetFull : ∀ {s : State}, P s → P s.resetFull

@[simp] theorem ledger_putBoat (s : State) (b : Nat) (x : Option Boat) : (s.putBoat b x).ledger = s.ledger := by
  unfold State.putBoat
  split <;> rfl

@[simp] theorem ledger_putRel (s : State) (b : Nat) (x : Option Release) : (s.putRel b x).ledger = s.ledger := by
  unfold State.putRel
  split <;> rfl

@[simp] theorem ledger_modBoat (s : State) (b : Nat) (f : Boat → Boat) : (s.modBoat b f).ledger = s.ledger := by
  unfold State.modBoat
  split
  · rfl
  · exact ledger_putBoat s b _

namespace Booked

variable (h : Booked P) {s : State}
include h

/-- Boats, zones, berths, runs, mode control and the rest are no part of the ledger. -/
theorem toCalm : Calm P where
  startUp := h.startUp
  placeHeld := h.placeHeld
  buildNotice := h.buildNotice
  startDn := h.startDn
  placeLimit := h.placeLimit
  placeCommands := h.placeCommands
  queueNotice := h.queueNotice
  dropNotice hs := h.bump _ hs
  handRaw a v _ hs := h.handRaw a v hs
  handAny a v _ hs := h.handRaw a v hs
  modEv _ hs := h.same hs rfl
  putZs _ _ _ hs := h.same hs rfl
  putBerth _ _ _ hs := h.same hs rfl
  putNode _ _ _ hs := h.same hs rfl
  modBoat b f _ hs := h.same hs (ledger_modBoat _ b f)
  putRel b x hs := h.same hs (ledger_putRel _ b x)
  filterQueue _ hs := h.same hs rfl
  putSeq _ _ _ _ hs := h.same hs rfl
  driveLines hs := h.same hs rfl
  bump := h.bump
  useFree hs := h.same hs rfl
  putRun _ _ hs := h.same hs rfl
  setQueue _ _ hs := h.same hs rfl
  looseZs _ _ _ hs := h.same hs rfl
  looseBerth _ _ hs := h.same hs rfl
  looseSeq _ _ _ hs := h.same hs rfl
  loosePulse _ _ hs := h.same hs rfl
  tripBoat b f _ hs := h.same hs (ledger_modBoat _ b f)
  modMc _ hs := h.same hs rfl

theorem changeMode (m : Mode) (c : Cause) (hs : P s) : P (s.changeMode m c) :=
  h.toCalm.changeMode (fun ht => h.same ht rfl) m c hs

theorem modMc (f : ModeCtl → ModeCtl) (hs : P s) : P (s.modMc f) := h.same hs rfl

theorem checkPassed (hs : P s) : P s.checkPassed := by
  unfold State.checkPassed
  dsimp only
  split <;> exact h.changeMode _ _ (h.modMc _ hs)

theorem storeAuth (a : Nat) (x : Option AuthEntry) (hs : P s) : P (s.storeAuth a x) := by
  have h1 : P (s.modTab fun t => { t with auth := t.auth.setIfInBounds a x }) := h.same hs rfl
  have hput : ∀ v, P (((s.modTab fun t => { t with auth := t.auth.setIfInBounds a x }).removeEntry a).putAct a v) :=
    fun v => h.same (h.keepCmds (fun e => e.act != a) h1) rfl
  unfold State.storeAuth
  dsimp only
  split
  · split
    · exact h1
    · exact hput _
  · exact hput _
  · exact hput _

/-- A property of the ledger that every update of the ledger keeps is kept by every update of which the commands are made. -/
theorem toWhole : Whole P where
  toModal := h.toCalm.toModal
  at_ _ hs := h.same hs rfl
  setRoster _ _ hs := h.same hs rfl
  putInputs _ _ hs := h.same hs rfl
  keepCmds := h.keepCmds
  confirm _ _ hs := h.same hs rfl
  estop _ hs := h.modMc _ hs
  checkNext _ _ _ hs := h.modMc _ hs
  checkFailed _ _ _ hs := h.changeMode _ _ (h.modMc _ hs)
  checkPassed _ hs := h.checkPassed hs
  sentUp := h.idleUp
  sentDn _ hs := h.same (h.idleDn hs) rfl
  setResendDue _ hs := h.same hs rfl
  moveZones _ _ _ _ _ _ _ hs := h.same hs (ledger_modBoat _ _ _)
  setPending _ hs := h.same hs rfl
  addBoat b x _ _ _ _ _ _ hs := h.same hs (ledger_putBoat _ b (some x))
  dropBoat b _ _ hs := h.same hs (ledger_putBoat _ b none)
  reroute b _ hs := h.same hs (ledger_modBoat _ b _)
  adopt _ _ _ _ _ hs := h.same hs rfl
  stopWatches hs := h.same hs rfl
  changeMode m c _ _ hs := h.changeMode m c hs
  holdPending hs := h.modMc _ hs
  checkBegin _ hs := h.changeMode _ _ (h.modMc _ hs)
  modTab _ _ hs := h.same hs rfl
  storeAuth a x hs := h.storeAuth a x hs
  wipe := h.wipe
  resetFull := h.resetFull
  setReq := h.setReq
  setPtr _ hs := h.same hs rfl
  setHolder _ hs := h.same hs rfl
  setMask _ hs := h.same hs rfl
  setHeld _ hs := h.same hs rfl
  clearCounters := h.clearCounters
  joinUp := h.joinUp
  joinDn := h.joinDn

end Booked

/-! ### Queues -/

/-- The forward queue of a port holds at most 8 frames and its origin queue at most 16 (R168, R169). -/
def PortState.bounded (p : PortState) : Prop := p.fwd.length ≤ 8 ∧ p.origin.length ≤ 16

theorem PortState.bounded.start {p : PortState} (h : p.bounded) : p.start.bounded := by
  obtain ⟨hf, ho⟩ := h
  unfold PortState.start
  split
  · exact ⟨hf, ho⟩
  · split
    · exact ⟨hf, (List.length_erase_le).trans ho⟩
    · split
      · next f rest hr => rw [hr] at hf; exact ⟨(Nat.le_succ _).trans hf, ho⟩
      · split
        · next f rest hr => rw [hr] at ho; exact ⟨hf, (Nat.le_succ _).trans ho⟩
        · exact ⟨hf, ho⟩

/-- A frame joins an origin queue that has room. -/
theorem PortState.bounded.originate {p : PortState} (h : p.bounded) (hr : p.room = true) (f : QFrame) :
    ({ p with origin := p.origin ++ [f] } : PortState).bounded := by
  have hlt : p.origin.length < 16 := of_decide_eq_true hr
  refine ⟨h.1, ?_⟩
  simp only [List.length_append, List.length_singleton]
  exact hlt

theorem PortState.bounded.forward {p : PortState} (h : p.bounded) (hr : p.fwd.length < 8) (f : QFrame) :
    ({ p with fwd := p.fwd ++ [f] } : PortState).bounded := by
  refine ⟨?_, h.2⟩
  simp only [List.length_append, List.length_singleton]
  exact hr

theorem queuesBounded_iff {s : State} : s.queuesBounded ↔
    s.up.bounded ∧ s.dn.bounded ∧ s.notices.length ≤ 16 ∧ ∀ r, s.req = some r → r.count ≤ 8 := by
  unfold State.queuesBounded PortState.bounded
  tauto

theorem queuesBounded_booked : Booked State.queuesBounded where
  same {s u} hs hu := by
    have hup : u.up = s.up := congrArg Ledger.up hu
    have hdn : u.dn = s.dn := congrArg Ledger.dn hu
    have hn : u.notices = s.notices := congrArg Ledger.notices hu
    have hr : u.req = s.req := congrArg Ledger.req hu
    unfold State.queuesBounded
    rw [hup, hdn, hn, hr]
    exact hs
  startUp hs := by
    obtain ⟨hup, hrest⟩ := queuesBounded_iff.mp hs
    exact queuesBounded_iff.mpr ⟨hup.start, hrest⟩
  placeHeld hs := by
    obtain ⟨hup, hrest⟩ := queuesBounded_iff.mp hs
    unfold State.placeHeld
    split
    · exact hs
    · split
      · next hr => exact queuesBounded_iff.mpr ⟨hup.originate hr _, hrest⟩
      · exact hs
  buildNotice {s} hs := by
    obtain ⟨hup, hdn, hn, hreq⟩ := queuesBounded_iff.mp hs
    unfold State.buildNotice
    split
    · exact hs
    · next hc =>
      have hr : s.up.room = true := by
        by_contra hr
        exact hc (by simp [hr])
      exact queuesBounded_iff.mpr ⟨hup.originate hr _, hdn, (by rw [List.length_drop]; omega), hreq⟩
  startDn hs := by
    obtain ⟨hup, hdn, hrest⟩ := queuesBounded_iff.mp hs
    exact queuesBounded_iff.mpr ⟨hup, hdn.start, hrest⟩
  placeLimit _ _ hr hs := by
    obtain ⟨hup, hdn, hrest⟩ := queuesBounded_iff.mp hs
    exact queuesBounded_iff.mpr ⟨hup, hdn.originate hr _, hrest⟩
  placeCommands _ hr hs := by
    obtain ⟨hup, hdn, hrest⟩ := queuesBounded_iff.mp hs
    exact queuesBounded_iff.mpr ⟨hup, hdn.originate hr _, hrest⟩
  queueNotice n hl hs := by
    obtain ⟨hup, hdn, _, hreq⟩ := queuesBounded_iff.mp hs
    refine queuesBounded_iff.mpr ⟨hup, hdn, ?_, hreq⟩
    simp only [List.length_append, List.length_singleton]
    exact hl
  bump _ hs := hs
  handRaw {s} a v hs := by
    unfold State.handRaw
    split
    · exact hs
    · dsimp only
      split <;> exact hs
  keepCmds _ hs := hs
  idleUp hs := hs
  idleDn hs := hs
  joinUp f hl hs := by
    obtain ⟨hup, hrest⟩ := queuesBounded_iff.mp hs
    exact queuesBounded_iff.mpr ⟨hup.forward hl f, hrest⟩
  joinDn f hl hs := by
    obtain ⟨hup, hdn, hrest⟩ := queuesBounded_iff.mp hs
    exact queuesBounded_iff.mpr ⟨hup, hdn.forward hl f, hrest⟩
  setReq r hr hs := by
    obtain ⟨hup, hdn, hn, hreq⟩ := queuesBounded_iff.mp hs
    refine queuesBounded_iff.mpr ⟨hup, hdn, hn, fun x hx => ?_⟩
    rcases hr x hx with h8 | ⟨y, hy, hle⟩
    · exact h8
    · exact hle.trans (hreq y hy)
  clearCounters hs := hs
  wipe hs := by
    obtain ⟨hup, hdn, _, hreq⟩ := queuesBounded_iff.mp hs
    exact queuesBounded_iff.mpr ⟨hup, hdn, Nat.zero_le _, hreq⟩
  resetFull hs := by
    obtain ⟨hup, hdn, _, hreq⟩ := queuesBounded_iff.mp hs
    exact queuesBounded_iff.mpr ⟨hup, hdn, Nat.zero_le _, hreq⟩

/-! ### Tags and counters -/

theorem counter_of_zero {s : State} (h : s.counters = Vector.replicate 21 0) (c : Counter) : s.counter c = 0 := by
  unfold State.counter
  rw [h]
  exact getD_replicate_self _ _ _

theorem numbersBounded_booked : Booked State.numbersBounded where
  same {s u} hs hu := by
    have hc : u.counters = s.counters := congrArg Ledger.counters hu
    have ht : u.tag = s.tag := congrArg Ledger.tag hu
    unfold State.numbersBounded State.counter
    rw [hc, ht]
    exact hs
  startUp hs := hs
  placeHeld hs := by
    unfold State.placeHeld
    split
    · exact hs
    · split <;> exact hs
  buildNotice hs := by
    unfold State.buildNotice
    split <;> exact hs
  startDn hs := hs
  placeLimit _ _ _ hs := hs
  placeCommands _ _ hs := hs
  queueNotice _ _ hs := hs
  bump c hs := by
    refine ⟨hs.1, fun d => ?_⟩
    rw [counter_bump]
    split
    · exact Nat.min_le_right _ _
    · exact hs.2 d
  handRaw {s} a v hs := by
    unfold State.handRaw
    split
    · exact hs
    · dsimp only
      split
      · exact ⟨Nat.mod_lt _ (by decide), hs.2⟩
      · exact hs
  keepCmds _ hs := hs
  idleUp hs := hs
  idleDn hs := hs
  joinUp _ _ hs := hs
  joinDn _ _ hs := hs
  setReq _ _ hs := hs
  clearCounters hs := ⟨hs.1, fun c => by rw [counter_of_zero rfl]; exact Nat.zero_le _⟩
  wipe hs := hs
  resetFull _ := ⟨Nat.zero_lt_succ _, fun c => by rw [counter_of_zero rfl]; exact Nat.zero_le _⟩

/-! ### The command list -/

/-- Only a defined actuator takes a command, and its authority index is below 64 (R124, R128). -/
theorem handTaken_range {s : State} {a : Nat} {v : ActValue} (h : s.handTaken a v = true) : a < 64 := by
  obtain ⟨e, he, _⟩ := (handTaken_iff s a v).mp h
  exact authE_range he

theorem State.listUnique.filter {s : State} (hs : s.listUnique) (p : CmdEntry → Bool) :
    ({ s with cmds := s.cmds.filter p } : State).listUnique :=
  ⟨hs.1.sublist (List.filter_sublist.map _), fun e he => hs.2 e (List.mem_of_mem_filter he)⟩

theorem State.listUnique.placeCommands {s : State} (hs : s.listUnique) (n : Nat) : (s.placeCommands n).listUnique := by
  have hact : ∀ e : CmdEntry, (if e.sent.isNone && s.actNode e.act == some n then { e with sent := some s.now } else e).act = e.act :=
    fun e => by split <;> rfl
  refine ⟨?_, fun e he => ?_⟩
  · show ((s.cmds.map _).map CmdEntry.act).Nodup
    rw [List.map_map]
    exact (List.map_congr_left fun e _ => hact e) ▸ hs.1
  · obtain ⟨d, hd, rfl⟩ := List.mem_map.mp he
    rw [hact]
    exact hs.2 d hd

theorem State.listUnique.handRaw {s : State} (hs : s.listUnique) (a : Nat) (v : ActValue) : (s.handRaw a v).listUnique := by
  have hkeep := hs.filter fun e => e.act != a
  unfold State.handRaw
  split
  · exact hs
  · next ht =>
    dsimp only
    split
    · refine ⟨?_, fun e he => ?_⟩
      · show (((s.cmds.filter fun e => e.act != a) ++ [(⟨a, v, s.tag, none⟩ : CmdEntry)]).map CmdEntry.act).Nodup
        rw [List.map_append, List.nodup_append]
        refine ⟨hkeep.1, List.nodup_singleton _, fun x hx y hy => ?_⟩
        obtain ⟨e, he, rfl⟩ := List.mem_map.mp hx
        have hne : e.act ≠ a := by simpa using (List.mem_filter.mp he).2
        have hya : y = a := by simpa using hy
        rw [hya]
        exact hne
      · rcases List.mem_append.mp he with he | he
        · exact hkeep.2 e he
        · rw [List.mem_singleton.mp he]
          exact handTaken_range (by simpa using ht)
    · exact hkeep

theorem listUnique_booked : Booked State.listUnique where
  same {s u} hs hu := by
    have hc : u.cmds = s.cmds := congrArg Ledger.cmds hu
    unfold State.listUnique
    rw [hc]
    exact hs
  startUp hs := hs
  placeHeld hs := by
    unfold State.placeHeld
    split
    · exact hs
    · split <;> exact hs
  buildNotice hs := by
    unfold State.buildNotice
    split <;> exact hs
  startDn hs := hs
  placeLimit _ _ _ hs := hs
  placeCommands n _ hs := hs.placeCommands n
  queueNotice _ _ hs := hs
  bump _ hs := hs
  handRaw a v hs := hs.handRaw a v
  keepCmds p hs := hs.filter p
  idleUp hs := hs
  idleDn hs := hs
  joinUp _ _ hs := hs
  joinDn _ _ hs := hs
  setReq _ _ hs := hs
  clearCounters hs := hs
  wipe _ := ⟨List.nodup_nil, fun _ h => nomatch h⟩
  resetFull _ := ⟨List.nodup_nil, fun _ h => nomatch h⟩

theorem step_keeps_queuesBounded {s u : State} (hs : s.queuesBounded) (hu : step s = .next u) : u.queuesBounded :=
  queuesBounded_booked.toWhole.step (fun _ _ _ _ => reset_queuesBounded) hu hs

theorem step_keeps_numbersBounded {s u : State} (hs : s.numbersBounded) (hu : step s = .next u) : u.numbersBounded :=
  numbersBounded_booked.toWhole.step (fun _ _ _ _ => reset_numbersBounded) hu hs

theorem step_keeps_listUnique {s u : State} (hs : s.listUnique) (hu : step s = .next u) : u.listUnique :=
  listUnique_booked.toWhole.step (fun _ _ _ _ => reset_listUnique) hu hs

end Sys2Proof.Machine
end

section
/-! Boats, their entries in the reservation queue and their releases in agreement, through the operations of path reservation
(R20, R43 to R45, R51 to R55). -/

namespace Sys2Proof.Machine

/-- One boat's record, queue entries and release agree: it has an entry exactly while it is REQUESTED, no path while WAITING or
REQUESTED, and a release that waits on a switch throw only as a GRANTED boat's own (R20, R43, R51). -/
def State.booking (s : State) (b : Nat) : Prop :=
  (s.queued b = true ↔ ∃ x, s.boatR b = some x ∧ x.state = .requested) ∧
  (∀ x, s.boatR b = some x → x.state = .waiting ∨ x.state = .requested → x.path = []) ∧
  ∀ r a, s.release b = some r → r.stage = .throw a → r.entry.boat = b ∧ ∃ x, s.boatR b = some x ∧ x.state = .granted

/-- Every boat's bookings agree, and no boat has two entries in the reservation queue. -/
def State.Bookings (s : State) : Prop := (s.queue.map QEntry.boat).Nodup ∧ ∀ b, s.booking b

theorem queued_iff {s : State} {b : Nat} : s.queued b = true ↔ ∃ e ∈ s.queue, e.boat = b := by
  unfold State.queued
  simp

/-- Entries of different boats, all of them in the register, are at most 24 (R43). -/
theorem State.Bookings.length_le {s : State} (hs : s.Bookings) : s.queue.length ≤ 24 := by
  have hsub : s.queue.map QEntry.boat ⊆ List.range' 1 24 := fun b hb => by
    obtain ⟨e, he, rfl⟩ := List.mem_map.mp hb
    obtain ⟨x, hx, _⟩ := ((hs.2 e.boat).1).mp (queued_iff.mpr ⟨e, he, rfl⟩)
    have := boatR_range s hx
    rw [List.mem_range'_1]
    omega
  have hlen := (hs.1.subperm hsub).length_le
  rwa [List.length_map, List.length_range'] at hlen

theorem reservationsSound_iff {s : State} : s.reservationsSound ↔ s.Bookings := by
  constructor
  · rintro ⟨_, hnd, hentry, hboat, hpath, hthrow⟩
    refine ⟨hnd, fun b => ⟨⟨fun h => ?_, fun ⟨x, hx, hst⟩ => queued_iff.mpr (hboat b x hx hst)⟩, hpath b, hthrow b⟩⟩
    obtain ⟨e, he, rfl⟩ := queued_iff.mp h
    exact hentry e he
  · intro hs
    exact ⟨hs.length_le, hs.1, fun e he => ((hs.2 e.boat).1).mp (queued_iff.mpr ⟨e, he, rfl⟩),
      fun b x hx hst => queued_iff.mp (((hs.2 b).1).mpr ⟨x, hx, hst⟩), fun b => (hs.2 b).2.1, fun b => (hs.2 b).2.2⟩

section
variable {s u : State}

/-- Only the queue, the boat register and the releases count. -/
theorem State.Bookings.same (hs : s.Bookings) (hq : u.queue = s.queue) (hb : u.boats = s.boats) (hr : u.rel = s.rel) :
    u.Bookings := by
  unfold State.Bookings State.booking State.queued State.boatR State.release at *
  rw [hq, hb, hr]
  exact hs

/-- What changes for one boat alone has to agree for that boat alone. -/
theorem State.Bookings.change (hs : s.Bookings) (c : Nat) (hnd : (u.queue.map QEntry.boat).Nodup)
    (hq : ∀ b, b ≠ c → u.queued b = s.queued b) (hb : ∀ b, b ≠ c → u.boatR b = s.boatR b)
    (hr : ∀ b, b ≠ c → u.release b = s.release b) (hc : u.booking c) : u.Bookings := by
  refine ⟨hnd, fun b => ?_⟩
  by_cases hbc : b = c
  · rw [hbc]
    exact hc
  · unfold State.booking
    rw [hq b hbc, hb b hbc, hr b hbc]
    exact hs.2 b

/-- A boat's queue entries and release stay as they are, and its record changes to one that still agrees. -/
theorem State.Bookings.changeBoat (hs : s.Bookings) (c : Nat) (hq : u.queue = s.queue) (hr : u.rel = s.rel)
    (hb : ∀ b, b ≠ c → u.boatR b = s.boatR b) (hc : u.booking c) : u.Bookings :=
  hs.change c (by rw [hq]; exact hs.1) (fun b _ => by unfold State.queued; rw [hq]) hb
    (fun b _ => by unfold State.release; rw [hr]) hc

/-! ### What one boat's record says of its entries and release -/

/-- A boat that is not REQUESTED has no entry. -/
theorem State.Bookings.not_queued (hs : s.Bookings) {b : Nat} (h : ∀ x, s.boatR b = some x → x.state ≠ .requested) :
    s.queued b = false := by
  rw [Bool.eq_false_iff]
  intro hq
  obtain ⟨x, hx, hst⟩ := ((hs.2 b).1).mp hq
  exact h x hx hst

/-- A release of a boat that is not GRANTED waits on no switch throw. -/
theorem State.Bookings.not_throwing (hs : s.Bookings) {b : Nat} (h : ∀ x, s.boatR b = some x → x.state ≠ .granted) {r : Release}
    (hr : s.release b = some r) (a : Nat) : r.stage ≠ .throw a := fun ha => by
  obtain ⟨_, x, hx, hst⟩ := (hs.2 b).2.2 r a hr ha
  exact h x hx hst

end

section
variable {s : State} (b : Nat)

/-- A boat WAITING or MOVING agrees without entry and without throw; WAITING it has no path. -/
theorem booking_free {x : Boat} (hx : s.boatR b = some x) (hst : x.state = .waiting ∧ x.path = [] ∨ x.state = .moving)
    (hq : s.queued b = false) (hr : ∀ r a, s.release b = some r → r.stage ≠ .throw a) : s.booking b := by
  refine ⟨⟨fun h => (by rw [hq] at h; cases h), fun ⟨y, hy, hyst⟩ => ?_⟩, fun y hy hyst => ?_, fun r a h ha => absurd ha (hr r a h)⟩
  · rw [hx] at hy
    cases hy
    rcases hst with ⟨h, _⟩ | h <;> rw [h] at hyst <;> cases hyst
  · rw [hx] at hy
    cases hy
    rcases hst with ⟨_, h⟩ | h
    · exact h
    · rcases hyst with hyst | hyst <;> rw [h] at hyst <;> cases hyst

/-- A REQUESTED boat agrees with an entry, no path and no throw. -/
theorem booking_requested {x : Boat} (hx : s.boatR b = some x) (hst : x.state = .requested) (hp : x.path = [])
    (hq : s.queued b = true) (hr : ∀ r a, s.release b = some r → r.stage ≠ .throw a) : s.booking b :=
  ⟨⟨fun _ => ⟨x, hx, hst⟩, fun _ => hq⟩, fun y hy _ => (by rw [hx] at hy; cases hy; exact hp), fun r a h ha => absurd ha (hr r a h)⟩

/-- A GRANTED boat agrees without entry, and with a throw for its own entry alone. -/
theorem booking_granted {x : Boat} (hx : s.boatR b = some x) (hst : x.state = .granted) (hq : s.queued b = false)
    (hr : ∀ r a, s.release b = some r → r.stage = .throw a → r.entry.boat = b) : s.booking b := by
  refine ⟨⟨fun h => (by rw [hq] at h; cases h), fun ⟨y, hy, hyst⟩ => ?_⟩, fun y hy hyst => ?_, fun r a h ha => ⟨hr r a h ha, x, hx, hst⟩⟩
  · rw [hx] at hy
    cases hy
    rw [hst] at hyst
    cases hyst
  · rw [hx] at hy
    cases hy
    rcases hyst with hyst | hyst <;> rw [hst] at hyst <;> cases hyst

/-- A boat that is not in the register agrees without entry and without throw. -/
theorem booking_absent (hx : s.boatR b = none) (hq : s.queued b = false) (hr : ∀ r a, s.release b = some r → r.stage ≠ .throw a) :
    s.booking b :=
  ⟨⟨fun h => (by rw [hq] at h; cases h), fun ⟨y, hy, _⟩ => (by rw [hx] at hy; cases hy)⟩,
    fun y hy _ => (by rw [hx] at hy; cases hy), fun r a h ha => absurd ha (hr r a h)⟩

end

/-! ### Small updates -/

theorem queued_of_queue {s u : State} (h : u.queue = s.queue) (b : Nat) : u.queued b = s.queued b := by
  unfold State.queued
  rw [h]

theorem release_of_rel {s u : State} (h : u.rel = s.rel) (b : Nat) : u.release b = s.release b := by
  unfold State.release
  rw [h]

theorem boatR_of_boats {s u : State} (h : u.boats = s.boats) (b : Nat) : u.boatR b = s.boatR b := by
  unfold State.boatR
  rw [h]

/-- The queue, the boat register and the releases. -/
structure Book where
  queue : List QEntry
  boats : Vector (Option Boat) 24
  rel : Vector (Option Release) 24

def State.book (s : State) : Book := ⟨s.queue, s.boats, s.rel⟩

theorem State.Bookings.ofBook {s u : State} (hs : s.Bookings) (h : u.book = s.book) : u.Bookings :=
  hs.same (congrArg Book.queue h) (congrArg Book.boats h) (congrArg Book.rel h)

theorem book_placeHeld (s : State) : s.placeHeld.book = s.book := by
  unfold State.placeHeld
  split
  · rfl
  · split <;> rfl

theorem book_buildNotice (s : State) : s.buildNotice.book = s.book := by
  unfold State.buildNotice
  split <;> rfl

theorem book_handRaw (s : State) (a : Nat) (v : ActValue) : (s.handRaw a v).book = s.book := by
  unfold State.handRaw
  split
  · rfl
  · dsimp only
    split <;> rfl

/-- Small updates touch no queue entry, no boat and no release. -/
theorem base_of_book {P : State → Prop} (same : ∀ {s u : State}, P s → u.book = s.book → P u) : Base P where
  startUp hs := same hs rfl
  placeHeld {s} hs := same hs (book_placeHeld s)
  buildNotice {s} hs := same hs (book_buildNotice s)
  startDn hs := same hs rfl
  placeLimit _ _ _ hs := same hs rfl
  placeCommands _ _ hs := same hs rfl
  queueNotice _ _ hs := same hs rfl
  dropNotice hs := same hs rfl
  handRaw {s} a v _ hs := same hs (book_handRaw s a v)
  modEv _ hs := same hs rfl
  putZs _ _ _ hs := same hs rfl
  putBerth _ _ _ hs := same hs rfl
  putNode _ _ _ hs := same hs rfl

theorem base_book (v : Book) : Base fun s => s.book = v := base_of_book fun hs h => h.trans hs

theorem base_bookings : Base State.Bookings := base_of_book fun hs h => hs.ofBook h

@[simp] theorem book_notice (s : State) (n : Notice) : (s.notice n).book = s.book := (base_book s.book).notice n rfl
@[simp] theorem book_pumpDn (s : State) : s.pumpDn.book = s.book := (base_book s.book).pumpDn rfl
@[simp] theorem book_hand (s : State) (a : Nat) (v : ActValue) : (s.hand a v).book = s.book := by
  unfold State.hand
  rw [book_pumpDn, book_handRaw]

theorem book_handAll (s : State) (l : List (Nat × ActValue)) : (s.handAll l).book = s.book := by
  unfold State.handAll
  rw [book_pumpDn]
  exact foldl_view State.book (fun t p => book_handRaw t p.1 p.2) l s

@[simp] theorem book_handBooster (s : State) (k : Nat) (v : ActValue) : (s.handBooster k v).book = s.book := by
  unfold State.handBooster
  split
  · rfl
  · exact book_hand _ _ _

@[simp] theorem book_toBerthReturned (s : State) (z : Nat) : (s.toBerth z State.berthReturned).book = s.book :=
  Base.toBerth (P := fun t => State.book t = s.book) z (base_book s.book).berthReturned rfl

theorem book_unreserveAll (s : State) (l : List Nat) : (l.foldl (fun s z => s.unreserve z) s).book = s.book :=
  foldl_view (f := fun s z => s.unreserve z) State.book (fun _ _ => rfl) l s

section
variable {s : State}

/-- A change of a boat record that keeps state and path. -/
theorem State.Bookings.modBoat (hs : s.Bookings) (b : Nat) (f : Boat → Boat) (hf : ∀ x, (f x).state = x.state ∧ (f x).path = x.path) :
    (s.modBoat b f).Bookings := by
  refine hs.changeBoat b (by simp) (by simp) (fun c hc => by rw [boatR_modBoat, if_neg hc]) ?_
  obtain ⟨hreq, hpath, hthrow⟩ := hs.2 b
  have hq : (s.modBoat b f).queued b = s.queued b := queued_of_queue (by simp) b
  have hr : (s.modBoat b f).release b = s.release b := release_of_rel (by simp) b
  unfold State.booking
  rw [hq, hr, boatR_modBoat, if_pos rfl]
  cases hx : s.boatR b with
  | none =>
    simp only [hx, Option.map_none] at hreq hpath hthrow ⊢
    exact ⟨hreq, hpath, hthrow⟩
  | some x =>
    have hst := (hf x).1
    have hp := (hf x).2
    simp only [hx, Option.some.injEq, exists_eq_left', forall_eq', Option.map_some] at hreq hpath hthrow ⊢
    rw [hst, hp]
    exact ⟨hreq, hpath, hthrow⟩

/-- A release may end, or stand at a stage other than a throw. -/
theorem State.Bookings.putRel (hs : s.Bookings) (b : Nat) (x : Option Release)
    (hx : ∀ r a, x = some r → r.stage = .throw a → r.entry.boat = b ∧ ∃ y, s.boatR b = some y ∧ y.state = .granted) :
    (s.putRel b x).Bookings := by
  have hb : ∀ c, (s.putRel b x).boatR c = s.boatR c := boatR_of_boats (by simp)
  have hq : ∀ c, (s.putRel b x).queued c = s.queued c := queued_of_queue (by simp)
  refine hs.change b (by simpa using hs.1) (fun c _ => hq c) (fun c _ => hb c) (fun c hc => ?_) ?_
  · rw [release_putRel, if_neg fun h => hc h.1]
  · obtain ⟨hreq, hpath, hthrow⟩ := hs.2 b
    unfold State.booking
    rw [hq, hb, release_putRel]
    refine ⟨hreq, hpath, fun r a hr => ?_⟩
    split at hr
    · exact hx r a hr
    · exact hthrow r a hr

/-! ### Requests -/

theorem boatR_setBoatState (s : State) (b c : Nat) (st : BoatState) :
    (s.setBoatState b st).boatR c = if c = b then (s.boatR b).map (fun x => { x with state := st }) else s.boatR c :=
  boatR_modBoat s b c _

@[simp] theorem queue_setBoatState (s : State) (b : Nat) (st : BoatState) : (s.setBoatState b st).queue = s.queue := by
  unfold State.setBoatState
  simp

@[simp] theorem rel_setBoatState (s : State) (b : Nat) (st : BoatState) : (s.setBoatState b st).rel = s.rel := by
  unfold State.setBoatState
  simp

/-- A WAITING boat becomes REQUESTED with an entry of its own at the tail of the queue (R43). -/
theorem State.Bookings.enqueue (hs : s.Bookings) {b : Nat} {x : Boat} (hx : s.boatR b = some x) (hst : x.state = .waiting)
    (o : Nat) (p : List Nat) : (s.enqueue b o p).Bookings := by
  have hfree : s.queued b = false := hs.not_queued fun y hy => by rw [hx] at hy; cases hy; rw [hst]; decide
  have hqueue : (s.enqueue b o p).queue = s.queue ++ [⟨b, o, p, s.reqSeq⟩] := queue_setBoatState _ _ _
  have hboat : ∀ c, (s.enqueue b o p).boatR c = if c = b then (s.boatR b).map (fun x => { x with state := .requested }) else s.boatR c :=
    fun c => boatR_setBoatState _ b c .requested
  have hrel : ∀ c, (s.enqueue b o p).release c = s.release c := release_of_rel (rel_setBoatState _ _ _)
  have hq : ∀ c, (s.enqueue b o p).queued c = (s.queued c || b == c) := fun c => by
    unfold State.queued
    rw [hqueue]
    simp
  refine hs.change b ?_ (fun c hc => ?_) (fun c hc => ?_) (fun c _ => hrel c) ?_
  · rw [hqueue, List.map_append, List.nodup_append]
    refine ⟨hs.1, List.nodup_singleton _, fun c hc d hd => ?_⟩
    obtain ⟨e, he, rfl⟩ := List.mem_map.mp hc
    rw [show d = b by simpa using hd]
    exact fun h => by rw [queued_iff.mpr ⟨e, he, h⟩] at hfree; cases hfree
  · rw [hq]
    simp [Ne.symm hc]
  · rw [hboat, if_neg hc]
  · refine booking_requested b (x := { x with state := .requested }) (by rw [hboat, if_pos rfl, hx]; rfl) rfl
      ((hs.2 b).2.1 x hx (.inl hst)) (by rw [hq]; simp) fun r a hr => ?_
    rw [hrel] at hr
    exact hs.not_throwing (fun y hy => by rw [hx] at hy; cases hy; rw [hst]; decide) hr a

/-- Entries of the queue replaced. -/
def State.withQueue (s : State) (q : List QEntry) : State := { s with queue := q }

@[simp] theorem queue_withQueue (s : State) (q : List QEntry) : (s.withQueue q).queue = q := rfl
@[simp] theorem rel_withQueue (s : State) (q : List QEntry) : (s.withQueue q).rel = s.rel := rfl
@[simp] theorem boats_withQueue (s : State) (q : List QEntry) : (s.withQueue q).boats = s.boats := rfl

theorem State.Bookings.notice (hs : s.Bookings) (n : Notice) : (s.notice n).Bookings := hs.ofBook (book_notice s n)
theorem State.Bookings.hand (hs : s.Bookings) (a : Nat) (v : ActValue) : (s.hand a v).Bookings := hs.ofBook (book_hand s a v)

theorem State.Bookings.request (hs : s.Bookings) (b : Nat) : (s.request b).1.Bookings := by
  unfold State.request
  split
  · exact hs
  · next x hx =>
    split
    · exact hs
    · split
      · exact hs
      · next hst =>
        split
        · exact hs
        · split
          · exact hs.notice _
          · exact hs.enqueue hx (by simpa using hst) _ _

/-- The queue without a boat's entry. -/
theorem queued_filter (s : State) (b c : Nat) :
    ({ s with queue := s.queue.filter fun e => e.boat != b } : State).queued c = (s.queued c && c != b) := by
  rw [Bool.eq_iff_iff, queued_iff, Bool.and_eq_true, queued_iff]
  simp only [List.mem_filter, bne_iff_ne]
  constructor
  · rintro ⟨e, ⟨he, hne⟩, rfl⟩
    exact ⟨⟨e, he, rfl⟩, hne⟩
  · rintro ⟨⟨e, he, rfl⟩, hne⟩
    exact ⟨e, ⟨he, hne⟩, rfl⟩

theorem State.Bookings.nodup_filter (hs : s.Bookings) (p : QEntry → Bool) : ((s.queue.filter p).map QEntry.boat).Nodup :=
  hs.1.sublist (List.filter_sublist.map _)

/-- A REQUESTED boat loses its entry and becomes WAITING (R44). -/
theorem State.Bookings.withdraw (hs : s.Bookings) (b : Nat) : (s.withdraw b).Bookings := by
  unfold State.withdraw
  split
  · next hq =>
    obtain ⟨x, hx, hst⟩ := ((hs.2 b).1).mp hq
    have hboat : ∀ c, (({ s with queue := s.queue.filter fun e => e.boat != b } : State).setBoatState b .waiting).boatR c =
      if c = b then (s.boatR b).map (fun x => { x with state := .waiting }) else s.boatR c := fun c => boatR_setBoatState _ b c .waiting
    have hqueue : ∀ c, (({ s with queue := s.queue.filter fun e => e.boat != b } : State).setBoatState b .waiting).queued c =
      (s.queued c && c != b) := fun c => (queued_of_queue (queue_setBoatState _ _ _) c).trans (queued_filter s b c)
    have hrel : ∀ c, (({ s with queue := s.queue.filter fun e => e.boat != b } : State).setBoatState b .waiting).release c =
      s.release c := release_of_rel (rel_setBoatState _ _ _)
    refine hs.change b ?_ (fun c hc => ?_) (fun c hc => ?_) (fun c _ => hrel c) ?_
    · rw [queue_setBoatState]
      exact hs.nodup_filter _
    · rw [hqueue]
      simp [hc]
    · rw [hboat, if_neg hc]
    · refine booking_free b (x := { x with state := .waiting }) (by rw [hboat, if_pos rfl, hx]; rfl)
        (.inl ⟨rfl, (hs.2 b).2.1 x hx (.inr hst)⟩) (by rw [hqueue]; simp) fun r a hr => ?_
      rw [hrel] at hr
      exact hs.not_throwing (fun y hy => by rw [hx] at hy; cases hy; rw [hst]; decide) hr a
  · exact hs

/-! ### Returns -/

/-- What a return makes of the book: the GRANTED boat has neither path nor release (R55). -/
theorem returnReservations_granted {b : Nat} {x : Boat} (hx : s.boatR b = some x) (hst : x.state = .granted) :
    (s.returnReservations b).queue = s.queue ∧
    (∀ c, (s.returnReservations b).release c = if c = b then none else s.release c) ∧
    ∀ c, (s.returnReservations b).boatR c = if c = b then some { x with path := [] } else s.boatR c := by
  have hbook := book_unreserveAll s x.path
  have hr := boatR_range s hx
  have hret : s.returnReservations b = ((((x.path.foldl (fun s z => s.unreserve z) s).putRel b none).modBoat b fun r =>
      { r with path := [] }).stopWatch x.zone) := by
    unfold State.returnReservations
    rw [hx]
    dsimp only
    rw [if_neg (by simp [hst])]
  rw [hret]
  refine ⟨?_, fun c => ?_, fun c => ?_⟩
  · show (((x.path.foldl (fun s z => s.unreserve z) s).putRel b none).modBoat b fun r => { r with path := [] }).queue = _
    rw [modBoat_queue, putRel_queue]
    exact congrArg Book.queue hbook
  · show (((x.path.foldl (fun s z => s.unreserve z) s).putRel b none).modBoat b fun r => { r with path := [] }).release c = _
    rw [release_of_rel (modBoat_rel _ _ _), release_putRel, release_of_rel (congrArg Book.rel hbook)]
    simp [hr]
  · show (((x.path.foldl (fun s z => s.unreserve z) s).putRel b none).modBoat b fun r => { r with path := [] }).boatR c = _
    rw [boatR_modBoat, boatR_of_boats (putRel_boats _ _ _), boatR_of_boats (putRel_boats _ _ _),
      boatR_of_boats (congrArg Book.boats hbook), boatR_of_boats (congrArg Book.boats hbook), hx]
    rfl

theorem State.Bookings.granted_free (hs : s.Bookings) {b : Nat} {x : Boat} (hx : s.boatR b = some x) (hst : x.state = .granted) :
    s.queued b = false := hs.not_queued fun y hy => by rw [hx] at hy; cases hy; rw [hst]; decide

/-- A boat that is not GRANTED has nothing to return (R55). -/
theorem returnReservations_idle {b : Nat} (h : ∀ x, s.boatR b = some x → x.state ≠ .granted) : s.returnReservations b = s := by
  unfold State.returnReservations
  split
  · rfl
  · next x hx => exact if_pos (h x hx)

/-- Returned reservations leave a boat without path and without release; its state is the caller's to set (R55). -/
theorem State.Bookings.returnReservations (hs : s.Bookings) (b : Nat) : (s.returnReservations b).Bookings := by
  by_cases hg : ∃ x, s.boatR b = some x ∧ x.state = .granted
  · obtain ⟨x, hx, hst⟩ := hg
    obtain ⟨hq, hr, hb⟩ := returnReservations_granted hx hst
    refine hs.change b (by rw [hq]; exact hs.1) (fun c _ => queued_of_queue hq c) (fun c hc => by rw [hb, if_neg hc])
      (fun c hc => by rw [hr, if_neg hc]) (booking_granted b (x := { x with path := [] }) (by rw [hb, if_pos rfl]) hst ?_ fun r a h => ?_)
    · rw [queued_of_queue hq]
      exact hs.granted_free hx hst
    · rw [hr, if_pos rfl] at h
      cases h
  · rw [returnReservations_idle fun x hx hst => hg ⟨x, hx, hst⟩]
    exact hs

/-- A GRANTED boat whose reservations are returned becomes WAITING (R55, R56, R87). -/
theorem State.Bookings.release_waiting (hs : s.Bookings) {b : Nat} {x : Boat} (hx : s.boatR b = some x) (hst : x.state = .granted) :
    ((s.returnReservations b).setBoatState b .waiting).Bookings := by
  obtain ⟨hq, hr, hb⟩ := returnReservations_granted hx hst
  refine (hs.returnReservations b).changeBoat b (by simp) (by simp) (fun c hc => by rw [boatR_setBoatState, if_neg hc])
    (booking_free b (x := { x with state := .waiting, path := [] }) ?_ (.inl ⟨rfl, rfl⟩) ?_ fun r a h => ?_)
  · rw [boatR_setBoatState, if_pos rfl, hb, if_pos rfl]
    rfl
  · rw [queued_of_queue (queue_setBoatState _ _ _), queued_of_queue hq]
    exact hs.granted_free hx hst
  · rw [release_of_rel (rel_setBoatState _ _ _), hr, if_pos rfl] at h
    cases h

/-! ### Undone grants -/

/-- The entry of a boat that is neither queued nor has a path, a release or a request goes back into the queue (R43, R53). -/
theorem State.Bookings.restoreEntry (hs : s.Bookings) {e : QEntry} {x : Boat} (hx : s.boatR e.boat = some x) (hp : x.path = [])
    (hq : s.queued e.boat = false) (hr : s.release e.boat = none) : (s.restoreEntry e).Bookings := by
  have hqueue : (s.restoreEntry e).queue =
      (s.queue.filter fun y => y.order < e.order) ++ e :: (s.queue.filter fun y => !(y.order < e.order)) := queue_setBoatState _ _ _
  have hperm : (s.restoreEntry e).queue.Perm (e :: s.queue) := by
    rw [hqueue]
    refine List.perm_middle.trans (List.Perm.cons e ?_)
    exact List.filter_append_perm (fun y : QEntry => decide (y.order < e.order)) s.queue
  have hboat : ∀ c, (s.restoreEntry e).boatR c =
      if c = e.boat then (s.boatR e.boat).map (fun x => { x with state := .requested }) else s.boatR c :=
    fun c => boatR_setBoatState _ e.boat c .requested
  have hrel : ∀ c, (s.restoreEntry e).release c = s.release c := release_of_rel (rel_setBoatState _ _ _)
  have hqd : ∀ c, (s.restoreEntry e).queued c = (e.boat == c || s.queued c) := fun c => by
    unfold State.queued
    rw [hperm.any_eq]
    rfl
  refine hs.change e.boat ?_ (fun c hc => ?_) (fun c hc => ?_) (fun c _ => hrel c) ?_
  · rw [(hperm.map QEntry.boat).nodup_iff, List.map_cons, List.nodup_cons]
    refine ⟨fun h => ?_, hs.1⟩
    obtain ⟨y, hy, hye⟩ := List.mem_map.mp h
    rw [queued_iff.mpr ⟨y, hy, hye⟩] at hq
    cases hq
  · rw [hqd]
    simp [Ne.symm hc]
  · rw [hboat, if_neg hc]
  · refine booking_requested e.boat (x := { x with state := .requested }) (by rw [hboat, if_pos rfl, hx]; rfl) rfl hp
      (by rw [hqd]; simp) fun r a h => ?_
    rw [hrel, hr] at h
    cases h

/-- A grant at the throw stage is undone (R52, R53). -/
theorem State.Bookings.undoGrant (hs : s.Bookings) {b : Nat} (h : ∀ r, s.release b = some r → ∃ a, r.stage = .throw a) :
    (s.undoGrant b).Bookings := by
  unfold State.undoGrant
  split
  · exact hs
  · next r hr =>
    obtain ⟨a, ha⟩ := h r hr
    obtain ⟨hb, x, hx, hst⟩ := (hs.2 b).2.2 r a hr ha
    obtain ⟨hq, hrel, hboat⟩ := returnReservations_granted hx hst
    subst hb
    refine (hs.returnReservations _).restoreEntry (x := { x with path := [] }) (by rw [hboat, if_pos rfl]) rfl ?_ (by rw [hrel, if_pos rfl])
    rw [queued_of_queue hq]
    exact hs.granted_free hx hst

end

end Sys2Proof.Machine
end

section
/-! Boats, entries and releases in agreement through aborts, grants, the end of an event and the changes of mode (R46 to R57, R87,
R94, R142, R143). -/

namespace Sys2Proof.Machine

/-! ### What leaves queue, boats and releases alone -/

theorem book_toBerth {s : State} (z : Nat) {f : State → Nat → State} (hf : ∀ (t : State) b, (f t b).book = t.book) :
    (s.toBerth z f).book = s.book :=
  Base.toBerth (P := fun t => State.book t = s.book) z (fun b ht => (hf _ b).trans ht) rfl

@[simp] theorem book_setBerth (s : State) (b : Nat) (f : BerthStatus → BerthStatus) : (s.setBerth b f).book = s.book := rfl

@[simp] theorem book_trySecure (s : State) (b : Nat) : (s.trySecure b).book = s.book := (base_book s.book).trySecure b rfl

@[simp] theorem book_berthDerive (s : State) (b : Nat) : (s.berthDerive b).book = s.book := by
  unfold State.berthDerive
  split <;> rfl

@[simp] theorem book_berthArrive (s : State) (b : Nat) : (s.berthArrive b).book = s.book := by
  unfold State.berthArrive
  split
  · rfl
  · dsimp only
    split
    · exact book_trySecure _ b
    · rfl

@[simp] theorem book_berthCleared (s : State) (b : Nat) : (s.berthCleared b).book = s.book := by
  unfold State.berthCleared
  split
  · exact book_berthDerive s b
  · rfl

@[simp] theorem book_raiseFault (s : State) (z : Nat) (f : ZFault) : (s.raiseFault z f).book = s.book := by
  unfold State.raiseFault
  split <;> rfl

@[simp] theorem book_startWatch (s : State) (z : Nat) : (s.startWatch z).book = s.book := by
  unfold State.startWatch
  split <;> rfl

theorem book_reserve (s : State) (b : Nat) (p : List Nat) : (s.reserve b p).book = s.book :=
  foldl_view (f := fun s z => s.modZs z fun q => { q with reserved := some b }) State.book (fun _ _ => rfl) p s

@[simp] theorem book_finSettled (s : State) (a : Nat) : (s.finSettled a).book = s.book :=
  Quiet.finSettled (P := fun t => State.book t = s.book) (fun _ _ ht => ht) a rfl

theorem book_setAwaiting (s : State) (r i : Nat) (x : Bool) : (s.setAwaiting r i x).book = s.book := rfl

@[simp] theorem book_handFin (s : State) (r i : Nat) (v : ActValue) : (s.handFin r i v).book = s.book := by
  have h := book_hand s (s.stageOf r i).fin v
  unfold State.handFin
  dsimp only
  split
  · split
    · exact (book_setAwaiting _ _ _ _).trans h
    · exact h
  · exact (book_setAwaiting _ _ _ _).trans h

@[simp] theorem book_setFins (s : State) (r n k : Nat) : (s.setFins r n k).book = s.book := by
  refine foldl_view State.book (fun t i => ?_) _ s
  dsimp only
  generalize (if i < k then ActValue.finEngage else .finRetract) = v
  split
  · rfl
  · exact book_handFin t r i v

@[simp] theorem book_restoreRun (s : State) (r : Nat) : (s.restoreRun r).book = s.book :=
  (base_book s.book).restoreRun (fun _ _ ht => ht) r rfl

@[simp] theorem book_engageRun (s : State) (r : Nat) : (s.engageRun r).book = s.book := by
  unfold State.engageRun
  split
  · rfl
  · exact foldl_view (f := fun s i => s.handFin r i .finEngage) State.book (fun t i => book_handFin t r i _) _ s

@[simp] theorem book_runLeft (s : State) (z : Nat) : (s.runLeft z).book = s.book := by
  refine foldl_view State.book (fun t r => ?_) _ s
  split
  · exact book_restoreRun t r
  · rfl

@[simp] theorem book_seqToIdle (s : State) (k : Nat) : (s.seqToIdle k).book = s.book := by
  have h : ((s.putSeq k .idle).handBooster k .boosterSafe).book = s.book := book_handBooster _ _ _
  unfold State.seqToIdle
  dsimp only
  split
  · rfl
  · split
    · exact (book_notice _ _).trans h
    · exact h

@[simp] theorem book_boostersToSafe (s : State) : s.boostersToSafe.book = s.book := by
  have hidle : ∀ t : State, t.seqsToIdle.book = t.book := fun t => (book_seqToIdle _ 1).trans (book_seqToIdle t 0)
  have hmode : ∀ t : State, t.boostersSafeByMode.book = t.book := fun t => (base_book t.book).boostersSafeByMode rfl
  unfold State.boostersToSafe
  split
  · exact hmode s
  · split
    · exact (hmode _).trans (hidle _)
    · exact (hidle _).trans (hmode _)

/-! ### Aborted charges (R87) -/

/-- A release of a boat ends or stays when reservations are returned. -/
theorem release_returnReservations {s : State} {b c : Nat} {r : Release} (h : (s.returnReservations b).release c = some r) :
    s.release c = some r := by
  by_cases hg : ∃ x, s.boatR b = some x ∧ x.state = .granted
  · obtain ⟨x, hx, hst⟩ := hg
    rw [(returnReservations_granted hx hst).2.1] at h
    split at h
    · cases h
    · exact h
  · rwa [returnReservations_idle fun x hx hst => hg ⟨x, hx, hst⟩] at h

@[simp] theorem queue_returnReservations (s : State) (b : Nat) : (s.returnReservations b).queue = s.queue := by
  by_cases hg : ∃ x, s.boatR b = some x ∧ x.state = .granted
  · obtain ⟨x, hx, hst⟩ := hg
    exact (returnReservations_granted hx hst).1
  · rw [returnReservations_idle fun x hx hst => hg ⟨x, hx, hst⟩]

theorem queue_of_book {s u : State} (h : u.book = s.book) : u.queue = s.queue := congrArg Book.queue h
theorem rel_of_book {s u : State} (h : u.book = s.book) : u.rel = s.rel := congrArg Book.rel h
theorem boats_of_book {s u : State} (h : u.book = s.book) : u.boats = s.boats := congrArg Book.boats h

/-- A boat record changes as the register has it. -/
theorem boats_modBoat_congr {s u : State} (h : u.boats = s.boats) (b : Nat) (f : Boat → Boat) :
    (u.modBoat b f).boats = (s.modBoat b f).boats := by
  unfold State.modBoat
  rw [boatR_of_boats h]
  split
  · exact h
  · unfold State.putBoat
    split
    · exact h
    · show u.boats.setIfInBounds _ _ = _
      rw [h]

theorem boats_setBoatState_congr {s u : State} (h : u.boats = s.boats) (b : Nat) (st : BoatState) :
    (u.setBoatState b st).boats = (s.setBoatState b st).boats := boats_modBoat_congr h b _

theorem queue_launchAbort (s : State) (k : Nat) (r : AbortReason) : (s.launchAbort k r).queue = s.queue := by
  unfold State.launchAbort
  split
  · next e b _ _ =>
    have h1 : ((s.putSeq k .idle).hand e.booster .boosterSafe).queue = s.queue := queue_of_book (book_hand _ _ _)
    dsimp only
    rw [queue_of_book (book_notice _ _)]
    split
    · rw [queue_of_book (book_toBerthReturned _ _), queue_setBoatState, queue_returnReservations]
      exact h1
    · exact h1
  · rfl

theorem queue_chargeStart (s : State) (k b : Nat) : (s.chargeStart k b).queue = s.queue := by
  unfold State.chargeStart
  split
  · rfl
  · dsimp only
    split
    · exact queue_launchAbort _ _ _
    · split
      · exact queue_launchAbort _ _ _
      · exact queue_of_book (book_hand _ _ _)

theorem queue_openGate (s : State) (e : QEntry) (z : ZoneEntry) : (s.openGate e z).queue = s.queue := by
  unfold State.openGate
  dsimp only
  split
  · exact putRel_queue _ _ _
  · exact (queue_of_book (book_hand _ _ _)).trans (putRel_queue _ _ _)

theorem queue_beginRelease (s : State) (e : QEntry) (z : ZoneEntry) : (s.beginRelease e z).queue = s.queue := by
  unfold State.beginRelease
  split
  · dsimp only
    split
    · exact putRel_queue _ _ _
    · exact (queue_chargeStart _ _ _).trans (putRel_queue _ _ _)
  · split
    · exact (queue_of_book (book_hand _ _ _)).trans (putRel_queue _ _ _)
    · exact queue_openGate _ _ _
  · exact queue_openGate _ _ _
  · exact queue_openGate _ _ _
  · exact queue_openGate _ _ _
  · rfl
  · rfl

/-! ### Grants (R47) -/

/-- The zones of an entry's path are reserved, its boat has the path and is GRANTED, and the boat's entries are gone (R47). -/
def State.taken (s : State) (e : QEntry) : State :=
  ((s.reserve e.boat e.path).withQueue ((s.reserve e.boat e.path).queue.filter fun x => x.boat != e.boat)).modBoat e.boat
    fun r => { r with path := e.path, state := .granted }

theorem grant_taken (s : State) (e : QEntry) : s.grant e = match ((s.taken e).toBerth e.origin State.berthGranted).zoneE e.origin with
    | none => (s.taken e).toBerth e.origin State.berthGranted
    | some z => ((s.taken e).toBerth e.origin State.berthGranted).beginRelease e z := rfl

@[simp] theorem queue_taken (s : State) (e : QEntry) : (s.taken e).queue = s.queue.filter fun x => x.boat != e.boat := by
  rw [← queue_of_book (book_reserve s e.boat e.path)]
  exact modBoat_queue _ _ _

theorem queued_taken (s : State) (e : QEntry) (c : Nat) : (s.taken e).queued c = (s.queued c && c != e.boat) :=
  (queued_of_queue (queue_taken s e) c).trans (queued_filter s e.boat c)

theorem release_taken (s : State) (e : QEntry) (c : Nat) : (s.taken e).release c = s.release c := by
  refine release_of_rel ?_ c
  unfold State.taken
  rw [modBoat_rel, rel_withQueue]
  exact rel_of_book (book_reserve s e.boat e.path)

theorem boatR_taken (s : State) (e : QEntry) (c : Nat) : (s.taken e).boatR c =
    if c = e.boat then (s.boatR e.boat).map fun r => { r with path := e.path, state := .granted } else s.boatR c := by
  have h : ∀ q d, ((s.reserve e.boat e.path).withQueue q).boatR d = s.boatR d := fun q =>
    boatR_of_boats ((boats_withQueue _ q).trans (boats_of_book (book_reserve s e.boat e.path)))
  unfold State.taken
  rw [boatR_modBoat, h, h]

@[simp] theorem book_toldGranted (s : State) (z : Nat) : (s.toBerth z State.berthGranted).book = s.book :=
  book_toBerth z fun _ _ => rfl

/-- A grant takes the entries of its boat out of the queue, and no other (R47). -/
theorem queue_grant (s : State) (e : QEntry) : (s.grant e).queue = s.queue.filter fun x => x.boat != e.boat := by
  have h := (queue_of_book (book_toldGranted (s.taken e) e.origin)).trans (queue_taken s e)
  rw [grant_taken]
  split
  · exact h
  · exact (queue_beginRelease _ _ _).trans h

/-- A queued boat is GRANTED when its entry is taken. -/
theorem taken_granted {s : State} (hs : s.Bookings) {e : QEntry} (he : s.queued e.boat = true) :
    ∃ x, (s.taken e).boatR e.boat = some x ∧ x.state = .granted := by
  obtain ⟨x, hx, _⟩ := ((hs.2 e.boat).1).mp he
  exact ⟨{ x with path := e.path, state := .granted }, by rw [boatR_taken, if_pos rfl, hx]; rfl, rfl⟩

theorem State.Bookings.taken {s : State} (hs : s.Bookings) {e : QEntry} (he : s.queued e.boat = true) : (s.taken e).Bookings := by
  obtain ⟨y, hy, hyst⟩ := taken_granted hs he
  obtain ⟨x, hx, hst⟩ := ((hs.2 e.boat).1).mp he
  refine hs.change e.boat (by rw [queue_taken]; exact hs.nodup_filter _) (fun c hc => ?_) (fun c hc => ?_)
    (fun c _ => release_taken s e c) (booking_granted e.boat hy hyst (by rw [queued_taken]; simp) fun r a hr ha => ?_)
  · rw [queued_taken]
    simp [hc]
  · rw [boatR_taken, if_neg hc]
  · rw [release_taken] at hr
    exact absurd ha (hs.not_throwing (fun z hz => by rw [hx] at hz; cases hz; rw [hst]; decide) hr a)

namespace State.Bookings

variable {s : State} (hs : s.Bookings)
include hs

theorem launchAbort (k : Nat) (r : AbortReason) : (s.launchAbort k r).Bookings := by
  unfold State.launchAbort
  split
  · next e b _ _ =>
    have h1 : ((s.putSeq k .idle).hand e.booster .boosterSafe).Bookings := hs.ofBook (book_hand _ _ _)
    dsimp only
    refine State.Bookings.notice ?_ _
    split
    · next hg =>
      obtain ⟨x, hx, hst⟩ := (Option.any_eq_true _ _).mp hg
      exact (h1.release_waiting hx (eq_of_beq hst)).ofBook (book_toBerthReturned _ _)
    · exact h1
  · exact hs

theorem abortCharge (k : Nat) (r : AbortReason) : (s.abortCharge k r).Bookings := by
  unfold State.abortCharge
  split
  · exact hs.launchAbort k r
  · exact hs

theorem abortInhibited : s.abortInhibited.Bookings := by
  refine foldl_keeps (P := State.Bookings) (fun t k ht => ?_) _ hs
  split
  · exact ht.abortCharge k _
  · exact ht

theorem inhibitPulse (c : Nat) : (s.inhibitPulse c).Bookings := by
  refine foldl_keeps (P := State.Bookings) (fun t u ht => ?_) _ hs
  split
  · exact ht.abortCharge _ _
  · exact ht

theorem pulseChan (c : Nat) (src : Source) : (s.pulseChan c src).Bookings :=
  inhibitPulse (base_bookings.deliverPulse (fun _ ht => ht.ofBook rfl) c src hs) c

theorem pulse (g : Gen) : (s.pulse g).Bookings := by
  refine foldl_keeps (P := State.Bookings) (fun t c ht => ?_) _ hs
  split
  · exact ht.pulseChan c _
  · exact ht

theorem abortCharges : s.abortCharges.Bookings := (hs.abortCharge 0 _).abortCharge 1 _

theorem abortChargesOn (n : Nat) : (s.abortChargesOn n).Bookings :=
  foldl_keeps (P := State.Bookings) (fun _ k ht => ht.abortCharge k _) _ hs

theorem launchDeparted (k b : Nat) : (s.launchDeparted k b).Bookings := by
  unfold State.launchDeparted
  split
  · exact hs.ofBook ((book_notice _ _).trans (book_handBooster _ _ _))
  · exact hs

/-! ### Grants (R46 to R51) -/

theorem chargeStart (k b : Nat) : (s.chargeStart k b).Bookings := by
  unfold State.chargeStart
  split
  · exact hs
  · next e he =>
    have h1 : (s.putSeq k { Seq.idle with state := .charging, boat := some b, band := ((s.boatR b).bind fun x => x.band).map (·.2) }).Bookings :=
      hs.ofBook rfl
    dsimp only
    split
    · exact h1.launchAbort k _
    · split
      · exact h1.launchAbort k _
      · exact h1.ofBook (book_hand _ _ _)

theorem openGate (e : QEntry) (z : ZoneEntry) : (s.openGate e z).Bookings := by
  have h1 : (s.putRel e.boat (some ⟨e, .gate⟩)).Bookings := hs.putRel _ _ fun r a hr ha => by cases hr; cases ha
  unfold State.openGate
  dsimp only
  split
  · exact h1
  · exact h1.hand _ _

theorem beginRelease (e : QEntry) (z : ZoneEntry) (hg : ∃ x, s.boatR e.boat = some x ∧ x.state = .granted) :
    (s.beginRelease e z).Bookings := by
  unfold State.beginRelease
  split
  · have h1 : (s.putRel e.boat (some ⟨e, .launch⟩)).Bookings := hs.putRel _ _ fun r a hr ha => by cases hr; cases ha
    dsimp only
    split
    · exact h1
    · exact h1.chargeStart _ _
  · split
    · exact (hs.putRel e.boat _ fun r a hr _ => by cases hr; exact ⟨rfl, hg⟩).hand _ _
    · exact hs.openGate e z
  · exact hs.openGate e z
  · exact hs.openGate e z
  · exact hs.openGate e z
  · exact hs
  · exact hs

/-- A grant of an entry whose boat is queued (R47). -/
theorem grant {e : QEntry} (he : s.queued e.boat = true) : (s.grant e).Bookings := by
  obtain ⟨y, hy, hst⟩ := taken_granted hs he
  have h3 := book_toldGranted (s.taken e) e.origin
  have h4 := (hs.taken he).ofBook h3
  rw [grant_taken]
  split
  · exact h4
  · exact h4.beginRelease e _ ⟨y, (boatR_of_boats (boats_of_book h3) _).trans hy, hst⟩

omit hs in
/-- The entries a scan has still to look at have different boats, and each boat is still queued. -/
theorem scanFrom (l : List QEntry) (hl : (l.map QEntry.boat).Nodup) (s : State) (hs : s.Bookings) (hq : ∀ e ∈ l, s.queued e.boat = true) :
    (l.foldl (fun s e => if s.grantable e then s.grant e else s) s).Bookings := by
  induction l generalizing s with
  | nil => exact hs
  | cons e l ih =>
    rw [List.map_cons, List.nodup_cons] at hl
    obtain ⟨hne, hl⟩ := hl
    have he := hq e List.mem_cons_self
    have hrest : ∀ d ∈ l, s.queued d.boat = true := fun d hd => hq d (List.mem_cons_of_mem _ hd)
    rw [List.foldl_cons]
    split
    · refine ih hl _ (hs.grant he) fun d hd => ?_
      have hdb : d.boat ≠ e.boat := fun h => hne (h ▸ List.mem_map_of_mem hd)
      have hq : (s.grant e).queued d.boat = (s.queued d.boat && d.boat != e.boat) :=
        (queued_of_queue (queue_grant s e) _).trans (queued_filter s e.boat _)
      rw [hq, hrest d hd]
      simpa using hdb
    · exact ih hl s hs hrest

theorem scan : s.scan.Bookings := scanFrom s.queue hs.1 s hs fun e he => queued_iff.mpr ⟨e, he, rfl⟩

theorem scans (n : Nat) : (State.scans n s).Bookings := by
  induction n generalizing s with
  | zero => exact hs
  | succ n ih =>
    unfold State.scans
    split
    · exact ih (scan (hs.ofBook rfl))
    · exact hs

theorem driveLines : s.driveLines.Bookings := hs.ofBook rfl

theorem settle (s0 : State) : (State.settle s0 s).Bookings :=
  driveLines (base_bookings.settleBerths (scans (abortInhibited (base_bookings.evalUserHolds
    (base_bookings.edges (fun _ ht => ht.ofBook rfl) s0 hs))) _))

omit hs in
/-- An event keeps what its own effect keeps. -/
theorem event {f : State → State} (hf : (f s).Bookings) : (State.event f s).Bookings := base_bookings.clearEv (hf.settle s)

/-! ### Requests and throws (R24, R42, R52, R53) -/

theorem autoRequest (b : Nat) : (s.autoRequest b).Bookings := by
  unfold State.autoRequest
  split
  · exact hs
  · split
    · exact hs.request b
    · exact hs

theorem autoRequests : s.autoRequests.Bookings := foldl_keeps (P := State.Bookings) (fun _ i ht => ht.autoRequest (i + 1)) _ hs

end State.Bookings

theorem withdraw_queued {s : State} {b : Nat} (h : s.queued b = true) :
    s.withdraw b = (s.withQueue (s.queue.filter fun e => e.boat != b)).setBoatState b .waiting := if_pos h

/-- Boat `b` has no release but one that waits on a switch throw (R51). -/
def State.throwsOnly (s : State) (b : Nat) : Prop := ∀ r, s.release b = some r → ∃ a, r.stage = .throw a

theorem throwsOn_throwsOnly {s : State} {a b : Nat} (h : b ∈ s.throwsOn a) : s.throwsOnly b := fun r hr => by
  unfold State.throwsOn at h
  obtain ⟨i, _, hi⟩ := List.mem_filterMap.mp h
  split at hi
  · cases hi
  · next q hq =>
    split at hi
    · next ha =>
      cases hi
      rw [hq] at hr
      cases hr
      exact ⟨a, ha⟩
    · cases hi

@[simp] theorem rel_restoreEntry (s : State) (e : QEntry) : (s.restoreEntry e).rel = s.rel := rel_setBoatState _ _ _

/-- An undone grant ends releases alone (R53). -/
theorem release_undoGrant {s : State} {b c : Nat} {r : Release} (h : (s.undoGrant b).release c = some r) : s.release c = some r := by
  unfold State.undoGrant at h
  split at h
  · exact h
  · exact release_returnReservations (b := b) ((release_of_rel (rel_restoreEntry _ _) c).symm.trans h)

theorem State.throwsOnly.undoGrant {s : State} {c : Nat} (h : s.throwsOnly c) (b : Nat) : (s.undoGrant b).throwsOnly c :=
  fun r hr => h r (release_undoGrant hr)

/-- A completion of a throw leaves mode control alone. -/
theorem mc_thrown (s : State) (b : Nat) : (s.thrown b).mc = s.mc := by
  unfold State.thrown
  split
  · rfl
  · split
    · next hm =>
      split
      · rfl
      · exact (quiet_mc s.mc).openGate _ _ hm rfl
    · exact (quiet_mc s.mc).undoGrant (fun _ _ ht => ht) b rfl
    · rfl
    · rfl
    · rfl

namespace State.Bookings

theorem throwFailed {s : State} (hs : s.Bookings) {b : Nat} (h : s.throwsOnly b) : (s.throwFailed b).Bookings := by
  unfold State.throwFailed
  split
  · exact hs
  · exact (hs.undoGrant h).notice _

/-- Throws of several boats fail, one after the other. -/
theorem throwsFailed (l : List Nat) (s : State) (hs : s.Bookings) (hl : ∀ b ∈ l, s.throwsOnly b) :
    (l.foldl State.throwFailed s).Bookings := by
  induction l generalizing s with
  | nil => exact hs
  | cons b l ih =>
    refine ih _ (hs.throwFailed (hl b List.mem_cons_self)) fun c hc => ?_
    have h := hl c (List.mem_cons_of_mem _ hc)
    unfold State.throwFailed
    split
    · exact h
    · intro r hr
      exact h.undoGrant b r (by rw [← hr]; exact (release_of_rel (rel_of_book (book_notice _ _)) c).symm)

theorem failThrows {s : State} (hs : s.Bookings) (a : Nat) : (s.failThrows a).Bookings :=
  throwsFailed _ s hs fun _ => throwsOn_throwsOnly

theorem thrown {s : State} (hs : s.Bookings) {b : Nat} (h : s.mode = .hold → s.throwsOnly b) : (s.thrown b).Bookings := by
  unfold State.thrown
  split
  · exact hs
  · split
    · split
      · exact hs
      · exact hs.openGate _ _
    · next hm => exact hs.undoGrant (h hm)
    · exact hs
    · exact hs
    · exact hs

/-- Throws of several boats complete, one after the other. -/
theorem throwsDone (l : List Nat) (s : State) (hs : s.Bookings) (hl : s.mode = .hold → ∀ b ∈ l, s.throwsOnly b) :
    (l.foldl State.thrown s).Bookings := by
  induction l generalizing s with
  | nil => exact hs
  | cons b l ih =>
    refine ih _ (hs.thrown fun hm => hl hm b List.mem_cons_self) fun hm c hc => ?_
    have hm : s.mode = .hold := (congrArg ModeCtl.mode (mc_thrown s b)).symm.trans hm
    have h := hl hm c (List.mem_cons_of_mem _ hc)
    unfold State.thrown
    rw [hm]
    split
    · exact h
    · exact h.undoGrant b

variable {s : State} (hs : s.Bookings)
include hs

/-! ### Changes of mode (R56, R57, R94, R142, R143) -/

omit hs in
/-- The entries in front of a list are withdrawn one after the other, the rest waiting to be. -/
theorem withdrawEach (l : List QEntry) (s : State) (hq : s.queue = []) (hs : (s.withQueue l).Bookings) :
    (l.foldl (fun s e => (s.setBoatState e.boat .waiting).toBerth e.origin State.berthWithdrawn) s).Bookings := by
  induction l generalizing s with
  | nil =>
    rw [← hq] at hs
    exact hs
  | cons e l ih =>
    rw [List.foldl_cons]
    have hbook : ((s.setBoatState e.boat .waiting).toBerth e.origin State.berthWithdrawn).book = (s.setBoatState e.boat .waiting).book :=
      book_toBerth e.origin fun _ _ => rfl
    refine ih _ ((queue_of_book hbook).trans ((queue_setBoatState _ _ _).trans hq)) ?_
    have hnd : ((e :: l).map QEntry.boat).Nodup := hs.1
    rw [List.map_cons, List.nodup_cons] at hnd
    have hfilter : (e :: l).filter (fun x => x.boat != e.boat) = l := by
      rw [List.filter_cons_of_neg (by simp), List.filter_eq_self]
      intro d hd
      have hdb : d.boat ≠ e.boat := fun h => hnd.1 (h ▸ List.mem_map_of_mem hd)
      simpa using hdb
    have hw := hs.withdraw e.boat
    rw [withdraw_queued (queued_iff.mpr ⟨e, List.mem_cons_self, rfl⟩)] at hw
    refine hw.same ?_ ((boats_of_book hbook).trans ?_) ((rel_of_book hbook).trans ?_)
    · rw [queue_setBoatState]
      exact hfilter.symm
    · refine boats_setBoatState_congr ?_ e.boat _
      simp
    · rw [rel_setBoatState, rel_setBoatState, rel_withQueue, rel_withQueue]

theorem withdrawAll : s.withdrawAll.Bookings := withdrawEach s.queue (s.withQueue []) rfl hs

theorem returnAll : s.returnAll.Bookings := by
  refine foldl_keeps (P := State.Bookings) (fun t i ht => ?_) _ hs
  split
  · exact ht
  · next x hx =>
    split
    · next hst => exact (ht.release_waiting hx hst).ofBook (book_toBerthReturned _ _)
    · exact ht

/-- What follows the withdrawals on the way into STOP or CONFIG (R94, R114, R142). -/
theorem toRest : (s.boostersToSafe.closeGates.restoreRuns).Bookings :=
  (base_bookings.closeGates (hs.ofBook (book_boostersToSafe s))).ofBook ((book_restoreRun _ 1).trans (book_restoreRun _ 0))

theorem enterStop : s.enterStop.Bookings := by
  have h1 : (s.modMc fun m => { m with holdPending := false }).Bookings := hs.ofBook rfl
  exact h1.withdrawAll.returnAll.toRest.ofBook (book_handAll _ _)

theorem enterConfig : s.enterConfig.Bookings := by
  have h1 : (s.modMc fun m => { m with layoutChecked := false, holdPending := false }).Bookings := hs.ofBook rfl
  exact toRest (h1.withdrawAll.ofBook rfl)

theorem enterRun : s.enterRun.Bookings := autoRequests (hs.ofBook rfl)

theorem enterHold (old : Mode) : (s.enterHold old).Bookings := by
  unfold State.enterHold
  split
  · exact hs.abortCharges.pulse _
  · exact hs.pulse _

theorem changeMode (new : Mode) (c : Cause) : (s.changeMode new c).Bookings := by
  have h1 : ((s.modMc fun m => { m with mode := new, stopOut := new == .stop }).notice (.modeChanged new s.mode c)).Bookings :=
    hs.ofBook (book_notice _ _)
  unfold State.changeMode State.enterMode
  split
  · exact h1.enterConfig
  · exact h1
  · exact h1.enterRun
  · exact h1.enterHold _
  · exact h1.enterStop

theorem modMc (f : ModeCtl → ModeCtl) : (s.modMc f).Bookings := hs.ofBook rfl

theorem goStop (c : Cause) : (s.goStop c).Bookings := by
  unfold State.goStop State.abortCheck
  split
  · exact hs
  · refine changeMode ?_ _ c
    split
    · exact hs
    · exact hs.modMc _

theorem askHold (b : Block) : (s.askHold b).Bookings := by
  unfold State.askHold
  split
  · exact hs.changeMode _ _
  · exact hs.modMc _
  · exact hs
  · exact hs
  · exact hs

end State.Bookings

end Sys2Proof.Machine
end

section
/-! Boats, entries and releases in agreement through the records of the nodes and the timer expiries (chapters 2 to 7). -/

namespace Sys2Proof.Machine

namespace State.Bookings

variable {s : State} (hs : s.Bookings)
include hs

theorem bump (c : Counter) : (s.bump c).Bookings := hs.ofBook rfl
theorem useFree : s.useFree.Bookings := hs.ofBook rfl
theorem setBerth (b : Nat) (f : BerthStatus → BerthStatus) : (s.setBerth b f).Bookings := hs.ofBook rfl
theorem touch (b : Nat) : (s.touch b).Bookings := hs.ofBook rfl
theorem modSeq (k : Nat) (f : Seq → Seq) : (s.modSeq k f).Bookings := hs.ofBook rfl
theorem modRun (r : Nat) (f : RunStatus → RunStatus) : (s.modRun r f).Bookings := hs.ofBook rfl
theorem removeEntry (a : Nat) : (s.removeEntry a).Bookings := hs.ofBook rfl
theorem putAct (a : Nat) (x : ActStatus) : (s.putAct a x).Bookings := hs.ofBook rfl
theorem raiseFault (z : Nat) (f : ZFault) : (s.raiseFault z f).Bookings := hs.ofBook (book_raiseFault s z f)
theorem startWatch (z : Nat) : (s.startWatch z).Bookings := hs.ofBook (book_startWatch s z)
theorem trySecure (b : Nat) : (s.trySecure b).Bookings := hs.ofBook (book_trySecure s b)
theorem berthArrive (b : Nat) : (s.berthArrive b).Bookings := hs.ofBook (book_berthArrive s b)
theorem askStop (b : Block) : (s.askStop b).Bookings := hs.goStop _

/-! ### Launch sequencers -/

theorem cooldownStart (k : Nat) (e : LaunchEntry) : (s.cooldownStart k e).Bookings := by
  unfold State.cooldownStart
  dsimp only
  split
  · exact hs.ofBook rfl
  · exact hs.modSeq k _

theorem launchSpeed (k : Nat) (e : LaunchEntry) (v : Nat) : (s.launchSpeed k e v).Bookings := by
  unfold State.launchSpeed
  dsimp only
  refine cooldownStart ?_ k e
  split
  · exact (hs.notice _).askHold _
  · exact hs.notice _

theorem launchNone (k : Nat) (e : LaunchEntry) : (s.launchNone k e).Bookings := (hs.notice _).cooldownStart k e

theorem takeSpeed (k v : Nat) : (s.takeSpeed k v).Bookings := by
  unfold State.takeSpeed
  split
  · exact hs
  · split
    · exact hs.modSeq k _
    · exact hs.launchSpeed k _ v
    all_goals exact hs

theorem measure (k : Nat) (e : LaunchEntry) : (s.measure k e).Bookings := by
  unfold State.measure
  dsimp only
  split
  · exact hs.launchSpeed k e _
  · split
    · exact hs.launchNone k e
    · exact hs

theorem launchArrived (k b : Nat) : (s.launchArrived k b).Bookings := by
  unfold State.launchArrived
  split
  · exact hs
  · split
    · exact hs.launchNone k _
    · exact hs

theorem launchReleased (k : Nat) (e : LaunchEntry) : (s.launchReleased k e).Bookings := by
  unfold State.launchReleased
  split
  · exact hs.startWatch _
  · exact hs

theorem takeReady (src num : Nat) : (s.takeReady src num).Bookings := by
  unfold State.takeReady
  split
  · exact hs.bump _
  · split
    · exact hs
    · split
      · split
        · exact hs.launchAbort _ _
        · exact ((hs.modSeq _ _).hand _ _).pulse _
      all_goals exact hs.bump _

theorem takeDone (src num : Nat) : (s.takeDone src num).Bookings := by
  unfold State.takeDone
  split
  · exact hs.bump _
  · split
    · exact hs
    · split
      · exact ((hs.modSeq _ _).launchReleased _ _).measure _ _
      · exact ((((hs.modSeq _ _).hand _ _).notice _).askHold _).launchReleased _ _
      all_goals exact hs.bump _

theorem chargeExpiry (k : Nat) : (s.chargeExpiry k).Bookings := by
  unfold State.chargeExpiry
  split
  · exact hs
  · split
    · exact hs.abortCharge k _
    · exact hs

theorem doneExpiry (k : Nat) : (s.doneExpiry k).Bookings := by
  unfold State.doneExpiry
  split
  · exact hs
  · split
    · exact (((((hs.modSeq k _).hand _ _).notice _).askHold _).launchReleased k _).measure k _
    · exact hs

theorem cooldownExpiry (k : Nat) : (s.cooldownExpiry k).Bookings := by
  unfold State.cooldownExpiry
  split
  · exact hs
  · split
    · exact hs.ofBook rfl
    · exact hs

/-! ### Berth records -/

theorem berthFault (b : Nat) (r : BerthFault) : (s.berthFault b r).Bookings := by
  unfold State.berthFault
  split
  · exact hs
  · dsimp only
    refine setBerth ?_ b _
    split
    · split
      · exact hs
      · exact hs.withdraw _
    · exact hs

theorem berthAnswer (b n : Nat) (a : Answer) : (s.berthAnswer b n a).Bookings := by
  unfold State.berthAnswer
  split
  · exact hs.setBerth b _
  · exact hs.setBerth b _
  · split <;> exact hs.setBerth b _

theorem pressRequest (b n : Nat) : (s.pressRequest b n).Bookings := (hs.request n).berthAnswer b n _

theorem padPress (b n : Nat) (e : BerthEntry) : (s.padPress b n e).Bookings := by
  unfold State.padPress
  split
  · split
    · exact hs.setBerth b _
    · split
      · exact (hs.notice _).setBerth b _
      · refine pressRequest ?_ b n
        exact hs.modBoat n _ fun _ => ⟨rfl, rfl⟩
  · exact hs.setBerth b _

theorem takePress (b : Nat) (e : BerthEntry) : (s.takePress b e).Bookings := by
  unfold State.takePress
  split
  · exact hs.setBerth b _
  · split
    · exact hs.padPress b _ e
    · exact hs.pressRequest b _

theorem takePending (b : Nat) : (s.takePending b).Bookings := by
  unfold State.takePending
  split
  · exact hs
  · dsimp only
    split
    · exact (hs.setBerth b _).takePress b _
    · exact hs

theorem pressEdge (b : Nat) (e : BerthEntry) : (s.pressEdge b e).Bookings := by
  have h1 := hs.pulse (.berthButton b)
  unfold State.pressEdge
  dsimp only
  split
  · split
    · exact h1.takePress b e
    · exact h1.setBerth b _
  · split
    · exact h1.setBerth b _
    · exact h1
  all_goals exact h1

theorem presenceLost (b : Nat) (e : BerthEntry) : (s.presenceLost b e).Bookings := ((hs.berthFault b _).notice _).askHold _

theorem presenceEdge (b : Nat) (e : BerthEntry) (x : Bool) : (s.presenceEdge b e x).Bookings := by
  have h1 : (s.setBerth b fun q => { q with presence := x, pending := q.pending && x }).Bookings := hs.setBerth b _
  unfold State.presenceEdge
  dsimp only
  split
  · exact h1.berthArrive b
  · split
    · exact h1.presenceLost b e
    · exact h1.presenceLost b e
    · exact h1.presenceLost b e
    all_goals exact h1

theorem latchToSequencer (e : BerthEntry) : (s.latchToSequencer e).Bookings := by
  unfold State.latchToSequencer
  split
  · exact hs.abortCharge _ _
  · exact hs

theorem latchOpenReleased (b : Nat) (e : BerthEntry) : (s.latchOpenReleased b e).Bookings := by
  have h1 : (s.berthAlarm b e .latchOpen).Bookings := hs.notice _
  unfold State.latchOpenReleased
  dsimp only
  split
  · exact h1.askStop _
  · split
    · exact (h1.useFree.latchToSequencer e).askStop _
    · exact (h1.useFree.askStop _).latchToSequencer e

theorem latchOpened (b : Nat) (e : BerthEntry) : (s.latchOpened b e).Bookings := by
  have h1 : (s.setBerth b fun q => { q with latch := false, pending := false }).Bookings := hs.setBerth b _
  unfold State.latchOpened
  dsimp only
  split
  · exact h1.setBerth b _
  · exact h1.setBerth b _
  · split
    · exact h1.setBerth b _
    · exact (h1.withdraw _).setBerth b _
  · exact h1.latchOpenReleased b e
  · exact h1
  · exact h1

theorem latchClosed (b : Nat) : (s.latchClosed b).Bookings := by
  have h1 : (s.setBerth b fun q => { q with latch := true }).Bookings := hs.setBerth b _
  unfold State.latchClosed
  dsimp only
  split
  · exact (h1.setBerth b _).trySecure b
  · exact h1

theorem latchEdge (b : Nat) (e : BerthEntry) (x : Bool) : (s.latchEdge b e x).Bookings := by
  unfold State.latchEdge
  split
  · exact hs.latchClosed b
  · exact hs.latchOpened b e

theorem takeBerth (src : Nat) (p l u : Bool) : (s.takeBerth src p l u).Bookings := by
  unfold State.takeBerth
  split
  · exact hs.bump _
  · next b e _ =>
    have h1 : (if (s.berthS b).presence = p then s.touch b else (s.touch b).presenceEdge b e p).Bookings := by
      split
      · exact hs.touch b
      · exact (hs.touch b).presenceEdge b e p
    revert h1
    generalize (if (s.berthS b).presence = p then s.touch b else (s.touch b).presenceEdge b e p) = t
    intro h1
    have h2 : (if (t.berthS b).latch = l then t else t.latchEdge b e l).Bookings := by
      split
      · exact h1
      · exact h1.latchEdge b e l
    dsimp only
    split
    · exact h2.pressEdge b e
    · exact h2

theorem takeWeight (src sc : Nat) (kg : Int) (x : Bool) : (s.takeWeight src sc kg x).Bookings := by
  unfold State.takeWeight State.captureWeight
  split
  · exact hs.bump _
  · next b e _ =>
    split
    · exact hs.bump _
    · split
      · have h1 : (s.setBerth b fun q => { q with weight := some (clampWeight kg) }).Bookings := hs.setBerth b _
        dsimp only
        split
        · split
          · exact h1
          · exact h1.modBoat _ _ fun _ => ⟨rfl, rfl⟩
        · exact h1
      · exact hs

theorem takeTag (src r n : Nat) : (s.takeTag src r n).Bookings := by
  unfold State.takeTag
  split
  · exact hs
  · split
    · exact hs
    · split
      · exact hs.bump _
      · split
        · exact hs.touch _
        · exact (((hs.berthFault _ _).raiseFault _ _).notice _).askHold _

/-! ### Traps -/

theorem setRun (r : Nat) (e : RunEntry) (b k : Nat) : (s.setRun r e b k).Bookings := by
  have h1 : (s.setFins r e.stages k).Bookings := hs.ofBook (book_setFins _ _ _ _)
  have h2 := h1.modRun r fun q => { q with state := .set, boat := some b, count := some k }
  exact h2.modBoat b (fun x => { x with stageCount := some (r, k) }) fun _ => ⟨rfl, rfl⟩

theorem recordSpeed (b : Option Nat) (v i : Nat) : (s.recordSpeed b v i).Bookings := by
  unfold State.recordSpeed
  split
  · exact hs
  · exact hs.modBoat _ _ fun _ => ⟨rfl, rfl⟩

theorem noticeIf (c : Bool) (n : Notice) : (s.noticeIf c n).Bookings := by
  unfold State.noticeIf
  split
  · exact hs.notice n
  · exact hs

theorem holdIf (c : Bool) (b : Block) : (s.holdIf c b).Bookings := by
  unfold State.holdIf
  split
  · exact hs.askHold b
  · exact hs

theorem select (r : Nat) (e : RunEntry) (b : Nat) (x : Boat) (i v : Nat) : (s.select r e b x i v).Bookings :=
  (((((hs.noticeIf _ _).noticeIf _ _).setRun r e b _).notice _).pulse _).holdIf _ _

theorem brakeReport (r : Nat) (e : RunEntry) (i : Nat) (who v : Option Nat) : (s.brakeReport r e i who v).Bookings := by
  unfold State.brakeReport
  split
  · exact ((hs.raiseFault _ _).notice _).askHold _
  · split
    · exact ((hs.notice _).setRun _ _ _ _).pulse _
    · next v =>
      have h1 := hs.recordSpeed who v i
      dsimp only
      split
      · exact h1
      · exact h1.select r e _ _ i _

theorem handSpeed (who : Option Nat) (i : Nat) (e : TrapEntry) (v : Nat) : (s.handSpeed who i e v).Bookings := by
  unfold State.handSpeed
  split
  · exact hs.brakeReport _ _ i _ _
  · have h1 := hs.recordSpeed who v i
    dsimp only
    split
    · refine foldl_keeps (P := State.Bookings) (fun t k ht => ?_) _ h1
      split
      · exact ht.takeSpeed k v
      · exact ht
    · exact h1

theorem limitCheck (who : Option Nat) (i : Nat) (e : TrapEntry) (v : Nat) : (s.limitCheck who i e v).Bookings := by
  unfold State.limitCheck
  split
  · exact hs
  · split
    · exact (hs.notice _).askHold _
    · exact hs

theorem matchedTrap (i : Nat) (e : TrapEntry) (t : Nat) : (s.matchedTrap i e t).Bookings := by
  have h1 := hs.pulse (.trapDone i)
  unfold State.matchedTrap State.zeroInterval
  dsimp only
  split
  · split
    · exact (h1.bump _).brakeReport _ _ i _ _
    · exact h1.bump _
  · exact (h1.limitCheck _ i e _).handSpeed _ i e _

theorem takeTrap (src p t : Nat) : (s.takeTrap src p t).Bookings := by
  unfold State.takeTrap
  split
  · exact hs.bump _
  · split
    · exact hs.bump _
    · exact hs.matchedTrap _ _ t

/-! ### The roster and acknowledgements -/

theorem failThrowsOn (n : Nat) : (s.failThrowsOn n).Bookings := by
  refine foldl_keeps (P := State.Bookings) (fun t a ht => ?_) _ hs
  split
  · exact ht.failThrows a
  · exact ht

theorem reportFailed (e : CmdEntry) : (s.reportFailed e).Bookings := by
  unfold State.reportFailed
  split
  · exact hs.ofBook (book_finSettled _ _)
  · exact hs.failThrows _
  · exact hs.failThrows _
  · exact hs

theorem closeEntries (n : Nat) : (s.closeEntries n).Bookings :=
  foldl_keeps (P := State.Bookings) (fun _ e ht => ht.reportFailed e) _ (hs.ofBook rfl)

theorem reportRoster (n : Nat) (o w : Roster) : (s.reportRoster n o w).Bookings := by
  have h1 := base_bookings.evalNodeHolds n hs
  unfold State.reportRoster
  split
  · exact hs
  · dsimp only
    have h2 : (if o = .active then ((s.evalNodeHolds n).failThrowsOn n).abortChargesOn n else s.evalNodeHolds n).Bookings := by
      split
      · exact (failThrowsOn h1 n).abortChargesOn n
      · exact h1
    split
    · exact h2.closeEntries n
    · exact h2

theorem putNode (n : Nat) (q : NodeStatus) : (s.putNode n q).Bookings := hs.ofBook rfl

theorem changeNode (n : Nat) (w : Roster) (r : Option NodeReason) : (s.changeNode n w r).Bookings := by
  unfold State.changeNode State.nodeNotice
  refine reportRoster ?_ n _ _
  split
  · exact hs.putNode n _
  · exact (hs.putNode n _).notice _

theorem lostHold (b : Block) : (s.lostHold b).Bookings := by
  unfold State.lostHold
  split
  · exact hs.askHold b
  · exact hs

theorem signOfLife (n : Nat) : (s.signOfLife n).Bookings := by
  have h1 : (s.modNode n fun q => { q with lastHeard := some s.now }).Bookings := hs.putNode n _
  unfold State.signOfLife
  split
  · exact hs
  · dsimp only
    split
    · exact h1.changeNode n _ _
    · exact h1

theorem heard (src : Nat) : (s.heard src).Bookings := by
  unfold State.heard
  split
  · exact hs
  · exact hs.signOfLife _

theorem takeHello (src k : Nat) : (s.takeHello src k).Bookings := by
  unfold State.takeHello
  split
  · exact hs.bump _
  · split
    · exact hs.bump _
    · next n _ =>
      split
      · exact hs
      · split
        · exact hs.notice _
        · exact base_bookings.handLimit n ((hs.putNode n _).changeNode n _ _)

theorem takeLimitAck (src : Nat) : (s.takeLimitAck src).Bookings := by
  unfold State.takeLimitAck
  split
  · exact hs
  · next n _ =>
    have h1 := hs.signOfLife n
    dsimp only
    split
    · exact ((h1.changeNode n _ _).ofBook (book_handAll _ _)).notice _
    · exact h1

theorem joinExpiry (n : Nat) : (s.joinExpiry n).Bookings := by
  unfold State.joinExpiry
  split
  · exact hs.changeNode n _ _
  · exact hs

theorem silentExpiry (n : Nat) : (s.silentExpiry n).Bookings := by
  unfold State.silentExpiry
  split
  · exact hs.changeNode n _ _
  · exact hs

theorem lostExpiry (n : Nat) : (s.lostExpiry n).Bookings := by
  unfold State.lostExpiry
  split
  · exact (hs.changeNode n _ _).lostHold _
  · exact hs

theorem takeHeartbeat (src : Nat) (x : BitVec 4) : (s.takeHeartbeat src x).Bookings := by
  unfold State.takeHeartbeat
  split
  · exact hs
  · next n _ =>
    have h1 := hs.signOfLife n
    dsimp only
    split
    · exact h1.ofBook rfl
    · exact h1

theorem gateOpened (a : Nat) : (s.gateOpened a).Bookings := by
  refine foldl_keeps (P := State.Bookings) (fun t p ht => ?_) _ hs
  split
  · split
    · exact ht
    · split
      · exact ht.startWatch _
      · exact ht
  · exact ht

theorem lampCompleted (a : Nat) : (s.lampCompleted a).Bookings := by
  refine foldl_keeps (P := State.Bookings) (fun t b ht => ?_) _ hs
  split
  · exact ht.setBerth b _
  · exact ht

theorem lockCompleted (a : Nat) : (s.lockCompleted a).Bookings := by
  refine foldl_keeps (P := State.Bookings) (fun t b ht => ?_) _ hs
  split
  · exact ((ht.setBerth b _).trySecure b).takePending b
  · exact ht

theorem allThrown (a : Nat) : ((s.throwsOn a).foldl State.thrown s).Bookings :=
  throwsDone _ s hs fun _ _ => throwsOn_throwsOnly

theorem reportDone (e : CmdEntry) : (s.reportDone e).Bookings := by
  unfold State.reportDone
  split
  · exact hs.gateOpened _
  · exact hs
  · exact hs.ofBook (book_finSettled _ _)
  · exact hs
  · exact hs.lampCompleted _
  · exact hs.lampCompleted _
  · exact hs.lampCompleted _
  · exact hs.lockCompleted _
  · exact hs.lockCompleted _
  · exact hs.allThrown _
  · exact hs.allThrown _
  all_goals exact hs

theorem complete (e : CmdEntry) : (s.complete e).Bookings := ((hs.removeEntry e.act).putAct _ _).reportDone e

theorem fail (e : CmdEntry) (r : FailReason) : (s.fail e r).Bookings := by
  have h1 : ((s.removeEntry e.act).reportFailed e).Bookings := (hs.removeEntry e.act).reportFailed e
  unfold State.fail
  dsimp only
  split
  · exact h1
  · exact (((h1.notice _).putNode _ _).changeNode _ _ _).lostHold _

theorem takeAck (src num t : Nat) {use : State → CmdEntry → State} (hu : ∀ {s : State} e, s.Bookings → (use s e).Bookings) :
    (s.takeAck src num t use).Bookings := by
  have h1 := hs.heard src
  unfold State.takeAck
  dsimp only
  split
  · exact h1.bump _
  · split
    · exact h1.bump _
    · exact hu _ h1

theorem ackAccepted (src num t : Nat) : (s.ackAccepted src num t).Bookings := hs.takeAck src num t fun e ht => ht.complete e
theorem ackRefused (src num t : Nat) : (s.ackRefused src num t).Bookings := hs.takeAck src num t fun e ht => ht.fail e _

theorem ackExpiry (a : Nat) : (s.ackExpiry a).Bookings := by
  unfold State.ackExpiry
  split
  · exact hs
  · split
    · exact hs.fail _ _
    · exact hs

/-! ### Zones -/

theorem watchExpiry (z : Nat) : (s.watchExpiry z).Bookings := by
  unfold State.watchExpiry State.watchExpired
  split
  · exact hs
  · split
    · have h1 : (s.stopWatch z).Bookings := hs.ofBook rfl
      dsimp only
      refine ((State.Bookings.raiseFault ?_ _ _).notice _).askHold _
      split
      · exact h1
      · exact h1.modBoat _ _ fun _ => ⟨rfl, rfl⟩
    · exact hs

theorem takeCheckItem : s.takeCheckItem.Bookings := by
  unfold State.takeCheckItem State.checkFailed State.checkPassed
  split
  · exact hs
  · split
    · exact (hs.modMc _).changeMode _ _
    · split
      · exact hs.modMc _
      · dsimp only
        split <;> exact (hs.modMc _).changeMode _ _

theorem auxExpiry (u : Nat) : (s.auxExpiry u).Bookings := by
  unfold State.auxExpiry
  split
  · exact hs.ofBook rfl
  · exact hs

end State.Bookings

end Sys2Proof.Machine
end

section
/-! Boats, entries and releases in agreement through passages, the boat register, management and the line, and so through every
step: settles O4. -/

namespace Sys2Proof.Machine

/-! ### A boat's entry (R27, R28) -/

theorem book_skipZones (s : State) (b : Nat) (l : List Nat) : (l.foldl (fun s w => s.skipZone b w) s).book = s.book :=
  foldl_view (f := fun s w => s.skipZone b w) State.book (fun _ w => (book_notice _ _).trans (book_raiseFault _ w .missed)) l s

section
variable (s : State) (b z : Nat) (x : Boat) (rest : List Nat)

theorem queue_moveBoat : (s.moveBoat b z x rest).queue = s.queue := by
  have h : (s.moved b z x rest).queue = s.queue := by unfold State.moved; rw [modBoat_queue]; rfl
  rw [moveBoat_eq]
  split
  · exact h
  · exact (queue_of_book (book_startWatch _ z)).trans h

theorem rel_moveBoat : (s.moveBoat b z x rest).rel = s.rel := by
  have h : (s.moved b z x rest).rel = s.rel := by unfold State.moved; rw [modBoat_rel]; rfl
  rw [moveBoat_eq]
  split
  · exact h
  · exact (rel_of_book (book_startWatch _ z)).trans h

/-- Another boat's record stays when a boat moves. -/
theorem boatR_moveBoat_other {c : Nat} (hc : c ≠ b) : (s.moveBoat b z x rest).boatR c = s.boatR c := by
  have h : (s.moved b z x rest).boatR c = s.boatR c := by
    unfold State.moved
    rw [boatR_modBoat, if_neg hc]
    rfl
  rw [moveBoat_eq]
  split
  · exact h
  · exact (boatR_of_boats (boats_startWatch _ z) c).trans h

end

/-- A boat with a path enters a zone: agreement holds at once, or, for a GRANTED boat, when its release has ended (R27, R32). -/
theorem State.Bookings.moveBoat {s : State} (hs : s.Bookings) {b z : Nat} {x : Boat} {rest : List Nat} (hx : s.boatR b = some x)
    (hp : x.path ≠ []) : ((s.moveBoat b z x rest).putRel b none).Bookings ∧
      (x.state ≠ .granted → (s.moveBoat b z x rest).Bookings) := by
  have hst : x.state ≠ .waiting ∧ x.state ≠ .requested :=
    ⟨fun h => hp ((hs.2 b).2.1 x hx (.inl h)), fun h => hp ((hs.2 b).2.1 x hx (.inr h))⟩
  have hfree : (s.moveBoat b z x rest).queued b = false := (queued_of_queue (queue_moveBoat s b z x rest) b).trans
    (hs.not_queued fun y hy => by rw [hx] at hy; cases hy; exact hst.2)
  have hboat := boatR_moveBoat s b z x rest
  rw [hx] at hboat
  have hstate : ∀ y : Boat, (s.moveBoat b z x rest).boatR b = some y → y.state = .waiting ∧ y.path = [] ∨ y.state = .moving := fun y hy => by
    rw [hboat] at hy
    cases hy
    by_cases hr : rest = [] <;> simp [hr]
  have hkeep : ∀ u : State, u.queue = s.queue → u.boats = (s.moveBoat b z x rest).boats →
      (∀ c, c ≠ b → u.release c = s.release c) → (∀ r a, u.release b = some r → r.stage ≠ .throw a) → u.Bookings := by
    intro u hq hb hr hthrow
    have hub : u.boatR b = (s.moveBoat b z x rest).boatR b := boatR_of_boats hb b
    refine hs.change b (by rw [hq]; exact hs.1) (fun c _ => queued_of_queue hq c) (fun c hc => ?_) hr
      (booking_free b (hub.trans hboat) (hstate _ hboat) ?_ hthrow)
    · exact (boatR_of_boats hb c).trans (boatR_moveBoat_other s b z x rest hc)
    · exact (queued_of_queue (hq.trans (queue_moveBoat s b z x rest).symm) b).trans hfree
  have hrel := release_of_rel (rel_moveBoat s b z x rest)
  constructor
  · refine hkeep _ ((putRel_queue _ _ _).trans (queue_moveBoat s b z x rest)) (putRel_boats _ _ _) (fun c hc => ?_) fun r a hr => ?_
    · rw [release_putRel, if_neg fun h => hc h.1]
      exact hrel c
    · rw [release_putRel, if_pos ⟨rfl, boatR_range s hx⟩] at hr
      cases hr
  · intro hg
    refine hkeep _ (queue_moveBoat s b z x rest) rfl (fun c _ => hrel c) fun r a hr => ?_
    exact hs.not_throwing (fun y hy => by rw [hx] at hy; cases hy; exact hg) ((hrel b).symm.trans hr) a

/-- A boat that may be placed is a number of the register and not yet there (R21). -/
theorem placeResult_ok {s : State} {b c z r : Nat} (h : s.placeResult b c z r = .ok) :
    (1 ≤ b ∧ b ≤ 24) ∧ s.boatR b = none := by
  unfold State.placeResult at h
  cases hm : s.mode <;> rw [hm] at h
  case config =>
    dsimp only at h
    split at h
    · cases h
    · next hn =>
      split at h
      · cases h
      · split at h
        · cases h
        · next hb => exact ⟨by omega, by simpa using hb⟩
  all_goals cases h

namespace State.Bookings

variable {s : State}

/-- The first passage ends the boat's release and needs agreement only without it (R32, R54). -/
theorem firstPassage {b : Nat} (y : Nat) (hs : (s.putRel b none).Bookings) : (s.firstPassage b y).Bookings := by
  unfold State.firstPassage
  dsimp only
  split
  · exact hs
  · split
    · exact hs.launchDeparted _ _
    · split
      · exact hs
      · exact hs.hand _ _

variable (hs : s.Bookings)
include hs

theorem clearTrip (b z : Nat) : (s.clearTrip b z).Bookings := by
  unfold State.clearTrip
  split
  · exact hs.modBoat b _ fun _ => ⟨rfl, rfl⟩
  · exact hs

theorem runLeft (z : Nat) : (s.runLeft z).Bookings := hs.ofBook (book_runLeft s z)

theorem toBerth (z : Nat) {f : State → Nat → State} (hf : ∀ (t : State) b, (f t b).book = t.book) : (s.toBerth z f).Bookings :=
  hs.ofBook (book_toBerth z hf)

omit hs in
theorem handEntry {b : Nat} (y z : Nat) {g : Bool} (a k : Bool) (hg : (s.putRel b none).Bookings) (hs : g = false → s.Bookings) :
    (s.handEntry b y z g a k).Bookings := by
  have h1 : ((if g then s.firstPassage b y else s).clearTrip b z).Bookings := by
    refine clearTrip ?_ b z
    split
    · exact firstPassage y hg
    · next h => exact hs (by simpa using h)
  unfold State.handEntry
  revert h1
  generalize (if g then s.firstPassage b y else s).clearTrip b z = t
  intro h1
  dsimp only
  have h2 : (if k then t.askHold .passage else t).Bookings := by
    split
    · exact h1.askHold _
    · exact h1
  have h3 := (((h2.toBerth y (f := State.berthLeft) fun _ _ => rfl).toBerth z book_berthArrive).runLeft y).pulse (.passage z)
  split
  · exact ((h3.launchArrived 0 b).launchArrived 1 b).autoRequest b
  · exact h3

theorem enter {b z : Nat} {x : Boat} (hx : s.boatR b = some x) (hz : z ∈ x.path) : (s.enter b z x).Bookings := by
  have hbook := book_skipZones s b (x.path.takeWhile (· != z))
  obtain ⟨hg, hn⟩ := (hs.ofBook hbook).moveBoat (z := z) (rest := (x.path.dropWhile (· != z)).drop 1)
    ((boatR_of_boats (boats_of_book hbook) b).trans hx) (List.ne_nil_of_mem hz)
  exact handEntry _ z _ _ hg fun h => hn (by simpa using h)

theorem passage (z : Nat) : (s.passage z).Bookings := by
  unfold State.passage
  split
  · split
    · exact hs
    · next hx =>
      split
      · next hz => exact hs.enter hx (List.contains_iff_mem.mp hz)
      · exact hs
  · split
    · exact hs
    · split
      · exact hs.bump _
      · exact (((hs.raiseFault z _).notice _).askStop _).pulse _
  · exact (((hs.raiseFault z _).notice _).askHold _).pulse _

theorem takeMarker (src n e : Nat) : (s.takeMarker src n e).Bookings := by
  unfold State.takeMarker
  split
  · exact hs.bump _
  · split
    · exact hs.bump _
    · split
      · exact hs
      · split
        · exact hs.bump _
        · exact hs.passage _

/-! ### The boat register (R21 to R23) -/

/-- A boat that is not in the register has no entry and no throw: a new record that is WAITING without path agrees (R21). -/
theorem addBoat {b : Nat} {x : Boat} (hb : 1 ≤ b ∧ b ≤ 24) (hx : s.boatR b = none) (hst : x.state = .waiting) (hp : x.path = []) :
    (s.putBoat b (some x)).Bookings := by
  have hnone : ∀ y, s.boatR b = some y → False := fun y hy => by rw [hx] at hy; cases hy
  refine hs.changeBoat b (by simp) (by simp) (fun c hc => by rw [boatR_putBoat, if_neg fun h => hc h.1])
    (booking_free b (by rw [boatR_putBoat, if_pos ⟨rfl, hb⟩]) (.inl ⟨hst, hp⟩) ?_ fun r a hr => ?_)
  · rw [queued_of_queue (putBoat_queue _ _ _)]
    exact hs.not_queued fun y hy => (hnone y hy).elim
  · rw [release_of_rel (putBoat_rel _ _ _)] at hr
    exact hs.not_throwing (fun y hy => (hnone y hy).elim) hr a

/-- A WAITING boat has no entry and no throw: its record may go (R22). -/
theorem dropBoat {b : Nat} {x : Boat} (hx : s.boatR b = some x) (hst : x.state = .waiting) : (s.putBoat b none).Bookings := by
  refine hs.changeBoat b (by simp) (by simp) (fun c hc => by rw [boatR_putBoat, if_neg fun h => hc h.1])
    (booking_absent b (by rw [boatR_putBoat, if_pos ⟨rfl, boatR_range s hx⟩]) ?_ fun r a hr => ?_)
  · rw [queued_of_queue (putBoat_queue _ _ _)]
    exact hs.not_queued fun y hy => by rw [hx] at hy; cases hy; rw [hst]; decide
  · rw [release_of_rel (putBoat_rel _ _ _)] at hr
    exact hs.not_throwing (fun y hy => by rw [hx] at hy; cases hy; rw [hst]; decide) hr a

theorem modZs (z : Nat) (f : ZoneStatus → ZoneStatus) : (s.modZs z f).Bookings := hs.ofBook rfl

theorem placeBoat (b c z r : Nat) : (s.placeBoat b c z r).1.Bookings := by
  unfold State.placeBoat
  dsimp only
  split
  · exact hs
  · next hc =>
    obtain ⟨hb, hx⟩ := placeResult_ok (not_not.mp hc)
    exact ((hs.addBoat hb hx rfl rfl).modZs _ _).toBerth z book_berthArrive

theorem retireBoat (b : Nat) : (s.retireBoat b).1.Bookings := by
  unfold State.retireBoat
  dsimp only
  split
  · exact hs
  · next x hx =>
    split
    · exact hs
    · next hc =>
      have hw : x.state = .waiting := by
        by_contra hw
        revert hc
        unfold State.retireResult
        rw [hx]
        cases s.mode <;> simp [hw]
      exact (((hs.modZs x.zone _).dropBoat hx hw).toBerth x.zone (f := State.berthRetired) fun _ _ => rfl).runLeft _

theorem setRoute (b r : Nat) : (s.setRoute b r).1.Bookings := by
  unfold State.setRoute
  split
  · exact hs.modBoat b _ fun _ => ⟨rfl, rfl⟩
  · exact hs

theorem clearZone (z : Nat) : (s.clearZone z).1.Bookings := by
  unfold State.clearZone State.clearDefined
  split
  · exact hs
  · dsimp only
    refine toBerth ?_ z book_berthCleared
    split
    · exact hs.modZs z _
    · split
      · refine State.Bookings.startWatch ?_ z
        exact (hs.modZs z _).modBoat _ _ fun _ => ⟨rfl, rfl⟩
      · exact hs.modZs z _

end State.Bookings

/-! ### Resets (R148, R181) -/

theorem bookings_of_empty {s : State} (hq : s.queue = []) (hb : s.boats = Vector.replicate 24 none)
    (hr : s.rel = Vector.replicate 24 none) : s.Bookings :=
  (reservationsSound_iff.mp reset_reservationsSound).same hq hb hr

theorem bookings_wipe (s : State) : s.wipe.Bookings := bookings_of_empty rfl rfl rfl
theorem bookings_resetFull (s : State) : s.resetFull.Bookings := bookings_of_empty rfl rfl rfl
theorem bookings_powerOn (s : State) (a r : Nat) (e : Bool) : (s.powerOn a r e).Bookings := bookings_of_empty rfl rfl rfl

theorem bookings_resetRuntime (s : State) : s.resetRuntime.Bookings := by
  have h1 : ((List.range 6).foldl (fun s b => s.handBoth b) s.wipe).Bookings :=
    foldl_keeps (P := State.Bookings) (fun _ b ht => base_bookings.handBoth b ht) _ (bookings_wipe s)
  have h2 := (h1.ofBook (book_handBooster _ 0 .boosterSafe)).ofBook (book_handBooster _ 1 .boosterSafe)
  have h3 : s.wipe.resetHands.Bookings := base_bookings.closeGates ((h2.ofBook (book_engageRun _ 0)).ofBook (book_engageRun _ 1))
  exact base_bookings.clearEv (State.Bookings.driveLines (base_bookings.evalUserHolds
    (foldl_keeps (P := State.Bookings) (fun _ p ht => base_bookings.evalNodeHold p.1 ht) _ h3)))

namespace State.Bookings

variable {s : State} (hs : s.Bookings)
include hs

theorem thenStop : s.thenStop.Bookings := by
  unfold State.thenStop
  split
  · exact event (hs.goStop _)
  · exact hs

theorem resetOf (r : Request) : (s.resetOf r).Bookings := by
  unfold State.resetOf State.doReset
  split
  · exact hs
  · split
    · exact (bookings_resetRuntime _).thenStop
    · exact (bookings_resetFull _).thenStop

/-! ### Table writes (R176) -/

theorem modTab (f : Tables → Tables) : (s.modTab f).Bookings := hs.ofBook rfl

theorem storeZone (z : Nat) (x : Option ZoneEntry) : (s.storeZone z x).Bookings := by
  have h1 : (s.modTab fun t => { t with zone := t.zone.setIfInBounds z x }).Bookings := hs.modTab _
  unfold State.storeZone State.closeNamedGate
  dsimp only
  split
  · exact h1.ofBook rfl
  · have h2 := base_bookings.evalNodeHold z h1
    split
    · exact h2
    · split
      · exact h2
      · exact State.Bookings.hand h2 _ _

theorem dropNode (n : Nat) : (s.dropNode n).Bookings := by
  have h1 : ((s.putNode n .absent).putInputs n 0).Bookings := hs.ofBook rfl
  exact h1.reportRoster n _ _

theorem storeNode (n : Nat) (x : Option NodeEntry) : (s.storeNode n x).Bookings := by
  have h1 : (s.modTab fun t => { t with node := t.node.setIfInBounds n x }).Bookings := hs.modTab _
  unfold State.storeNode
  dsimp only
  split
  · split
    · split
      · exact base_bookings.handLimit n h1
      · exact h1
    · exact h1.dropNode n
  · exact h1.dropNode n

theorem storeAuth (a : Nat) (x : Option AuthEntry) : (s.storeAuth a x).Bookings := by
  unfold State.storeAuth
  dsimp only
  split
  · split <;> exact hs.ofBook rfl
  · exact hs.ofBook rfl
  · exact hs.ofBook rfl

theorem rewriteRun (r : Nat) : (s.rewriteRun r).Bookings := by
  unfold State.rewriteRun
  split
  · exact hs.ofBook rfl
  · exact (hs.modRun r _).ofBook (book_restoreRun _ r)

theorem storeStage (i : Nat) (x : StageEntry) : (s.storeStage i x).Bookings := by
  unfold State.storeStage
  dsimp only
  split
  · exact (hs.modTab _).rewriteRun _
  · exact hs.modTab _

theorem rewriteBerth (b : Nat) (x : Bool) : (s.rewriteBerth b x).Bookings := by
  have h1 : (s.modBerth b fun q => q.rewritten x).Bookings := hs.ofBook rfl
  exact base_bookings.handBoth b ((h1.ofBook (book_berthDerive _ b)).berthArrive b)

theorem storeBerth (b : Nat) (x : Option BerthEntry) : (s.storeBerth b x).Bookings := by
  have h1 : (s.modTab fun t => { t with berth := t.berth.setIfInBounds b x }).Bookings := hs.modTab _
  unfold State.storeBerth
  dsimp only
  split
  · exact h1.ofBook rfl
  · exact h1.rewriteBerth b _
  · exact h1.rewriteBerth b _

theorem storeEntry (t : Table) (i : Nat) (img : List Byte) : (s.storeEntry t i img).1.Bookings := by
  cases t with
  | zone => exact Whole.store (fun e _ => hs.storeZone i e) hs
  | cls => exact Whole.store (fun _ _ => hs.modTab _) hs
  | node => exact Whole.store (fun e _ => hs.storeNode i e) hs
  | authority => exact Whole.store (fun e _ => hs.storeAuth i e) hs
  | trap => exact Whole.store (fun _ _ => hs.modTab _) hs
  | launch => exact Whole.store (fun _ _ => hs.modTab _) hs
  | band => exact Whole.store (fun _ _ => hs.modTab _) hs
  | run => exact Whole.store (fun _ _ => (hs.modTab _).rewriteRun i) hs
  | stage => exact Whole.store (fun e _ => hs.storeStage i e) hs
  | berth => exact Whole.store (fun e _ => hs.storeBerth i e) hs
  | channel => exact Whole.store (fun _ _ => hs.modTab _) hs
  | user => exact Whole.store (fun _ _ => hs.modTab _) hs
  | zoneStatus => exact hs
  | boat => exact hs
  | nodeStatus => exact hs
  | actuatorStatus => exact hs
  | berthStatus => exact hs
  | counters => exact hs
  | checkResult => exact hs

theorem writeEntry (img : List Byte) : (s.writeEntry img).1.Bookings := by
  unfold State.writeEntry
  split
  · exact hs
  · have h1 := hs.storeEntry s.ptr.1 s.ptr.2 img
    dsimp only
    split
    · exact h1.ofBook rfl
    · exact h1

/-! ### Management records (R138, R173 to R181) -/

theorem recordConfig : s.recordConfig.1.Bookings := by
  unfold State.recordConfig
  split
  · exact hs
  · exact hs
  · exact hs
  · split
    · exact hs
    · split
      · exact hs
      · dsimp only
        exact hs.changeMode _ _
  · split
    · exact hs
    · split
      · exact hs
      · dsimp only
        exact hs.changeMode _ _

theorem recordRun : s.recordRun.1.Bookings := by
  unfold State.recordRun
  split
  · split
    · exact hs
    · dsimp only
      exact (hs.modMc _).changeMode _ _
  · exact hs
  · exact hs
  · split
    · exact hs
    · dsimp only
      exact hs.changeMode _ _
  · exact hs

theorem recordHold : s.recordHold.1.Bookings := by
  unfold State.recordHold
  split
  · exact hs
  · dsimp only
    exact hs.modMc _
  · dsimp only
    exact hs.changeMode _ _
  · exact hs
  · exact hs

theorem recordResume : s.recordResume.1.Bookings := by
  unfold State.recordResume
  split
  · exact hs
  · exact hs
  · exact hs
  · exact hs
  · split
    · exact hs
    · split
      · dsimp only
        exact hs.changeMode _ _
      · dsimp only
        exact hs.changeMode _ _

theorem recordStop : s.recordStop.1.Bookings := by
  unfold State.recordStop
  dsimp only
  exact hs.goStop _

theorem recordMode (v : Nat) : (s.recordMode v).1.Bookings := by
  unfold State.recordMode
  split
  · exact hs.recordConfig
  · exact hs.recordRun
  · exact hs.recordHold
  · exact hs.recordResume
  · exact hs.recordStop
  · exact hs

theorem recordInject (c : Nat) : (s.recordInject c).1.Bookings := by
  unfold State.recordInject
  split
  · exact hs
  · dsimp only
    exact hs.pulseChan c _

theorem recordMask (m : BitVec 24) : (s.recordMask m).1.Bookings := by
  unfold State.recordMask
  split
  · exact hs
  · exact hs.ofBook rfl

theorem carry (m : MgmtRecord) : (s.carry m).1.Bookings := by
  cases m with
  | selectTable _ => exact hs
  | selectIndex _ => exact hs
  | write img => exact hs.writeEntry img
  | read => exact hs.ofBook rfl
  | mode v => exact hs.recordMode v
  | placeBoat b c z r => exact hs.placeBoat b c z r
  | retireBoat b => exact hs.retireBoat b
  | setRoute b r => exact hs.setRoute b r
  | clearZone z => exact hs.clearZone z
  | injectTrigger c => exact hs.recordInject c
  | clearCounters => exact hs.ofBook rfl
  | noticeMask m => exact hs.recordMask m
  | status => exact hs
  | reset _ => exact hs

theorem setReq (r : Option Request) : ({ s with req := r } : State).Bookings := hs.ofBook rfl

theorem openRequest : s.openRequest.Bookings := by
  unfold State.openRequest
  split
  · exact hs
  · split
    · exact (hs.setReq _).bump _
    · exact hs.setReq _

theorem answer (r : Request) (l : List MgmtResult) : (s.answer r l).Bookings := hs.ofBook rfl

theorem takeRecord (m : MgmtRecord) : (s.takeRecord m).Bookings := by
  unfold State.takeRecord
  split
  · exact hs
  · split
    · exact hs
    · split
      · exact hs.setReq _
      · split
        · exact hs.setReq _
        · split
          · exact hs.setReq _
          · unfold State.takeSelectIndex State.setPointer
            split
            · exact hs.setReq _
            · refine setReq ?_ _
              split
              · exact hs
              · split
                · exact hs.ofBook rfl
                · exact hs
          · unfold State.takeReset
            dsimp only
            split <;> exact hs.setReq _
          · exact (hs.carry m).answer _ _

theorem respond (l : List MgmtResult) : (s.respond l).Bookings := base_bookings.pumpUp (hs.ofBook rfl)

theorem closeRequest : s.closeRequest.Bookings := by
  unfold State.closeRequest
  split
  · exact hs
  · split
    · exact hs.setReq _
    · exact ((hs.resetOf _).setReq _).respond _

theorem at_ (t : Nat) : (s.at_ t).Bookings := hs.ofBook rfl

/-- A management record is an event, and its frame may end with it. -/
theorem manage (t : Nat) (last : Bool) (m : MgmtRecord) {u : State} (hu : s.manage t last m = .next u) : u.Bookings := by
  have h1 : (State.event (fun s => s.openRequest.takeRecord m) (s.at_ t)).Bookings := event (((hs.at_ t).openRequest).takeRecord m)
  revert hu h1
  unfold State.manage
  generalize State.event (fun s => s.openRequest.takeRecord m) (s.at_ t) = v
  intro hu h1
  cases last <;> cases hu
  · exact h1
  · exact h1.closeRequest

/-! ### The line (R163 to R167) -/

theorem takeNodeRecord (own : Bool) (src : Nat) (r : NodeRecord) : (s.takeNodeRecord own src r).Bookings := by
  unfold State.takeNodeRecord
  split
  · exact hs.takeMarker _ _ _
  · exact hs.takeTrap _ _ _
  · exact hs.takeBerth _ _ _ _
  · exact hs.takeWeight _ _ _ _
  · exact hs.takeTag _ _ _
  · split
    · exact hs.takeReady _ _
    · exact hs.takeDone _ _
    · exact hs.bump _
  · exact hs.takeHeartbeat _ _
  · exact hs.takeHello _ _
  · split
    · exact hs.takeLimitAck _
    · exact hs
  · split
    · split
      · exact hs.ackAccepted _ _ _
      · exact hs.ackRefused _ _ _
      · exact hs.bump _
    · exact hs

theorem takeNodeRecords (own : Bool) (src : Nat) (l : List RawRecord) : (s.takeNodeRecords own src l).Bookings :=
  foldl_keeps (P := State.Bookings) (fun _ r ht => event (ht.takeNodeRecord own src r)) _ hs

theorem forward (p : Port) (f : QFrame) : (s.forward p f).Bookings := by
  unfold State.forward
  split
  · split
    · exact base_bookings.pumpUp (hs.ofBook rfl)
    · exact hs.bump _
  · split
    · exact base_bookings.pumpDn (hs.ofBook rfl)
    · exact hs.bump _

theorem takeDown (f : List Byte) : (s.takeDown f).Bookings := by
  unfold State.takeDown
  split
  · dsimp only
    split
    · exact hs.bump _
    · exact (hs.bump _).forward _ _
  · split
    · split
      · exact hs.takeNodeRecords _ _ _
      · exact hs.bump _
    · exact (hs.takeNodeRecords _ _ _).forward _ _

theorem adopt (p : Nat × ActValue) : (s.adopt p).Bookings := by
  unfold State.adopt
  split
  · exact hs
  · exact (hs.removeEntry _).putAct _ _

theorem takeCommands (f : List Byte) (q : Option (List RawRecord)) : (s.takeCommands f q).Bookings := by
  unfold State.takeCommands
  split
  · split
    · exact hs.forward _ _
    · exact hs.notice _
  · next l =>
    split
    · exact hs
    · split
      · exact State.Bookings.forward (foldl_keeps (P := State.Bookings) (fun _ p ht => ht.adopt p) _ hs) _ _
      · have h1 : ((l.filter (s.removed (frameDst f))).foldl (fun s r => s.reportRemoved (frameDst f) r) s).Bookings :=
          foldl_keeps (P := State.Bookings) (fun _ r ht => (ht.bump _).notice _) _ hs
        unfold State.filterCommands
        dsimp only
        split
        · exact h1
        · split <;> exact h1.forward _ _

theorem takeRequest (q : Option (List RawRecord)) : (s.takeRequest q).Bookings := by
  have h1 := hs.closeRequest.openRequest
  unfold State.takeRequest
  dsimp only
  split
  · split
    · exact h1.closeRequest
    · split
      · exact (h1.setReq _).respond _
      · exact closeRequest (foldl_keeps (P := State.Bookings) (fun _ r ht => event (ht.takeRecord _)) _ h1)
  · split
    · exact h1.closeRequest
    · exact (h1.setReq _).respond _
  · exact h1

theorem takeUp (f : List Byte) : (s.takeUp f).Bookings := by
  have h1 : (if (parseFrame f).isNone then s.bump .malformed else s).Bookings := by
    split
    · exact hs.bump _
    · exact hs
  unfold State.takeUp
  revert h1
  dsimp only
  generalize (if (parseFrame f).isNone then s.bump .malformed else s) = t
  intro h1
  split
  · split
    · exact h1.takeRequest _
    · exact h1.bump _
  · split
    · exact event (h1.takeCommands f _)
    · split
      · exact (h1.bump _).forward _ _
      · exact h1.forward _ _

theorem receive (p : Port) (f : List Byte) (x : Bool) : (s.receive p f x).Bookings := by
  unfold State.receive State.takeFrame
  split
  · exact hs.bump _
  · split
    · exact hs.bump _
    · have h1 := event (f := fun s => s.heard (frameSrc f)) ((hs.bump (receivedCounter p)).heard (frameSrc f))
      dsimp only
      split
      · exact h1.takeUp f
      · exact h1.takeDown f

theorem sent (p : Port) : (s.sent p).Bookings := by
  unfold State.sent
  split
  · exact base_bookings.pumpUp (hs.ofBook rfl)
  · exact base_bookings.pumpDn (hs.ofBook rfl)

theorem resend : s.resend.Bookings := State.Bookings.ofBook (s := { s with resendDue := [] }) (hs.ofBook rfl) (book_handAll _ _)

/-! ### Every command -/

theorem command (t : Nat) (f : State → State) (hf : ∀ {s : State}, s.Bookings → (f s).Bookings) {u : State}
    (hu : s.command t f = .next u) : u.Bookings := by
  unfold State.command at hu
  injection hu with hu
  rw [← hu]
  exact event (hf (hs.at_ t))

theorem setPending (q : List Instr) : ({ s with pending := q } : State).Bookings := hs.ofBook rfl

theorem exec (c : Instr) {u : State} (hu : Machine.exec c s = .next u) : u.Bookings := by
  cases c with
  | powerOn t a r e =>
    simp only [Machine.exec, execPowerOn] at hu
    injection hu with hu
    rw [← hu]
    exact (bookings_powerOn _ a r e).thenStop
  | frameReceived t p f x =>
    simp only [Machine.exec, execFrameReceived] at hu
    injection hu with hu
    rw [← hu]
    exact (hs.at_ t).receive _ _ _
  | estopAsserted t => exact hs.command t _ (fun h => (h.modMc _).goStop _) hu
  | estopReleased t => exact hs.command t _ (fun h => h.modMc _) hu
  | frameSent t p => exact hs.command t _ (fun h => h.sent p) hu
  | actuatorFramePlace t => exact hs.command t _ (fun h => base_bookings.pumpDn h) hu
  | responsePlace t => exact hs.command t _ (fun h => base_bookings.pumpUp h) hu
  | noticeFrameBuild t => exact hs.command t _ (fun h => base_bookings.pumpUp h) hu
  | supervisorCommandResend t => exact hs.command t _ (fun h => h.resend) hu
  | marker t a b c => exact hs.command t _ (fun h => h.takeMarker a b c) hu
  | trap t a b c => exact hs.command t _ (fun h => h.takeTrap a b c) hu
  | berth t a b c d => exact hs.command t _ (fun h => h.takeBerth a b c d) hu
  | weight t a b c d => exact hs.command t _ (fun h => h.takeWeight a b c d) hu
  | tag t a b c => exact hs.command t _ (fun h => h.takeTag a b c) hu
  | boosterReady t a b => exact hs.command t _ (fun h => h.takeReady a b) hu
  | boosterDone t a b => exact hs.command t _ (fun h => h.takeDone a b) hu
  | heartbeat t a b => exact hs.command t _ (fun h => h.takeHeartbeat a b) hu
  | hello t a b => exact hs.command t _ (fun h => h.takeHello a b) hu
  | limitAck t a => exact hs.command t _ (fun h => h.takeLimitAck a) hu
  | ackAccepted t a b c => exact hs.command t _ (fun h => h.ackAccepted a b c) hu
  | ackRefused t a b c => exact hs.command t _ (fun h => h.ackRefused a b c) hu
  | ackTimerExpiry t a => exact hs.command t _ (fun h => h.ackExpiry a) hu
  | joinTimerExpiry t n => exact hs.command t _ (fun h => h.joinExpiry n) hu
  | nodeSilent t n => exact hs.command t _ (fun h => h.silentExpiry n) hu
  | nodeLostSilence t n => exact hs.command t _ (fun h => h.lostExpiry n) hu
  | watchExpiry t z => exact hs.command t _ (fun h => h.watchExpiry z) hu
  | chargeTimerExpiry t k => exact hs.command t _ (fun h => h.chargeExpiry k) hu
  | doneTimerExpiry t k => exact hs.command t _ (fun h => h.doneExpiry k) hu
  | cooldownExpiry t k => exact hs.command t _ (fun h => h.cooldownExpiry k) hu
  | auxPulseExpiry t x => exact hs.command t _ (fun h => h.auxExpiry x) hu
  | checkItem t => exact hs.command t _ (fun h => h.takeCheckItem) hu
  | selectTable t l a => exact hs.manage t l _ hu
  | selectIndex t l a => exact hs.manage t l _ hu
  | write t l a => exact hs.manage t l _ hu
  | read t l => exact hs.manage t l _ hu
  | modeConfig t l => exact hs.manage t l _ hu
  | modeRun t l => exact hs.manage t l _ hu
  | modeHold t l => exact hs.manage t l _ hu
  | modeResume t l => exact hs.manage t l _ hu
  | modeStop t l => exact hs.manage t l _ hu
  | placeBoat t l a b c d => exact hs.manage t l _ hu
  | retireBoat t l a => exact hs.manage t l _ hu
  | setRoute t l a b => exact hs.manage t l _ hu
  | clearZone t l a => exact hs.manage t l _ hu
  | injectTrigger t l a => exact hs.manage t l _ hu
  | clearCounters t l => exact hs.manage t l _ hu
  | noticeMask t l a => exact hs.manage t l _ hu
  | status t l => exact hs.manage t l _ hu
  | resetRuntime t l => exact hs.manage t l _ hu
  | resetFull t l => exact hs.manage t l _ hu

theorem step {u : State} (hu : Machine.step s = .next u) : u.Bookings := by
  unfold Machine.step at hu
  split at hu
  · injection hu with hu
    rw [← hu]
    exact hs
  · exact (hs.setPending _).exec _ hu

end State.Bookings

theorem step_keeps_reservationsSound {s u : State} (hs : s.reservationsSound) (hu : step s = .next u) : u.reservationsSound :=
  reservationsSound_iff.mpr ((reservationsSound_iff.mp hs).step hu)

/-- Settles O4: queues, numbers and the command list are bounded through every update (`Booked`), and boats, queue entries and
releases agree through every operation of path reservation (`State.Bookings`). -/
theorem stepKeepsBounds : Obligations.StepKeepsBounds :=
  ⟨fun _ _ => step_keeps_queuesBounded, fun _ _ => step_keeps_numbersBounded, fun _ _ => step_keeps_listUnique,
    fun _ _ => step_keeps_reservationsSound⟩

end Sys2Proof.Machine
end

section
/-! Of the commands of the site only a MARKER moves a boat (R18): settles O15. -/

namespace Sys2Proof.Machine

/-- Where a boat stands and since when, with its class and its route. -/
def Boat.course (x : Boat) : Nat × Nat × Route × Nat := (x.zone, x.cls, x.route, x.entryTime)

theorem Boat.Soft.course {x y : Boat} (h : x.Soft y) : y.course = x.course := by
  obtain ⟨hc, hr, hz, _, he⟩ := h.keeps
  unfold Boat.course
  rw [hc, hr, hz, he]

/-- Every update of which commands other than entries are made keeps every boat's course. -/
theorem calm_courses (v : Nat → Option (Nat × Nat × Route × Nat)) : Calm fun t => ∀ b, (t.boatR b).map Boat.course = v b := by
  have same : ∀ {s t : State}, t.boats = s.boats → (∀ b, (s.boatR b).map Boat.course = v b) → ∀ b, (t.boatR b).map Boat.course = v b :=
    fun h hs b => by rw [boatR_of_boats h]; exact hs b
  have changed : ∀ {s : State} c f, (∀ x : Boat, (f x).course = x.course) → (∀ b, (s.boatR b).map Boat.course = v b) →
      ∀ b, ((s.modBoat c f).boatR b).map Boat.course = v b := by
    intro s c f hf hs b
    rw [boatR_modBoat]
    split
    · next hc =>
      rw [hc, ← hs c, Option.map_map]
      exact congrArg (fun g => (s.boatR c).map g) (funext hf)
    · exact hs b
  exact {
    startUp := fun hs => hs
    placeHeld := fun {s} hs => same (placeHeld_boats_zs s).1 hs
    buildNotice := fun {s} hs => same (buildNotice_boats_zs s).1 hs
    startDn := fun hs => hs
    placeLimit := fun _ _ _ hs => hs
    placeCommands := fun _ _ hs => hs
    queueNotice := fun _ _ hs => hs
    dropNotice := fun hs => hs
    handRaw := fun {s} a v _ hs => same (handRaw_boats_zs s a v).1 hs
    handAny := fun {s} a v _ hs => same (handRaw_boats_zs s a v).1 hs
    modEv := fun _ hs => hs
    putZs := fun _ _ _ hs => hs
    putBerth := fun _ _ _ hs => hs
    putNode := fun _ _ _ hs => hs
    modBoat := fun c f hf hs => changed c f (fun x => (hf x).course) hs
    putRel := fun _ _ hs => same (by simp) hs
    filterQueue := fun _ hs => hs
    putSeq := fun _ _ _ _ hs => hs
    driveLines := fun hs => hs
    bump := fun _ hs => hs
    useFree := fun hs => hs
    putRun := fun _ _ hs => hs
    setQueue := fun _ _ hs => hs
    looseZs := fun _ _ _ hs => hs
    looseBerth := fun _ _ hs => hs
    looseSeq := fun _ _ _ hs => hs
    loosePulse := fun _ _ hs => hs
    tripBoat := fun c f hf hs => changed c f (fun x => by
      obtain ⟨hz, hc, hr, he⟩ := hf x
      unfold Boat.course
      rw [hz, hc, hr, he]) hs
    modMc := fun _ hs => hs }

/-- A calm property of zones and boats alone, which the end of the watches keeps (R35), is kept by every command of the site
but an entry. -/
theorem Calm.toSite {P : State → Prop} (h : Calm P) (same : ∀ {s u : State}, P s → u.zs = s.zs → u.boats = s.boats → P u)
    (watches : ∀ {s : State}, P s → P s.stopWatches) : Site P where
  toModal := h.toModal
  at_ _ hs := same hs rfl rfl
  setRoster _ _ hs := same hs rfl rfl
  putInputs _ _ hs := same hs rfl rfl
  keepCmds _ hs := same hs rfl rfl
  confirm _ _ hs := same hs rfl rfl
  estop _ hs := h.modMc _ hs
  checkNext _ _ _ hs := h.modMc _ hs
  checkFailed _ _ _ hs := h.changeMode watches _ _ (h.modMc _ hs)
  checkPassed _ hs := by
    unfold State.checkPassed
    dsimp only
    split
    · exact h.changeMode watches _ _ (h.modMc _ hs)
    · exact h.changeMode watches _ _ (h.modMc _ hs)
  sentUp hs := same hs rfl rfl
  sentDn _ hs := same hs rfl rfl
  setResendDue _ hs := same hs rfl rfl

theorem site_occupants (v : Nat → Option Nat) : Site fun t => ∀ w, t.occupant w = v w :=
  (calm_occupants v).toSite (fun hs hz _ w => by unfold State.occupant State.zst at *; rw [hz]; exact hs w)
    fun {s} hs w => (stopWatches_loose s w).1.trans (hs w)

theorem site_courses (v : Nat → Option (Nat × Nat × Route × Nat)) : Site fun t => ∀ b, (t.boatR b).map Boat.course = v b :=
  (calm_courses v).toSite (fun hs _ hb b => by rw [boatR_of_boats hb]; exact hs b) fun hs => hs

/-- Every command has a meaning. -/
theorem exec_completes (c : Instr) (s : State) : ∃ u, exec c s = .next u := by
  cases c <;> exact ⟨_, rfl⟩

/-- Settles O15: what the commands of the site but an entry are made of keeps every occupant and every course. -/
theorem onlyMarkersMoveBoats : Obligations.OnlyMarkersMoveBoats := by
  intro c s hc hmarker
  obtain ⟨u, hu⟩ := exec_completes c s
  refine ⟨u, hu, fun z => ?_, fun b => ?_⟩
  · exact (site_occupants s.occupant).exec c hc (fun src n e ⟨t, ht⟩ _ => absurd ht (hmarker t src n e)) hu (fun _ => rfl) z
  · exact (site_courses fun b => (s.boatR b).map Boat.course).exec c hc (fun src n e ⟨t, ht⟩ _ => absurd ht (hmarker t src n e)) hu
      (fun _ => rfl) b

end Sys2Proof.Machine
end

section
/-! Records that match nothing or are malformed only advance their counters (R25, R64, R77, R92, R97, R119, R130, R132, R185):
settles O28. -/

namespace Sys2Proof.Machine

/-- A command is one event, whatever its effect is called. -/
theorem command_congr {s : State} {t : Nat} {f g : State → State} (h : f (s.at_ t) = g (s.at_ t)) :
    s.command t f = .next (State.event g (s.at_ t)) := by
  unfold State.command
  rw [event_congr h]

section
variable {s : State} {src : Nat}

/-! ### Markers and traps -/

theorem takeMarker_malformed {sensor edge : Nat} (h : 7 < sensor ∨ 1 < edge) : s.takeMarker src sensor edge = s.bump .malformed := by
  unfold State.takeMarker
  split
  · rfl
  · next hs => exact if_pos (h.resolve_left hs)

theorem takeMarker_cleared {sensor : Nat} (h : sensor ≤ 7) : s.takeMarker src sensor 1 = s := by
  unfold State.takeMarker
  rw [if_neg (Nat.not_lt.mpr h), if_neg (Nat.lt_irrefl 1), if_pos rfl]

theorem takeMarker_unknown {sensor : Nat} (h : sensor ≤ 7) (hz : ((s.nodeOfAddress src).bind fun n => s.zoneOfMarker n sensor) = none) :
    s.takeMarker src sensor 0 = s.bump .unknownMarker := by
  unfold State.takeMarker
  rw [if_neg (Nat.not_lt.mpr h), if_neg (Nat.not_lt.mpr (Nat.zero_le 1)), if_neg Nat.zero_ne_one, hz]

theorem takeTrap_malformed {pair interval : Nat} (h : 1 < pair) : s.takeTrap src pair interval = s.bump .malformed := if_pos h

theorem takeTrap_unmatched {pair interval : Nat} (h : pair ≤ 1) (ht : ((s.nodeOfAddress src).bind fun n => s.trapOf n pair) = none) :
    s.takeTrap src pair interval = s.bump .unmatchedTrap := by
  unfold State.takeTrap
  rw [if_neg (Nat.not_lt.mpr h), ht]

/-! ### Berth records -/

theorem takeBerth_unmatched {p l x : Bool} (h : s.berthOfSource src = none) : s.takeBerth src p l x = s.bump .unmatchedBerth := by
  unfold State.takeBerth
  rw [h]

theorem takeWeight_unmatched {scale : Nat} {kg : Int} {settled : Bool}
    (h : ∀ b e, s.berthOfSource src = some (b, e) → e.role ≠ .pad ∨ e.scale ≠ some scale) :
    s.takeWeight src scale kg settled = s.bump .unmatchedBerth := by
  unfold State.takeWeight
  split
  · rfl
  · next b e hb => exact if_pos (h b e hb)

theorem takeTag_unmatched {reader number b : Nat} {e : BerthEntry} (hb : s.berthOfSource src = some (b, e)) (hr : e.role = .unload)
    (h : e.reader ≠ some reader) : s.takeTag src reader number = s.bump .unmatchedBerth := by
  unfold State.takeTag
  rw [hb]
  dsimp only
  rw [if_neg (not_not.mpr hr), if_pos h]

/-! ### Booster records -/

/-- The section that a BOOSTER record matches is defined (R82). -/
theorem boosterMatch_defined {num k : Nat} (h : s.boosterMatch src num = some k) : ∃ e, s.launchE k = some e := by
  unfold State.boosterMatch at h
  obtain ⟨n, _, hn⟩ := Option.bind_eq_some_iff.mp h
  have hk := List.find?_some hn
  obtain ⟨e, he, _⟩ := (Option.any_eq_true _ _).mp hk
  exact ⟨e, he⟩

theorem takeReady_unmatched {num : Nat} (h : s.boosterMatch src num = none) : s.takeReady src num = s.bump .unmatchedBooster := by
  unfold State.takeReady
  rw [h]

theorem takeDone_unmatched {num : Nat} (h : s.boosterMatch src num = none) : s.takeDone src num = s.bump .unmatchedBooster := by
  unfold State.takeDone
  rw [h]

theorem takeReady_stale {num k : Nat} (h : s.boosterMatch src num = some k) (hq : (s.seqS k).state ≠ .charging) :
    s.takeReady src num = s.bump .staleBooster := by
  obtain ⟨e, he⟩ := boosterMatch_defined h
  unfold State.takeReady
  rw [h]
  dsimp only
  rw [he]
  dsimp only
  split
  · next hc => exact absurd hc hq
  all_goals rfl

theorem takeDone_stale {num k : Nat} (h : s.boosterMatch src num = some k) (hc : (s.seqS k).state ≠ .charging)
    (hf : (s.seqS k).state ≠ .firing) : s.takeDone src num = s.bump .staleBooster := by
  obtain ⟨e, he⟩ := boosterMatch_defined h
  unfold State.takeDone
  rw [h]
  dsimp only
  rw [he]
  dsimp only
  split
  · next hq => exact absurd hq hf
  · next hq => exact absurd hq hc
  all_goals rfl

/-! ### HELLO and ACK -/

theorem ofCode_kind_none {kind : Nat} (h : 5 < kind) : NodeKind.ofCode kind = none := by
  obtain ⟨k, rfl⟩ := Nat.exists_eq_add_of_le' h
  rfl

theorem ofCode_kind_some {kind : Nat} (h : kind ≤ 5) : ∃ k, NodeKind.ofCode kind = some k := by
  interval_cases kind <;> exact ⟨_, rfl⟩

theorem takeHello_malformed {kind : Nat} (h : 5 < kind) : s.takeHello src kind = s.bump .malformed := by
  unfold State.takeHello
  rw [ofCode_kind_none h]

theorem takeHello_unknown {kind : Nat} (h : kind ≤ 5) (hn : s.nodeOfAddress src = none) : s.takeHello src kind = s.bump .unknownNode := by
  obtain ⟨k, hk⟩ := ofCode_kind_some h
  unfold State.takeHello
  rw [hk]
  dsimp only
  rw [hn]

theorem cmds_evalNodeHolds (s : State) (n : Nat) : (s.evalNodeHolds n).cmds = s.cmds := by
  refine foldl_view State.cmds (fun t p => ?_) _ s
  unfold State.evalNodeHold
  split
  · rfl
  · split <;> rfl

/-- A SILENT node that is heard becomes ACTIVE, which is present: the NODE holds alone are told (R121, R122). -/
theorem changeNode_active {n : Nat} (h : (s.nodeS n).state ≠ .active) :
    s.changeNode n .active none = (s.modNode n fun q => { q with state := .active, join := none }).evalNodeHolds n := by
  unfold State.changeNode State.nodeNotice State.reportRoster
  dsimp only
  rw [if_neg h, if_neg h, if_neg (by simp [Roster.present])]

/-- A sign of life keeps what updates of the roster and the NODE holds keep (R118, R121). -/
theorem heard_keeps {P : State → Prop} (hnode : ∀ {t : State} n q, P t → P (t.putNode n q)) (hholds : ∀ {t : State} n, P t → P (t.evalNodeHolds n))
    (src : Nat) (hs : P s) : P (s.heard src) := by
  unfold State.heard State.signOfLife
  split
  · exact hs
  · next n _ =>
    split
    · exact hs
    · have h1 : P (s.modNode n fun q => { q with lastHeard := some s.now }) := hnode n _ hs
      dsimp only
      split
      · next hq =>
        rw [changeNode_active]
        · exact hholds n (hnode n _ h1)
        · unfold State.modNode
          rw [nodeS_putNode]
          split <;> simp [hq]
      · exact h1

theorem cmds_heard (s : State) (src : Nat) : (s.heard src).cmds = s.cmds :=
  heard_keeps (P := fun t => t.cmds = s.cmds) (fun _ _ ht => ht) (fun n ht => (cmds_evalNodeHolds _ n).trans ht) src rfl

theorem tab_heard (s : State) (src : Nat) : (s.heard src).tab = s.tab :=
  heard_keeps (P := fun t => t.tab = s.tab) (fun _ _ ht => ht) (fun n ht => (still_tab s.tab).evalNodeHolds n ht) src rfl

/-- A sign of life leaves it to the record which list entry it matches. -/
theorem ackMatch_heard (s : State) (src num tagNo : Nat) : (s.heard src).ackMatch src num tagNo = s.ackMatch src num tagNo := by
  have hc := cmds_heard s src
  have ht := tab_heard s src
  unfold State.ackMatch State.nodeOfAddress State.authOf State.nodeE State.authE
  rw [hc, ht]

/-- The authority entry of a node and an actuator number (R124). -/
theorem authOf_spec {n num a : Nat} (h : s.authOf n num = some a) : ∃ x, s.authE a = some x ∧ x.node = n ∧ x.num = num := by
  have ha := List.find?_some h
  obtain ⟨x, hx, hp⟩ := (Option.any_eq_true _ _).mp ha
  obtain ⟨hn, hm⟩ := Bool.and_eq_true_iff.mp hp
  exact ⟨x, hx, eq_of_beq hn, eq_of_beq hm⟩

/-- No entry of the actuator an ACK names has been sent with its tag (R132). -/
theorem ackMatch_stale {num tagNo n : Nat} (hn : s.nodeOfAddress src = some n)
    (h : ∀ c ∈ s.cmds, ∀ x, s.authE c.act = some x → x.node = n → x.num = num → c.sent = none ∨ c.tag ≠ tagNo) :
    s.ackMatch src num tagNo = none := by
  unfold State.ackMatch
  rw [hn, Option.bind_some]
  cases ha : s.authOf n num with
  | none => rfl
  | some a =>
    obtain ⟨x, hx, hxn, hxm⟩ := authOf_spec ha
    refine List.find?_eq_none.mpr fun c hc hp => ?_
    obtain ⟨hp, htag⟩ := Bool.and_eq_true_iff.mp hp
    obtain ⟨hact, hsent⟩ := Bool.and_eq_true_iff.mp hp
    rcases h c hc x (by rw [eq_of_beq hact]; exact hx) hxn hxm with hnone | hne
    · rw [hnone] at hsent
      cases hsent
    · exact hne (eq_of_beq htag)

theorem heard_unknown (h : s.nodeOfAddress src = none) : s.heard src = s := by
  unfold State.heard
  rw [h]

theorem takeAck_malformed {num tagNo : Nat} {use : State → CmdEntry → State} (h : 15 < num) :
    s.takeAck src num tagNo use = (s.heard src).bump .malformed := if_pos h

theorem takeAck_stale {num tagNo : Nat} {use : State → CmdEntry → State} (h : num ≤ 15) (hm : s.ackMatch src num tagNo = none) :
    s.takeAck src num tagNo use = (s.heard src).bump .staleAck := by
  unfold State.takeAck
  dsimp only
  rw [if_neg (Nat.not_lt.mpr h), ackMatch_heard, hm]

theorem ackMatch_unknown {num tagNo : Nat} (h : s.nodeOfAddress src = none) : s.ackMatch src num tagNo = none := by
  unfold State.ackMatch
  rw [h]
  rfl

theorem takeAck_unknown {num tagNo : Nat} {use : State → CmdEntry → State} (h : num ≤ 15) (hn : s.nodeOfAddress src = none) :
    s.takeAck src num tagNo use = s.bump .staleAck := by
  rw [takeAck_stale h (ackMatch_unknown hn), heard_unknown hn]

end

/-- Settles O28: each record's effect is the counter's step, and the event follows from it. -/
theorem unusedRecordsAreCounted : Obligations.UnusedRecordsAreCounted :=
  ⟨fun _ _ _ _ _ h => command_congr (takeMarker_malformed h),
    fun _ _ _ _ h => command_congr (g := id) (takeMarker_cleared h),
    fun _ _ _ _ h hz => command_congr (takeMarker_unknown h hz),
    fun _ _ _ _ _ h => command_congr (takeTrap_malformed h),
    fun _ _ _ _ _ h ht => command_congr (takeTrap_unmatched h ht),
    fun _ _ _ _ _ _ h => command_congr (takeBerth_unmatched h),
    fun _ _ _ _ _ _ h => command_congr (takeWeight_unmatched h),
    fun _ _ _ _ _ _ _ hb hr h => command_congr (takeTag_unmatched hb hr h),
    fun _ _ _ _ h => ⟨command_congr (takeReady_unmatched h), command_congr (takeDone_unmatched h)⟩,
    fun _ _ _ _ _ h hq => command_congr (takeReady_stale h hq),
    fun _ _ _ _ _ h hc hf => command_congr (takeDone_stale h hc hf),
    fun _ _ _ _ h => command_congr (takeHello_malformed h),
    fun _ _ _ _ h hn => command_congr (takeHello_unknown h hn),
    fun _ _ _ _ _ hn h => ⟨command_congr (takeAck_unknown h hn), command_congr (takeAck_unknown h hn)⟩,
    fun _ _ _ _ _ _ hn h hc => ⟨command_congr (takeAck_stale h (ackMatch_stale hn hc)), command_congr (takeAck_stale h (ackMatch_stale hn hc))⟩,
    fun _ _ _ _ _ h => ⟨command_congr (takeAck_malformed h), command_congr (takeAck_malformed h)⟩⟩

end Sys2Proof.Machine
end

section
/-! A boat without queue entry that is not GRANTED: neither a return of reservations nor a grant concerns it, in any mode. With it
the entry of a boat into the first zone of its path (R27, R33): settles O29. -/

namespace Sys2Proof.Machine

/-- Boat `b` has no queue entry and is not GRANTED, and its record has a property. -/
def State.aside (s : State) (b : Nat) (B : Boat → Prop) : Prop := s.queued b = false ∧ s.stays b B

namespace State.aside

variable {s : State} {b : Nat} {B : Boat → Prop}

theorem ofBook {u : State} (hs : s.aside b B) (h : u.book = s.book) : u.aside b B :=
  ⟨(queued_of_queue (queue_of_book h) b).trans hs.1, hs.2.same (boats_of_book h)⟩

theorem base (b : Nat) (B : Boat → Prop) : Base fun t => t.aside b B := base_of_book fun hs h => hs.ofBook h

variable (hs : s.aside b B)
include hs

theorem launchAbort (k : Nat) (r : AbortReason) : (s.launchAbort k r).aside b B :=
  ⟨(queued_of_queue (queue_launchAbort s k r) b).trans hs.1, hs.2.launchAbort k r⟩

theorem abortCharge (k : Nat) (r : AbortReason) : (s.abortCharge k r).aside b B := by
  unfold State.abortCharge
  split
  · exact hs.launchAbort k r
  · exact hs

theorem pulse (g : Gen) : (s.pulse g).aside b B := by
  refine foldl_keeps (P := fun t => t.aside b B) (fun t c ht => ?_) _ hs
  split
  · refine foldl_keeps (P := fun t => t.aside b B) (fun t u ht => ?_) _ ((base b B).deliverPulse (fun _ h => h) c .generated ht)
    split
    · exact ht.abortCharge _ _
    · exact ht
  · exact ht

theorem abortInhibited : s.abortInhibited.aside b B := by
  refine foldl_keeps (P := fun t => t.aside b B) (fun t k ht => ?_) _ hs
  split
  · exact ht.abortCharge k _
  · exact ht

/-! ### Grants of other boats -/

theorem putRel (c : Nat) (x : Option Release) : (s.putRel c x).aside b B :=
  ⟨(queued_of_queue (putRel_queue s c x) b).trans hs.1, hs.2.same (putRel_boats s c x)⟩

theorem chargeStart (k c : Nat) : (s.chargeStart k c).aside b B := by
  unfold State.chargeStart
  split
  · exact hs
  · have h1 : (s.putSeq k { Seq.idle with state := .charging, boat := some c, band := ((s.boatR c).bind fun x => x.band).map (·.2) }).aside b B := hs
    dsimp only
    split
    · exact h1.launchAbort k _
    · split
      · exact h1.launchAbort k _
      · refine State.aside.ofBook ?_ (book_hand _ _ _)
        exact h1

theorem openGate (e : QEntry) (z : ZoneEntry) : (s.openGate e z).aside b B := by
  have h1 := hs.putRel e.boat (some ⟨e, .gate⟩)
  unfold State.openGate
  dsimp only
  split
  · exact h1
  · exact h1.ofBook (book_hand _ _ _)

theorem beginRelease (e : QEntry) (z : ZoneEntry) : (s.beginRelease e z).aside b B := by
  unfold State.beginRelease
  split
  · dsimp only
    split
    · exact hs.putRel _ _
    · exact (hs.putRel _ _).chargeStart _ _
  · split
    · exact (hs.putRel _ _).ofBook (book_hand _ _ _)
    · exact hs.openGate e z
  · exact hs.openGate e z
  · exact hs.openGate e z
  · exact hs.openGate e z
  · exact hs
  · exact hs

/-- A grant concerns the boat of its entry (R47). -/
theorem grant {e : QEntry} (he : e.boat ≠ b) : (s.grant e).aside b B := by
  have h1 : (s.taken e).aside b B := by
    obtain ⟨hq, y, hy, h⟩ := hs
    exact ⟨by rw [queued_taken, hq]; rfl, y, by rw [boatR_taken, if_neg (Ne.symm he)]; exact hy, h⟩
  have h2 := h1.ofBook (book_toldGranted (s.taken e) e.origin)
  rw [grant_taken]
  split
  · exact h2
  · exact h2.beginRelease e _

theorem scan : s.scan.aside b B := by
  refine foldl_keeps_mem (P := fun t => t.aside b B) _ (fun t e he ht => ?_) hs
  split
  · refine ht.grant fun h => ?_
    have hq := hs.1
    rw [queued_iff.mpr ⟨e, he, h⟩] at hq
    cases hq
  · exact ht

theorem scans (n : Nat) : (State.scans n s).aside b B := by
  induction n generalizing s with
  | zero => exact hs
  | succ n ih =>
    unfold State.scans
    split
    · exact ih (State.aside.scan ((base b B).modEv (fun e => { e with scanDue := false }) hs))
    · exact hs

theorem driveLines : s.driveLines.aside b B := hs.ofBook rfl

theorem settle (s0 : State) : (State.settle s0 s).aside b B :=
  driveLines ((base b B).settleBerths (scans (abortInhibited ((base b B).evalUserHolds ((base b B).edges (fun _ h => h) s0 hs))) _))

omit hs in
/-- The end of an event leaves such a boat alone in every mode. -/
theorem event {f : State → State} (hf : (f s).aside b B) : (State.event f s).aside b B := (base b B).clearEv (hf.settle s)

theorem firstPassage (c y : Nat) : (s.firstPassage c y).aside b B := by
  have h1 := hs.putRel c none
  unfold State.firstPassage State.launchDeparted
  dsimp only
  split
  · exact h1
  · split
    · split
      · exact h1.ofBook ((book_notice _ _).trans (book_handBooster _ _ _))
      · exact h1
    · split
      · exact h1
      · exact h1.ofBook (book_hand _ _ _)

theorem clearTrip (hT : ∀ x y : Boat, x.Trip y → B x → B y) (c z : Nat) : (s.clearTrip c z).aside b B := by
  refine ⟨?_, hs.2.clearTrip hT c z⟩
  unfold State.clearTrip
  split
  · exact (queued_of_queue (modBoat_queue _ _ _) b).trans hs.1
  · exact hs.1

end State.aside

/-! ### What an entry hands on when no marker was missed -/

section
variable (s : State) (b y z : Nat) (g : Bool)

/-- Berths, brake run and the PASSAGE pulse after an entry. -/
def State.handReports (s : State) (y z : Nat) : State :=
  (((s.toBerth y State.berthLeft).toBerth z State.berthArrive).runLeft y).pulse (.passage z)

theorem handEntry_plain (a : Bool) : s.handEntry b y z g a false =
    if a then ((((if g then s.firstPassage b y else s).clearTrip b z).handReports y z).launchArrived 0 b |>.launchArrived 1 b).autoRequest b
    else ((if g then s.firstPassage b y else s).clearTrip b z).handReports y z := rfl

theorem book_berthLeft (s : State) (b : Nat) : (s.berthLeft b).book = s.book := rfl

theorem handReports_pulse : ∃ t : State, t.book = s.book ∧ s.handReports y z = t.pulse (.passage z) := by
  refine ⟨((s.toBerth y State.berthLeft).toBerth z State.berthArrive).runLeft y, ?_, rfl⟩
  rw [book_runLeft, book_toBerth z book_berthArrive, book_toBerth y book_berthLeft]

theorem mc_handReports : (s.handReports y z).mc = s.mc := by
  unfold State.handReports
  rw [mc_pulse, mc_of_view (holdView_runLeft _ y), mc_of_view (holdView_toBerth _ z holdView_berthArrive),
    mc_of_view (holdView_toBerth _ y holdView_berthLeft)]

/-- An entry for which no marker was missed touches no mode (R27). -/
theorem mc_handEntry_plain (a : Bool) : (s.handEntry b y z g a false).mc = s.mc := by
  have h1 : ((if g then s.firstPassage b y else s).clearTrip b z).mc = s.mc := by
    rw [mc_of_view (holdView_clearTrip _ b z)]
    split
    · exact mc_of_view (holdView_firstPassage s b y)
    · rfl
  rw [handEntry_plain]
  split
  · rw [mc_of_view (holdView_autoRequest _ b), mc_of_view (holdView_launchArrived _ 1 b), mc_of_view (holdView_launchArrived _ 0 b),
      mc_handReports, h1]
  · rw [mc_handReports, h1]

end

/-- What an entry hands on while the path goes on leaves the boat alone (R27). -/
theorem State.aside.handEntry {s : State} {b : Nat} {B : Boat → Prop} (hT : ∀ x y : Boat, x.Trip y → B x → B y) (hs : s.aside b B) (y z : Nat)
    (g : Bool) : (s.handEntry b y z g false false).aside b B := by
  have h1 : (if g then s.firstPassage b y else s).aside b B := by
    split
    · exact hs.firstPassage b y
    · exact hs
  obtain ⟨t, ht, hpulse⟩ := handReports_pulse ((if g then s.firstPassage b y else s).clearTrip b z) y z
  rw [handEntry_plain, if_neg Bool.false_ne_true, hpulse]
  exact State.aside.pulse ((h1.clearTrip hT b z).ofBook ht) _

/-! ### The trip fields -/

/-- What the boat register holds, as far as soft changes leave it alone. -/
theorem quiet_of_boats {P : State → Prop} (same : ∀ {s t : State}, P s → t.boats = s.boats → P t)
    (hS : ∀ {s : State} c f, (∀ x : Boat, x.Soft (f x)) → P s → P (s.modBoat c f)) : Quiet P where
  startUp hs := same hs rfl
  placeHeld {s} hs := same hs (placeHeld_boats_zs s).1
  buildNotice {s} hs := same hs (buildNotice_boats_zs s).1
  startDn hs := same hs rfl
  placeLimit _ _ _ hs := same hs rfl
  placeCommands _ _ hs := same hs rfl
  queueNotice _ _ hs := same hs rfl
  dropNotice hs := same hs rfl
  handRaw {s} a v _ hs := same hs (handRaw_boats_zs s a v).1
  handAny {s} a v _ hs := same hs (handRaw_boats_zs s a v).1
  modEv _ hs := same hs rfl
  putZs _ _ _ hs := same hs rfl
  putBerth _ _ _ hs := same hs rfl
  putNode _ _ _ hs := same hs rfl
  modBoat c f hf hs := hS c f hf hs
  putRel _ _ hs := same hs (by simp)
  filterQueue _ hs := same hs rfl
  putSeq _ _ _ _ hs := same hs rfl

/-- The trip fields of a boat are absent (R33). -/
def Boat.tripless (x : Boat) : Prop := x.weight = none ∧ x.lastSpeed = none ∧ x.band = none ∧ x.stageCount = none

theorem Boat.Soft.tripless {x y : Boat} (h : x.Soft y) (hx : x.tripless) : y.tripless := by
  unfold Boat.Soft at h
  rw [← h] at hx
  exact hx

def State.unloaded (s : State) (b : Nat) : Prop := ∃ y, s.boatR b = some y ∧ y.tripless

theorem State.unloaded.same {s u : State} {b : Nat} (hs : s.unloaded b) (h : u.boats = s.boats) : u.unloaded b := by
  obtain ⟨y, hy, ht⟩ := hs
  exact ⟨y, (boatR_of_boats h b).trans hy, ht⟩

theorem quiet_unloaded (b : Nat) : Quiet fun t => t.unloaded b := by
  refine quiet_of_boats (fun hs h => hs.same h) fun {s} c f hf ⟨y, hy, ht⟩ => ?_
  unfold State.unloaded
  rw [boatR_modBoat]
  split
  · next hc => exact ⟨f y, by rw [← hc, hy]; rfl, (hf y).tripless ht⟩
  · exact ⟨y, hy, ht⟩

theorem unloaded_event {f : State → State} {s : State} {b : Nat} (h : (f s).unloaded b) : (State.event f s).unloaded b :=
  (quiet_unloaded b).clearEv ((quiet_unloaded b).settle (fun _ h => h) (fun h => h) s h)

@[simp] theorem boats_launchArrived (s : State) (k b : Nat) : (s.launchArrived k b).boats = s.boats := by
  unfold State.launchArrived
  split
  · rfl
  · split
    · unfold State.launchNone State.cooldownStart
      dsimp only
      split <;> exact boats_notice _ _
    · rfl

/-- A boat that enters a BERTH zone has no trip fields when the entry has been handed on (R33). -/
theorem unloaded_handEntry {s : State} {b z : Nat} {e : ZoneEntry} (hb : (s.boatR b).isSome = true) (he : s.zoneE z = some e)
    (hk : e.kind = .berth) (y : Nat) (g a : Bool) : (s.handEntry b y z g a false).unloaded b := by
  have hboats : (if g then s.firstPassage b y else s).boats = s.boats := by
    split
    · exact boats_firstPassage s b y
    · rfl
  have hzone : (if g then s.firstPassage b y else s).zoneE z = some e := by
    split
    · exact (zoneE_of_view (holdView_firstPassage s b y) z).trans he
    · exact he
  have h1 : ((if g then s.firstPassage b y else s).clearTrip b z).unloaded b := by
    obtain ⟨x, hx⟩ := Option.isSome_iff_exists.mp hb
    unfold State.clearTrip
    rw [hzone, if_pos (by rw [Option.any_some, hk]; rfl)]
    exact ⟨_, by rw [boatR_modBoat, if_pos rfl, boatR_of_boats hboats, hx]; rfl, rfl, rfl, rfl, rfl⟩
  obtain ⟨t, ht, hpulse⟩ := handReports_pulse ((if g then s.firstPassage b y else s).clearTrip b z) y z
  have h2 : (t.pulse (.passage z)).unloaded b := (quiet_unloaded b).pulse (fun _ h => h) _ (h1.same (boats_of_book ht))
  rw [handEntry_plain, hpulse]
  split
  · refine (quiet_unloaded b).autoRequest (fun _ _ h => h) b (h2.same ?_)
    rw [boats_launchArrived, boats_launchArrived]
  · exact h2

/-! ### The entry into the first zone of a path -/

/-- An occupied zone is not reserved again. -/
theorem mild_held (z b : Nat) : Mild fun t => (t.zst z).occupant = some b ∧ (t.zst z).reserved = none :=
  mild_of_zone (R := fun q => q.occupant = some b ∧ q.reserved = none) fun q q' hq h => by
    obtain ⟨_, _, ho, hres⟩ := hq
    refine ⟨ho.trans h.1, ?_⟩
    rcases hres with hr | hr | ⟨hn, _⟩
    · exact hr.trans h.2
    · exact hr
    · rw [ho, h.1] at hn; cases hn

/-- Settles O29: the boat moves, nothing that the entry hands on or that the event ends with concerns it, and no mode is asked for. -/
theorem expectedPassageMovesBoat : Obligations.ExpectedPassageMovesBoat := by
  intro t src sensor n z b x rest s hsen hn hz hres hx hpath hzone hqueued
  have hz64 := reserved_range hres
  have hp : (s.at_ t).passage z = ((s.at_ t).moveBoat b z x rest).handEntry b x.zone z (x.state == .granted) rest.isEmpty false :=
    (passage_reserved (s := s.at_ t) hres hx (by rw [hpath]; exact List.mem_cons_self)).trans
      (enter_split (s.at_ t) (before := []) hpath List.not_mem_nil)
  have hboat2 : ((s.at_ t).moveBoat b z x rest).boatR b = some { x with
      path := rest, zone := z, entryTime := max s.now t, state := if rest = [] then .waiting else .moving } := by
    rw [boatR_moveBoat, show (s.at_ t).boatR b = some x from hx]
    rfl
  have hother2 : ∀ c, c ≠ b → ((s.at_ t).moveBoat b z x rest).boatR c = s.boatR c := fun c hc => boatR_moveBoat_other (s.at_ t) b z x rest hc
  have hzst2 := zst_moveBoat (s.at_ t) (b := b) rest hzone hz64
  have hmc2 : ((s.at_ t).moveBoat b z x rest).mc = s.mc := moveBoat_mc (s.at_ t) b z x rest
  have hqueue2 : ((s.at_ t).moveBoat b z x rest).queued b = false := (queued_of_queue (queue_moveBoat (s.at_ t) b z x rest) b).trans hqueued
  have htab2 : ((s.at_ t).moveBoat b z x rest).tab = s.tab := by
    rw [moveBoat_eq]
    split
    · exact moved_tab _ b z x rest
    · rw [tab_of_view (holdView_startWatch _ z)]
      exact moved_tab _ b z x rest
  revert hp
  generalize (s.at_ t).moveBoat b z x rest = s2 at *
  intro hp
  have hocc2 : ∀ w, s2.occupant w = if w = z then some b else if w = x.zone then none else s.occupant w := fun w => by
    unfold State.occupant
    rw [hzst2]
    split
    · rfl
    · split <;> rfl
  have hocc3 : ∀ w, (State.event (fun _ => s2.handEntry b x.zone z (x.state == .granted) rest.isEmpty false) (s.at_ t)).occupant w =
      if w = z then some b else if w = x.zone then none else s.occupant w :=
    (calm_occupants _).toMild.event ((calm_occupants _).toMild.handEntry b x.zone z _ _ _ hocc2)
  refine completes_marker hsen hn hz hp ⟨?_, ?_, ?_, ?_, fun w hwz hwx => ?_, fun c hc => ?_, ?_, ?_⟩
  · rw [hocc3, if_pos rfl]
  · rw [hocc3, if_neg hzone, if_pos rfl]
  · have h2 : (s2.zst z).occupant = some b ∧ (s2.zst z).reserved = none := by rw [hzst2, if_pos rfl]; exact ⟨rfl, rfl⟩
    exact ((mild_held z b).event (s := s.at_ t) (f := fun _ => s2.handEntry b x.zone z (x.state == .granted) rest.isEmpty false)
      ((mild_held z b).handEntry _ _ _ _ _ _ h2)).2
  · refine (mild_unwatched x.zone).event ((mild_unwatched x.zone).handEntry _ _ _ _ _ _ ?_)
    rw [hzst2, if_neg hzone, if_pos rfl]
  · rw [hocc3, if_neg hwz, if_neg hwx]
  · have hreg := mild_register (g := Boat.zone) (fun _ _ h => h.keeps.2.2.1) (fun _ _ h => h.keeps.2.2.1)
      fun c => (s2.boatR c).map Boat.zone
    have h3 := hreg.event (s := s.at_ t) (f := fun _ => s2.handEntry b x.zone z (x.state == .granted) rest.isEmpty false)
      (hreg.handEntry _ _ _ _ _ _ fun _ => rfl) c
    rw [h3, hother2 c hc]
  · rw [mc_event]
    exact (mc_handEntry_plain _ _ _ _ _ _).trans hmc2
  · have hrec := mild_of_boat (b := b) (B := fun y => y.zone = z ∧ y.entryTime = max s.now t ∧ y.overdue = x.overdue ∧ y.cls = x.cls ∧ y.route = x.route)
      (fun p q h ⟨hz, he, ho, hc, hr⟩ => by
        obtain ⟨hc', hr', hz', ho', he'⟩ := h.keeps
        exact ⟨hz'.trans hz, he'.trans he, ho'.trans ho, hc'.trans hc, hr'.trans hr⟩)
      (fun p q h ⟨hz, he, ho, hc, hr⟩ => by
        obtain ⟨hc', hr', hz', _, ho', _, he'⟩ := h.keeps
        exact ⟨hz'.trans hz, he'.trans he, ho'.trans ho, hc'.trans hc, hr'.trans hr⟩)
    obtain ⟨y, hy, hyz, hye, hyo, hyc, hyr⟩ := hrec.event (s := s.at_ t)
      (f := fun _ => s2.handEntry b x.zone z (x.state == .granted) rest.isEmpty false)
      (hrec.handEntry _ _ _ _ _ _ ⟨_, hboat2, rfl, rfl, rfl, rfl, rfl⟩)
    refine ⟨y, hy, hyz, hye, hyo, hyc, hyr, fun hr => ?_, fun e he hk => ?_⟩
    · have he : rest.isEmpty = false := List.isEmpty_eq_false_iff.mpr hr
      have hT : ∀ x y : Boat, x.Trip y → x.state = .moving ∧ x.path = rest → y.state = .moving ∧ y.path = rest := fun x y h hx => by
        obtain ⟨_, _, _, hst, _, hpath, _⟩ := h.keeps
        exact ⟨hst.trans hx.1, hpath.trans hx.2⟩
      have hs2 : s2.aside b fun y => y.state = .moving ∧ y.path = rest := ⟨hqueue2, _, hboat2, by simp [hr], if_neg hr, rfl⟩
      obtain ⟨_, y', hy', _, hst⟩ := State.aside.event (s := s.at_ t)
        (f := fun _ => s2.handEntry b x.zone z (x.state == .granted) false false) (hs2.handEntry hT x.zone z (x.state == .granted))
      rw [he, hy'] at hy
      cases hy
      exact hst
    · have hun := unloaded_handEntry (s := s2) (b := b) (z := z) (e := e) (by rw [hboat2]; rfl) (by unfold State.zoneE at *; rw [htab2]; exact he) hk
        x.zone (x.state == .granted) rest.isEmpty
      obtain ⟨y', hy', ht⟩ := unloaded_event (s := s.at_ t)
        (f := fun _ => s2.handEntry b x.zone z (x.state == .granted) rest.isEmpty false) hun
      rw [hy'] at hy
      cases hy
      exact ht

end Sys2Proof.Machine
end

section
/-! WEIGHT and TAG records (R38, R75, R77, R78): settles O39. -/

namespace Sys2Proof.Machine

/-! ### What one berth's status and the boats' weights keep -/

theorem berths_placeHeld (s : State) : s.placeHeld.berths = s.berths := by
  unfold State.placeHeld
  split
  · rfl
  · split <;> rfl

theorem berths_buildNotice (s : State) : s.buildNotice.berths = s.berths := by
  unfold State.buildNotice
  split <;> rfl

theorem berths_handRaw (s : State) (a : Nat) (v : ActValue) : (s.handRaw a v).berths = s.berths := by
  unfold State.handRaw
  split
  · rfl
  · dsimp only
    split <;> rfl

/-- The status of one berth, as far as soft changes keep it: its readings, and FAULT with its reason and lamp. -/
theorem quiet_of_berth {b : Nat} {R : BerthStatus → Prop} (hR : ∀ q q' : BerthStatus, q.Soft q' → R q → R q') :
    Quiet fun t => R (t.berthS b) := by
  have same : ∀ {s t : State}, R (s.berthS b) → t.berths = s.berths → R (t.berthS b) :=
    fun hs h => by unfold State.berthS at *; rw [h]; exact hs
  exact {
    startUp := fun hs => hs
    placeHeld := fun {s} hs => same hs (berths_placeHeld s)
    buildNotice := fun {s} hs => same hs (berths_buildNotice s)
    startDn := fun hs => hs
    placeLimit := fun _ _ _ hs => hs
    placeCommands := fun _ _ hs => hs
    queueNotice := fun _ _ hs => hs
    dropNotice := fun hs => hs
    handRaw := fun {s} a v _ hs => same hs (berths_handRaw s a v)
    handAny := fun {s} a v _ hs => same hs (berths_handRaw s a v)
    modEv := fun _ hs => hs
    putZs := fun _ _ _ hs => hs
    putBerth := fun {s} c q hq hs => by
      rw [berthS_putBerth]
      split
      · next hc => exact hR _ _ (hc.1 ▸ hq) hs
      · exact hs
    putNode := fun _ _ _ hs => hs
    modBoat := fun _ _ _ hs => same hs (by simp)
    putRel := fun _ _ hs => same hs (by simp)
    filterQueue := fun _ hs => hs
    putSeq := fun _ _ _ _ hs => hs }

theorem quiet_berthWeight (b : Nat) (w : Option Nat) : Quiet fun t => (t.berthS b).weight = w :=
  quiet_of_berth (R := fun q => q.weight = w) fun _ _ hq h => hq.2.2.1.trans h

/-- A berth stays in FAULT, with its reason and its lamp (R75). -/
theorem quiet_berthFaulted (b : Nat) (r : BerthFault) (l : Lamp) :
    Quiet fun t => (t.berthS b).state = .fault ∧ (t.berthS b).reason = r ∧ (t.berthS b).lamp = l :=
  quiet_of_berth (R := fun q => q.state = .fault ∧ q.reason = r ∧ q.lamp = l) fun _ _ hq h => by
    obtain ⟨hst, hr, hl⟩ := hq.2.2.2 h.1
    exact ⟨hst, hr.trans h.2.1, hl.trans h.2.2⟩

theorem Boat.Soft.weight {x y : Boat} (h : x.Soft y) : y.weight = x.weight := by
  unfold Boat.Soft at h
  rw [← h]

/-- Every boat's weight stays. -/
theorem quiet_weights (v : Nat → Option (Option Nat)) : Quiet fun t => ∀ n, (t.boatR n).map Boat.weight = v n := by
  refine quiet_of_boats (fun hs h n => by rw [boatR_of_boats h]; exact hs n) fun {s} c f hf hs n => ?_
  rw [boatR_modBoat]
  split
  · next hc =>
    rw [hc, ← hs c, Option.map_map]
    exact congrArg (fun g => (s.boatR c).map g) (funext fun x => (hf x).weight)
  · exact hs n

/-- A property that quiet updates, mode control's record and pulse timers leave alone is kept by a request for HOLD (R139). -/
theorem Quiet.askHold {P : State → Prop} (h : Quiet P) (hm : ∀ {s} f, P s → P (s.modMc f)) (hp : ∀ {s} u, P s → P (s.startPulse u))
    {s : State} (b : Block) (hs : P s) : P (s.askHold b) := by
  unfold State.askHold
  split
  · next hr =>
    unfold State.changeMode State.enterMode State.enterHold
    rw [if_pos hr]
    exact h.pulse hp _ (h.abortCharges (h.notice _ (hm _ hs)))
  · exact hm _ hs
  · exact hs
  · exact hs
  · exact hs

/-- The end of an event keeps what quiet updates keep. -/
theorem Quiet.eventEnd {P : State → Prop} (h : Quiet P) (hp : ∀ {t} u, P t → P (t.startPulse u)) (hl : ∀ {t}, P t → P t.driveLines)
    {f : State → State} {s : State} (hf : P (f s)) : P (State.event f s) := h.clearEv (h.settle hp hl s hf)

/-! ### Weights (R77, R78) -/

theorem berthOfSource_range {s : State} {src b : Nat} {e : BerthEntry} (h : s.berthOfSource src = some (b, e)) : b < 6 := by
  unfold State.berthOfSource State.berthOfNode at h
  obtain ⟨n, _, hn⟩ := Option.bind_eq_some_iff.mp h
  obtain ⟨c, hc, hb⟩ := List.exists_of_findSome?_eq_some hn
  obtain ⟨d, _, hd⟩ := Option.bind_eq_some_iff.mp hb
  split at hd
  · cases hd
    exact List.mem_range.mp hc
  · cases hd

/-- A weight is clamped to 0 to 4095 kg (R78). -/
theorem clampWeight_eq (kg : Int) : (clampWeight kg : Int) = max 0 (min 4095 kg) := by
  unfold clampWeight clampInt
  split
  · omega
  · split <;> omega

section
variable {s : State} {src scale b : Nat} {e : BerthEntry}

theorem takeWeight_settled (hb : s.berthOfSource src = some (b, e)) (hr : e.role = .pad) (hsc : e.scale = some scale) (kg : Int) :
    s.takeWeight src scale kg true = s.captureWeight b e (clampWeight kg) := by
  unfold State.takeWeight
  rw [hb]
  dsimp only
  rw [if_neg (by simp [hr, hsc]), if_pos rfl]

theorem takeWeight_moving (hb : s.berthOfSource src = some (b, e)) (hr : e.role = .pad) (hsc : e.scale = some scale) (kg : Int) :
    s.takeWeight src scale kg false = s := by
  unfold State.takeWeight
  rw [hb]
  dsimp only
  rw [if_neg (by simp [hr, hsc]), if_neg Bool.false_ne_true]

theorem captureWeight_mc (w : Nat) : (s.captureWeight b e w).mc = s.mc := by
  unfold State.captureWeight
  dsimp only
  split
  · split
    · rfl
    · exact modBoat_mc _ _ _
  · rfl

theorem captureWeight_berth (hb : b < 6) (w : Nat) : ((s.captureWeight b e w).berthS b).weight = some w := by
  have h1 : ((s.setBerth b fun q => { q with weight := some w }).berthS b).weight = some w := by
    rw [berthS_setBerth, if_pos ⟨rfl, hb⟩]
  unfold State.captureWeight
  dsimp only
  split
  · split
    · exact h1
    · unfold State.berthS at *
      rw [modBoat_berths]
      exact h1
  · exact h1

theorem captureWeight_secured {n : Nat} {x : Boat} (hq : (s.berthS b).state = .secured) (ho : s.occupant e.zone = some n)
    (hx : s.boatR n = some x) (w : Nat) : (s.captureWeight b e w).boatR n = some { x with weight := some w } := by
  have ho' : (s.setBerth b fun q => { q with weight := some w }).occupant e.zone = some n := ho
  have hx' : (s.setBerth b fun q => { q with weight := some w }).boatR n = some x := hx
  unfold State.captureWeight
  dsimp only
  rw [if_pos hq, ho']
  dsimp only
  rw [boatR_modBoat, if_pos rfl, hx']
  rfl

theorem captureWeight_unsecured (hq : (s.berthS b).state ≠ .secured) (w : Nat) : (s.captureWeight b e w).boats = s.boats := by
  unfold State.captureWeight
  dsimp only
  rw [if_neg hq]
  rfl

end

/-! ### Tags (R38, R75) -/

section
variable {s : State} {src reader number b : Nat} {e : BerthEntry}

theorem takeTag_own (hb : s.berthOfSource src = some (b, e)) (hr : e.role = .unload) (hrd : e.reader = some reader)
    (ho : s.occupant e.zone = some number) : s.takeTag src reader number = s.touch b := by
  unfold State.takeTag
  rw [hb]
  dsimp only
  rw [if_neg (not_not.mpr hr), if_neg (not_not.mpr hrd), if_pos ho]

theorem takeTag_other (hb : s.berthOfSource src = some (b, e)) (hr : e.role = .unload) (hrd : e.reader = some reader)
    (ho : s.occupant e.zone ≠ some number) : s.takeTag src reader number = s.tagFailed b e number := by
  unfold State.takeTag
  rw [hb]
  dsimp only
  rw [if_neg (not_not.mpr hr), if_neg (not_not.mpr hrd), if_neg ho]

@[simp] theorem zst_withdraw (s : State) (n z : Nat) : (s.withdraw n).zst z = s.zst z := by
  unfold State.withdraw
  split
  · exact zst_modBoat _ _ _ z
  · rfl

@[simp] theorem zst_berthFault (s : State) (b : Nat) (r : BerthFault) (z : Nat) : (s.berthFault b r).zst z = s.zst z := by
  unfold State.berthFault
  split
  · rfl
  · dsimp only
    split
    · split
      · rfl
      · exact zst_withdraw s _ z
    · rfl

/-- A berth goes to FAULT with its reason, and its lamp blinks (R75). -/
theorem berthS_berthFault {f : BerthEntry} (hf : s.berthE b = some f) (hb : b < 6) (r : BerthFault) :
    ((s.berthFault b r).berthS b).state = .fault ∧ ((s.berthFault b r).berthS b).reason = r ∧
      ((s.berthFault b r).berthS b).lamp = .blink := by
  unfold State.berthFault
  rw [hf]
  dsimp only
  rw [berthS_setBerth, if_pos ⟨rfl, hb⟩]
  exact ⟨rfl, rfl, rfl⟩

/-- What a failed tag check brings (R38, R75). -/
theorem tagFailed_effect {u : State} (hst : Steady u s) (hb : b < 6) (he : s.berthE b = some e) :
    (((s.tagFailed b e number).berthS b).state = .fault ∧ ((s.tagFailed b e number).berthS b).reason = .tag ∧
      ((s.tagFailed b e number).berthS b).lamp = .blink) ∧
    (∃ v : State, v.mc = s.mc ∧ (s.tagFailed b e number).mc = (v.askHold .tag).mc) ∧
    (u.mask.getLsbD (Notice.tagMismatch b e.zone number (s.occupant e.zone)).kind = true →
      Sent u (.tagMismatch b e.zone number (s.occupant e.zone)) (s.tagFailed b e number)) ∧
    ((s.zoneE e.zone).isSome = true →
      ((s.tagFailed b e number).zst e.zone).fault = some (mergeFault (s.zst e.zone).fault .unexpected)) := by
  have hq := quiet_berthFaulted b .tag .blink
  refine ⟨hq.askHold (fun _ h => h) (fun _ h => h) _ (hq.notice _ ?_), ⟨_, ?_, rfl⟩, fun hm => ?_, fun hz => ?_⟩
  · have h1 := berthS_berthFault he hb .tag
    unfold State.raiseFault
    split <;> exact h1
  · rw [notice_mc, mc_of_view ((holdView_raiseFault _ _ _).trans (holdView_berthFault s b .tag))]
  · exact (sent_calm u _).askHold _ (sent_notice ((steady_calm u).toModal.raiseFault _ _ ((steady_calm u).toModal.berthFault b .tag hst)) hm)
  · refine (mild_fault e.zone _).askHold _ ((mild_fault e.zone _).notice _ ?_)
    rw [fault_raiseFault _ _ (by rw [zoneE_of_view (holdView_berthFault s b .tag)]; exact hz), zst_berthFault]

end

theorem berthOfSource_defined {s : State} {src b : Nat} {e : BerthEntry} (h : s.berthOfSource src = some (b, e)) : s.berthE b = some e := by
  unfold State.berthOfSource State.berthOfNode at h
  obtain ⟨n, _, hn⟩ := Option.bind_eq_some_iff.mp h
  obtain ⟨c, _, hb⟩ := List.exists_of_findSome?_eq_some hn
  obtain ⟨d, hd, heq⟩ := Option.bind_eq_some_iff.mp hb
  split at heq
  · cases heq
    exact hd
  · cases heq

/-- A command whose effect is known ends in what the end of its event makes of it. -/
theorem completes_command {c : Instr} {s : State} {t : Nat} {f : State → State} {Q : State → Prop} (hc : exec c s = s.command t f)
    (v : State) (hv : f (s.at_ t) = v) (hQ : Q (State.event (fun _ => v) (s.at_ t))) : Completes c s Q :=
  ⟨_, hc.trans (command_congr (g := fun _ => v) hv), hQ⟩

/-- Settles O39: the reading is the berth's and the boat's alone, and a foreign tag takes the berth to FAULT. -/
theorem weightAndTagAreTaken : Obligations.WeightAndTagAreTaken := by
  refine ⟨clampWeight_eq, fun t src scale kg b e s hb hr hsc => ?_, fun t src scale kg b e s hb hr hsc => ?_,
    fun t src reader number b e s hb hr hrd ho => ?_, fun t src reader number b e s hb hr hrd ho => ?_⟩
  · have hb6 := berthOfSource_range hb
    refine completes_command rfl _ (takeWeight_settled (s := s.at_ t) hb hr hsc kg) ⟨?_, ?_, fun n x hq ho hx => ?_, fun hq n => ?_⟩
    · exact (quiet_berthWeight b _).eventEnd (fun _ h => h) (fun h => h) (captureWeight_berth (s := s.at_ t) hb6 _)
    · rw [mc_event]
      exact captureWeight_mc _
    · have h1 := captureWeight_secured (s := s.at_ t) hq ho hx (clampWeight kg)
      have h2 := (quiet_weights _).eventEnd (fun _ h => h) (fun h => h) (s := s.at_ t)
        (f := fun _ => (s.at_ t).captureWeight b e (clampWeight kg)) (fun _ => rfl) n
      rw [h1] at h2
      exact Option.map_eq_some_iff.mp h2
    · refine (quiet_weights fun n => (s.boatR n).map Boat.weight).eventEnd (fun _ h => h) (fun h => h) (fun m => ?_) n
      rw [boatR_of_boats (captureWeight_unsecured (s := s.at_ t) hq _)]
      rfl
  · refine completes_command rfl _ (takeWeight_moving (s := s.at_ t) hb hr hsc kg) ⟨?_, ?_, fun n => ?_⟩
    · exact (quiet_berthWeight b _).eventEnd (fun _ h => h) (fun h => h) rfl
    · rw [mc_event]
      rfl
    · exact (quiet_weights fun n => (s.boatR n).map Boat.weight).eventEnd (fun _ h => h) (fun h => h) (fun _ => rfl) n
  · obtain ⟨⟨hst, hreason, hlamp⟩, ⟨v, hv, hmc⟩, hsent, hfault⟩ := tagFailed_effect (s := s.at_ t) (number := number) (steady_at s t)
      (berthOfSource_range hb) (berthOfSource_defined hb)
    obtain ⟨hst', hreason', hlamp'⟩ := (quiet_berthFaulted b .tag .blink).eventEnd (fun _ h => h) (fun h => h) (s := s.at_ t)
      (f := fun _ => (s.at_ t).tagFailed b e number) ⟨hst, hreason, hlamp⟩
    refine completes_command rfl _ (takeTag_other (s := s.at_ t) hb hr hrd ho) ⟨hst', hreason', hlamp', ?_, ?_, fun hz => ?_⟩
    · exact holdTaken_of_askHold hv (by rw [mc_event, hmc])
    · exact noticed_of_sent fun hm => (sent_calm s _).toMild.event (hsent hm)
    · exact (mild_fault e.zone _).event (hfault hz)
  · refine completes_command rfl _ (takeTag_own (s := s.at_ t) hb hr hrd ho) ⟨?_, fun z => (mild_fault z _).event rfl⟩
    rw [mc_event]
    rfl

end Sys2Proof.Machine
end

section
/-! An acknowledgement that matches: the state in which its completion is reported, and the end of its event where nothing is charging
(R130). -/

namespace Sys2Proof.Machine

/-! ### The state in which a completion is reported -/

/-- The node of a line address has been heard, the entry has left the list and its actuator is confirmed (R118, R130). -/
def State.acked (s : State) (src : Nat) (c : CmdEntry) : State :=
  ((s.heard src).removeEntry c.act).putAct c.act { (s.heard src).actS c.act with confirmed := true }

section
variable {s : State} {src num tagNo : Nat} {c : CmdEntry}

theorem ackAccepted_matched (h : num ≤ 15) (hm : s.ackMatch src num tagNo = some c) :
    s.ackAccepted src num tagNo = (s.acked src c).reportDone c := by
  unfold State.ackAccepted State.takeAck
  dsimp only
  rw [if_neg (Nat.not_lt.mpr h), ackMatch_heard, hm]
  rfl

/-- An acknowledgement that matches completes in what the end of its event makes of the report. -/
theorem completes_acked {t : Nat} {Q : State → Prop} (h : num ≤ 15) (hm : s.ackMatch src num tagNo = some c)
    (hQ : Q (State.event (fun _ => ((s.at_ t).acked src c).reportDone c) (s.at_ t))) : Completes (.ackAccepted t src num tagNo) s Q :=
  completes_command rfl _ (ackAccepted_matched (s := s.at_ t) h hm) hQ

theorem evalNodeHolds_view {β : Type} (v : State → β) (hv : ∀ t z q, v (State.setZs t z q) = v t) (s : State) (n : Nat) :
    v (s.evalNodeHolds n) = v s := by
  refine foldl_view v (fun t p => ?_) _ s
  unfold State.evalNodeHold
  split
  · rfl
  · split
    · rfl
    · exact hv t p.1 _

theorem heard_view {β : Type} (v : State → β) (hn : ∀ t n q, v (State.putNode t n q) = v t) (hz : ∀ t z q, v (State.setZs t z q) = v t)
    (s : State) (src : Nat) : v (s.heard src) = v s :=
  heard_keeps (P := fun t => v t = v s) (fun {t} n q ht => (hn t n q).trans ht) (fun {t} n ht => (evalNodeHolds_view v hz t n).trans ht) src rfl

/-- What neither the roster, the zones, the actuators nor the command list is part of is left alone. -/
theorem acked_view {β : Type} (v : State → β) (hn : ∀ t n q, v (State.putNode t n q) = v t) (hz : ∀ t z q, v (State.setZs t z q) = v t)
    (ha : ∀ t a x, v (State.putAct t a x) = v t) (hc : ∀ t a, v (State.removeEntry t a) = v t) (s : State) (src : Nat) (c : CmdEntry) :
    v (s.acked src c) = v s := by
  unfold State.acked
  rw [ha, hc, heard_view v hn hz]

variable (s src c)

@[simp] theorem tab_acked : (s.acked src c).tab = s.tab :=
  acked_view State.tab (fun _ _ _ => rfl) (fun _ _ _ => rfl) (fun _ _ _ => rfl) (fun _ _ => rfl) s src c
@[simp] theorem mc_acked : (s.acked src c).mc = s.mc :=
  acked_view State.mc (fun _ _ _ => rfl) (fun _ _ _ => rfl) (fun _ _ _ => rfl) (fun _ _ => rfl) s src c
@[simp] theorem now_acked : (s.acked src c).now = s.now :=
  acked_view State.now (fun _ _ _ => rfl) (fun _ _ _ => rfl) (fun _ _ _ => rfl) (fun _ _ => rfl) s src c
@[simp] theorem runs_acked : (s.acked src c).runs = s.runs :=
  acked_view State.runs (fun _ _ _ => rfl) (fun _ _ _ => rfl) (fun _ _ _ => rfl) (fun _ _ => rfl) s src c
@[simp] theorem seqs_acked : (s.acked src c).seqs = s.seqs :=
  acked_view State.seqs (fun _ _ _ => rfl) (fun _ _ _ => rfl) (fun _ _ _ => rfl) (fun _ _ => rfl) s src c
@[simp] theorem berths_acked : (s.acked src c).berths = s.berths :=
  acked_view State.berths (fun _ _ _ => rfl) (fun _ _ _ => rfl) (fun _ _ _ => rfl) (fun _ _ => rfl) s src c
@[simp] theorem book_acked : (s.acked src c).book = s.book :=
  acked_view State.book (fun _ _ _ => rfl) (fun _ _ _ => rfl) (fun _ _ _ => rfl) (fun _ _ => rfl) s src c

theorem cmds_acked : (s.acked src c).cmds = s.cmds.filter fun d => d.act != c.act := congrArg (List.filter _) (cmds_heard s src)

theorem unlisted_acked : ∀ p ∈ (s.acked src c).listed, p.1 ≠ c.act := fun p hp => by
  obtain ⟨d, hd, hact, _⟩ := mem_listed.mp hp
  rw [cmds_acked] at hd
  rw [← hact]
  simpa using (List.mem_filter.mp hd).2

/-- A defined actuator is confirmed. -/
theorem actS_acked {x : AuthEntry} (hx : s.authE c.act = some x) : (s.acked src c).actS c.act = { s.actS c.act with confirmed := true } := by
  have h : (s.heard src).actS c.act = s.actS c.act := heard_view (fun t => State.actS t c.act) (fun _ _ _ => rfl) (fun _ _ _ => rfl) s src
  unfold State.acked
  rw [actS_putAct, if_pos ⟨rfl, authE_range hx⟩, h]

theorem aloof_acked {x : AuthEntry} (hx : s.authE c.act = some x) :
    State.Aloof s.tab c.act { s.actS c.act with confirmed := true } (s.acked src c) :=
  ⟨tab_acked s src c, actS_acked s src c hx, unlisted_acked s src c⟩

theorem mode_acked : (s.acked src c).mode = s.mode := by
  unfold State.mode
  rw [mc_acked]

theorem idle_acked (h : ∀ k, k < 2 → (s.seqS k).state ≠ .charging) : ∀ k, k < 2 → ((s.acked src c).seqS k).state ≠ .charging := by
  unfold State.seqS
  rw [seqs_acked]
  exact h

/-! ### A node that was not silent -/

/-- A node that was not SILENT is heard: nothing but its last heard changes (R118, R121). -/
theorem heard_awake_view {β : Type} (v : State → β)
    (hv : ∀ t n, v (State.modNode t n fun q => { q with lastHeard := some t.now }) = v t)
    (h : ∀ n, s.nodeOfAddress src = some n → (s.nodeS n).state ≠ .silent) : v (s.heard src) = v s := by
  unfold State.heard State.signOfLife
  split
  · rfl
  · next n hn =>
    split
    · rfl
    · dsimp only
      rw [if_neg (h n hn)]
      exact hv s n

variable (h : ∀ n, s.nodeOfAddress src = some n → (s.nodeS n).state ≠ .silent)
include h

theorem ev_acked_awake : (s.acked src c).ev = s.ev := heard_awake_view s src State.ev (fun _ _ => rfl) h

theorem holdView_acked_awake : (s.acked src c).holdView = s.holdView := by
  refine heard_awake_view s src State.holdView (fun t n => ?_) h
  have hroster : (fun m => ((t.modNode n fun q => { q with lastHeard := some t.now }).nodeS m).state) = fun m => (t.nodeS m).state := by
    funext m
    unfold State.modNode
    rw [nodeS_putNode]
    split
    · next hc => rw [hc.1]
    · rfl
  unfold State.holdView
  rw [hroster]
  rfl

end

/-! ### The end of an event in which nothing moves -/

/-- USER holds that stand as their rule gives them stay (R13). -/
theorem evalUserHolds_sound {s : State} (h : s.holdsSound) : s.evalUserHolds = s := by
  refine foldl_keeps_mem (P := (· = s)) _ (fun t p hp ht => ?_) rfl
  subst ht
  exact if_pos (h p.1 p.2 (mem_definedZones.mp hp)).2

/-- An event that changes no level and no hold, makes no scan due and finds nothing charging ends with its berths settled. -/
theorem event_calm {f : State → State} {s : State} (hv : (f s).holdView = s.holdView) (hs : s.holdsSound)
    (hc : ∀ k, k < 2 → ((f s).seqS k).state ≠ .charging) (hscan : (f s).ev.scanDue = false) :
    State.event f s = (f s).settleBerths.driveLines.clearEv := by
  unfold State.event State.settle State.scans
  rw [edges_of_levels (genLevel_of_view hv), evalUserHolds_sound (holdsSound_of_view hv hs), abortInhibited_idle hc]
  dsimp only
  rw [if_neg (by simp [hscan])]

/-- Outside RUN with nothing charging, an event keeps what base updates and the levels of the auxiliary lines leave alone. -/
theorem Base.event {P : State → Prop} (h : Base P) (hp : ∀ {t} u, P t → P (t.startPulse u)) (hl : ∀ {t}, P t → P t.driveLines)
    {f : State → State} {s : State} (hm : (f s).mode ≠ .run) (hc : ∀ k, k < 2 → ((f s).seqS k).state ≠ .charging) (hf : P (f s)) :
    P (State.event f s) := h.clearEv (h.settle hp hl s hm hc hf)

/-! ### Actuators that a command leaves alone -/

/-- A command to another actuator leaves an actuator alone (R128). -/
theorem State.Aloof.handElsewhere {v : Tables} {i : Nat} {q : ActStatus} {s : State} (h : State.Aloof v i q s) (a : Nat) (x : ActValue)
    (hne : i ≠ a) : State.Aloof v i q (s.hand a x) := by
  refine ⟨(tab_hand s a x).trans h.tab, ?_, fun p hp => ?_⟩
  · rw [actS_hand, if_neg fun hc => hne hc.1]
    exact h.status
  · rw [listed_hand] at hp
    split at hp
    · rcases List.mem_append.mp hp with hp | hp
      · exact h.unlisted p (List.mem_filter.mp hp).1
      · split at hp
        · rw [List.mem_singleton.mp hp]
          exact hne.symm
        · cases hp
    · exact h.unlisted p hp

theorem State.Aloof.same {v : Tables} {i : Nat} {q : ActStatus} {s u : State} (h : State.Aloof v i q s) (ht : u.tab = s.tab)
    (ha : u.acts = s.acts) (hc : u.cmds = s.cmds) : State.Aloof v i q u := by
  refine ⟨ht.trans h.tab, ?_, ?_⟩
  · unfold State.actS
    rw [ha]
    exact h.status
  · unfold State.listed
    rw [hc]
    exact h.unlisted

/-- No entry of the list is of an actuator that stands aloof. -/
theorem State.Aloof.uncommanded {v : Tables} {i : Nat} {q : ActStatus} {s : State} (h : State.Aloof v i q s) : ∀ d ∈ s.cmds, d.act ≠ i :=
  fun d hd => h.unlisted (d.act, d.value) (mem_listed.mpr ⟨d, hd, rfl, rfl⟩)

/-! ### Reports that hand no command -/

/-- The tables, mode control, the actuators, the command list and the sequencers. -/
structure Orders where
  tab : Tables
  mc : ModeCtl
  acts : Vector ActStatus 64
  cmds : List CmdEntry
  seqs : Vector Seq 2

def State.orders (s : State) : Orders := ⟨s.tab, s.mc, s.acts, s.cmds, s.seqs⟩

section
variable {s u : State} (h : u.orders = s.orders)
include h

theorem tab_of_orders : u.tab = s.tab := congrArg Orders.tab h
theorem mc_of_orders : u.mc = s.mc := congrArg Orders.mc h
theorem mode_of_orders : u.mode = s.mode := congrArg ModeCtl.mode (mc_of_orders h)
theorem seqs_of_orders : u.seqs = s.seqs := congrArg Orders.seqs h

theorem idle_of_orders (hs : ∀ k, k < 2 → (s.seqS k).state ≠ .charging) : ∀ k, k < 2 → (u.seqS k).state ≠ .charging := by
  unfold State.seqS
  rw [seqs_of_orders h]
  exact hs

theorem State.Aloof.ofOrders {v : Tables} {i : Nat} {q : ActStatus} (hs : State.Aloof v i q s) : State.Aloof v i q u :=
  hs.same (congrArg Orders.tab h) (congrArg Orders.acts h) (congrArg Orders.cmds h)

end

theorem orders_of_bench {s u : State} (h : u.bench = s.bench) : u.orders = s.orders := by
  unfold State.orders
  rw [tab_of_bench h, mc_of_bench h, acts_of_bench h, cmds_of_bench h, seqs_of_bench h]

section
variable (s : State)

@[simp] theorem orders_setBerth (b : Nat) (f : BerthStatus → BerthStatus) : (s.setBerth b f).orders = s.orders := rfl
@[simp] theorem orders_setZs (z : Nat) (q : ZoneStatus) : (s.setZs z q).orders = s.orders := rfl
@[simp] theorem orders_notice (n : Notice) : (s.notice n).orders = s.orders := orders_of_bench (bench_notice s n)

@[simp] theorem orders_modBoat (b : Nat) (f : Boat → Boat) : (s.modBoat b f).orders = s.orders := by simp [State.orders]

@[simp] theorem orders_putRel (b : Nat) (x : Option Release) : (s.putRel b x).orders = s.orders := by simp [State.orders]

theorem orders_startWatch (z : Nat) : (s.startWatch z).orders = s.orders := by
  unfold State.startWatch
  split <;> rfl

theorem orders_gateOpened (a : Nat) : (s.gateOpened a).orders = s.orders := by
  rw [gateOpened_eq]
  refine foldl_view State.orders (fun t p => ?_) _ s
  unfold State.watchGate
  split
  · exact orders_startWatch t p.1
  · rfl

theorem orders_finSettled (a : Nat) : (s.finSettled a).orders = s.orders :=
  Quiet.finSettled (P := fun t => State.orders t = s.orders) (fun _ _ ht => ht) a rfl

theorem orders_lampCompleted (a : Nat) : (s.lampCompleted a).orders = s.orders :=
  foldl_view State.orders (fun t b => by split <;> rfl) _ s

@[simp] theorem orders_enqueue (b o : Nat) (p : List Nat) : (s.enqueue b o p).orders = s.orders := orders_modBoat _ b _

theorem orders_request (b : Nat) : (s.request b).1.orders = s.orders := by
  unfold State.request
  split
  · rfl
  · repeat' split
    all_goals simp

theorem orders_pressRequest (b n : Nat) : (s.pressRequest b n).orders = s.orders := by
  have h := orders_request s n
  unfold State.pressRequest State.berthAnswer State.berthBlink
  dsimp only
  split
  · exact h
  · exact h
  · split <;> exact h

theorem orders_padPress (b n : Nat) (e : BerthEntry) : (s.padPress b n e).orders = s.orders := by
  unfold State.padPress State.berthBlink
  split
  · split
    · rfl
    · split
      · exact orders_notice s _
      · exact (orders_pressRequest _ b n).trans (orders_modBoat s n _)
  · rfl

theorem orders_takePress (b : Nat) (e : BerthEntry) : (s.takePress b e).orders = s.orders := by
  unfold State.takePress State.berthBlink
  split
  · rfl
  · split
    · exact orders_padPress s b _ e
    · exact orders_pressRequest s b _

theorem orders_takePending (b : Nat) : (s.takePending b).orders = s.orders := by
  unfold State.takePending
  split
  · rfl
  · dsimp only
    split
    · exact orders_takePress _ b _
    · rfl

theorem orders_trySecure (b : Nat) : (s.trySecure b).orders = s.orders := by
  unfold State.trySecure
  split
  · rfl
  · dsimp only
    split <;> rfl

theorem orders_lockCompleted (a : Nat) : (s.lockCompleted a).orders = s.orders := by
  refine foldl_view State.orders (fun t b => ?_) _ s
  split
  · exact (orders_takePending _ b).trans (orders_trySecure _ b)
  · rfl

theorem orders_returnReservations (b : Nat) : (s.returnReservations b).orders = s.orders := by
  unfold State.returnReservations
  split
  · rfl
  · next x _ =>
    split
    · rfl
    · have h : (x.path.foldl (fun s z => s.unreserve z) s).orders = s.orders :=
        foldl_view (f := fun s z => s.unreserve z) State.orders (fun _ _ => rfl) x.path s
      unfold State.stopWatch State.modZs
      simp [h]

theorem orders_undoGrant (b : Nat) : (s.undoGrant b).orders = s.orders := by
  unfold State.undoGrant
  split
  · rfl
  · exact (orders_modBoat _ _ _).trans (orders_returnReservations s b)

end

/-- Outside RUN a completed throw hands nothing (R52). -/
theorem orders_thrown {s : State} (hm : s.mode ≠ .run) (b : Nat) : (s.thrown b).orders = s.orders := by
  unfold State.thrown
  split
  · rfl
  · split
    · next h => exact absurd h hm
    · exact orders_undoGrant s b
    all_goals rfl

theorem orders_throws {s : State} (hm : s.mode ≠ .run) (l : List Nat) : (l.foldl State.thrown s).orders = s.orders :=
  foldl_keeps (P := fun t => t.orders = s.orders) (fun _ b ht => (orders_thrown (by rw [mode_of_orders ht]; exact hm) b).trans ht) l rfl

/-- Outside RUN the report of a completion hands nothing (R130). -/
theorem orders_reportDone {s : State} (hm : s.mode ≠ .run) (c : CmdEntry) : (s.reportDone c).orders = s.orders := by
  unfold State.reportDone
  split
  · exact orders_gateOpened s _
  · rfl
  · exact orders_finSettled s _
  · rfl
  iterate 3 exact orders_lampCompleted s _
  iterate 2 exact orders_lockCompleted s _
  iterate 2 exact orders_throws hm _
  all_goals rfl

/-! ### An actuator that is neither a lamp nor a lock -/

/-- What is kept by the settling of berths is found at the end of an event that ends so. -/
theorem State.Aloof.confirmed {s u : State} {a : Nat} {q : ActStatus} {x : AuthEntry} (h : State.Aloof s.tab a q u) (hx : s.authE a = some x)
    (hlamp : x.kind ≠ .lamp) (hlock : x.kind ≠ .lock) :
    u.settleBerths.driveLines.clearEv.actS a = q ∧ ∀ d ∈ u.settleBerths.driveLines.clearEv.cmds, d.act ≠ a := by
  have hfin := h.settleBerths fun e he => by
    unfold State.authE at he hx
    rw [h.tab, hx] at he
    cases he
    exact ⟨hlamp, hlock⟩
  have hend := hfin.same (u := u.settleBerths.driveLines.clearEv) (by simp) (by simp) (by simp)
  exact ⟨hend.status, hend.uncommanded⟩

/-- Outside RUN with nothing charging an acknowledgement leaves its actuator confirmed and unlisted (R130). -/
theorem completes_confirmed {s : State} {t src num tagNo : Nat} {c : CmdEntry} {x : AuthEntry} (h : num ≤ 15)
    (hm : s.ackMatch src num tagNo = some c) (hrun : s.mode ≠ .run) (hc : ∀ k, k < 2 → (s.seqS k).state ≠ .charging)
    (hx : s.authE c.act = some x) (hlamp : x.kind ≠ .lamp) (hlock : x.kind ≠ .lock) :
    Completes (.ackAccepted t src num tagNo) s fun u =>
      u.actS c.act = { s.actS c.act with confirmed := true } ∧ ∀ d ∈ u.cmds, d.act ≠ c.act := by
  have hmode : ((s.at_ t).acked src c).mode ≠ .run := by rw [mode_acked]; exact hrun
  have ho := orders_reportDone hmode c
  refine completes_acked h hm ?_
  obtain ⟨v, hv, hend⟩ := event_settles (f := fun _ => ((s.at_ t).acked src c).reportDone c) (s := s.at_ t)
    (by rw [mode_of_orders ho]; exact hmode) (idle_of_orders ho (idle_acked (s.at_ t) src c hc))
  rw [hend]
  exact ((aloof_acked (s.at_ t) src c hx).ofOrders ((orders_of_bench hv).trans ho)).confirmed (s := s.at_ t) hx hlamp hlock

end Sys2Proof.Machine
end

section
/-! Acknowledged gates and fins: what an event in which nothing moves leaves of them, and the awaiting of an ENGAGE (R34, R111). -/

namespace Sys2Proof.Machine

/-! ### Nothing moves -/

/-- Levels, holds and sequencers are as in `s`, and no scan is due. -/
structure State.Unmoved (s t : State) : Prop where
  view : t.holdView = s.holdView
  seqs : t.seqs = s.seqs
  scan : t.ev.scanDue = false

theorem unmoved_acked {s : State} {src : Nat} (hq : s.quiet) (h : ∀ n, s.nodeOfAddress src = some n → (s.nodeS n).state ≠ .silent)
    (t : Nat) (c : CmdEntry) : s.Unmoved ((s.at_ t).acked src c) :=
  ⟨(holdView_acked_awake (s.at_ t) src c h).trans (holdView_at s t), seqs_acked (s.at_ t) src c,
    (congrArg Ev.scanDue ((ev_acked_awake (s.at_ t) src c h).trans hq.1) : _)⟩

/-- A watch makes no scan due (R45). -/
theorem scanDue_rewatch (t : State) (z : Nat) (w : Option Nat) :
    (t.modZs z fun q => { q with watch := w }).ev.scanDue = t.ev.scanDue := by
  show (t.ev.scanDue || ((!(t.zst z).isFree && (t.zst z).isFree) || ((t.zst z).nodeHold && !(t.zst z).nodeHold) ||
    ((t.zst z).userHold && !(t.zst z).userHold) || ((t.zst z).fault.isSome && (t.zst z).fault.isNone))) = t.ev.scanDue
  cases (t.zst z).fault <;> simp

namespace State.Unmoved

variable {s t : State} (h : s.Unmoved t)
include h

theorem mode : t.mode = s.mode := mode_of_view h.view

theorem event (hq : s.quiet) (n : Nat) : State.event (fun _ => t) (s.at_ n) = t.settleBerths.driveLines.clearEv := by
  obtain ⟨_, hs, hc⟩ := hq
  refine event_calm (h.view.trans (holdView_at s n).symm) (holdsSound_of_view (holdView_at s n) hs) ?_ h.scan
  unfold State.seqS at *
  rw [h.seqs]
  exact hc

theorem setBerth (b : Nat) (f : BerthStatus → BerthStatus) : s.Unmoved (t.setBerth b f) := ⟨h.view, h.seqs, h.scan⟩

theorem startWatch (z : Nat) : s.Unmoved (t.startWatch z) := by
  refine ⟨(holdView_startWatch t z).trans h.view, ?_, ?_⟩
  · unfold State.startWatch
    split <;> exact h.seqs
  · unfold State.startWatch
    split
    · exact (scanDue_rewatch t z _).trans h.scan
    · exact h.scan

theorem gateOpened (a : Nat) : s.Unmoved (t.gateOpened a) := by
  rw [gateOpened_eq]
  refine foldl_keeps (P := s.Unmoved) (fun u p hu => ?_) _ h
  unfold State.watchGate
  split
  · exact hu.startWatch p.1
  · exact hu

theorem finSettled (a : Nat) : s.Unmoved (t.finSettled a) :=
  Quiet.finSettled (P := s.Unmoved) (fun _ _ hu => ⟨hu.view, hu.seqs, hu.scan⟩) a h

theorem openGate (e : QEntry) (z : ZoneEntry) : s.Unmoved (t.openGate e z) := by
  have h1 : s.Unmoved (t.putRel e.boat (some ⟨e, .gate⟩)) :=
    ⟨(holdView_putRel t _ _).trans h.view, (putRel_seqs t _ _).trans h.seqs, by rw [putRel_ev]; exact h.scan⟩
  unfold State.openGate
  dsimp only
  split
  · exact h1
  · exact ⟨(holdView_hand _ _ _).trans h1.view, (seqs_hand _ _ _).trans h1.seqs, by rw [ev_hand]; exact h1.scan⟩

end State.Unmoved

/-! ### Completed throws in RUN (R52) -/

theorem State.Aloof.openGate {v : Tables} {i : Nat} {q : ActStatus} {t : State} (h : State.Aloof v i q t) (e : QEntry) (z : ZoneEntry)
    (hk : ∀ y, t.authE i = some y → y.kind ≠ .gate) : State.Aloof v i q (t.openGate e z) := by
  have h1 := h.ofOrders (orders_putRel t e.boat (some ⟨e, .gate⟩))
  unfold State.openGate
  dsimp only
  split
  · exact h1
  · refine h1.hand _ _ fun y hy => (hk y ?_).symm
    unfold State.authE at *
    rw [putRel_tab] at hy
    exact hy

theorem thrown_gate {s : State} {b : Nat} {r : Release} {z : ZoneEntry} (hm : s.mode = .run) (hr : s.release b = some r)
    (hz : s.zoneE r.entry.origin = some z) : s.thrown b = s.openGate r.entry z := by
  unfold State.thrown
  simp only [hr, hm, hz]

theorem thrown_nowhere {s : State} {b : Nat} {r : Release} (hm : s.mode = .run) (hr : s.release b = some r)
    (hz : s.zoneE r.entry.origin = none) : s.thrown b = s := by
  unfold State.thrown
  simp only [hr, hm, hz]

/-- Throws completed in RUN open gates: an actuator that is no gate is left alone, and nothing moves. -/
theorem throws_keep {s t : State} {v : Tables} {i : Nat} {q : ActStatus} (hm : s.mode = .run)
    (hk : ∀ y, (v.auth[i]?).join = some y → y.kind ≠ .gate) (l : List Nat) (h : s.Unmoved t ∧ State.Aloof v i q t) :
    s.Unmoved (l.foldl State.thrown t) ∧ State.Aloof v i q (l.foldl State.thrown t) := by
  refine foldl_keeps (P := fun t => s.Unmoved t ∧ State.Aloof v i q t) (fun u b hu => ?_) l h
  cases hr : u.release b with
  | none =>
    unfold State.thrown
    rw [hr]
    exact hu
  | some r =>
    cases hz : u.zoneE r.entry.origin with
    | none =>
      rw [thrown_nowhere (hu.1.mode.trans hm) hr hz]
      exact hu
    | some z =>
      rw [thrown_gate (hu.1.mode.trans hm) hr hz]
      refine ⟨hu.1.openGate _ _, hu.2.openGate _ _ fun y hy => hk y ?_⟩
      unfold State.authE at hy
      rw [← hu.2.tab]
      exact hy

/-- In RUN the report of a completion of another kind than LAMP and LOCK moves nothing and leaves its actuator alone. -/
theorem reportDone_keeps {s t : State} {c : CmdEntry} {x : AuthEntry} {q : ActStatus} (hm : s.mode = .run)
    (hx : s.authE c.act = some x) (hk : x.kind = c.value.kind) (hlamp : x.kind ≠ .lamp) (hlock : x.kind ≠ .lock)
    (h : s.Unmoved t ∧ State.Aloof s.tab c.act q t) : s.Unmoved (t.reportDone c) ∧ State.Aloof s.tab c.act q (t.reportDone c) := by
  have hthrow : c.value.kind = .switch → ∀ y, (s.tab.auth[c.act]?).join = some y → y.kind ≠ .gate := fun hv y hy => by
    cases hy.symm.trans hx
    rw [hk, hv]
    decide
  rw [hk] at hlamp hlock
  unfold State.reportDone
  split
  · exact ⟨h.1.gateOpened _, h.2.ofOrders (orders_gateOpened t _)⟩
  · exact h
  · exact ⟨h.1.finSettled _, h.2.ofOrders (orders_finSettled t _)⟩
  · exact h
  iterate 3 next hv => exact absurd (by rw [hv]; rfl) hlamp
  iterate 2 next hv => exact absurd (by rw [hv]; rfl) hlock
  iterate 2 next hv => exact throws_keep hm (hthrow (by rw [hv]; rfl)) _ h
  all_goals exact h

theorem book_gateOpened (s : State) (a : Nat) : (s.gateOpened a).book = s.book := by
  rw [gateOpened_eq]
  refine foldl_view State.book (fun t p => ?_) _ s
  unfold State.watchGate
  split
  · exact book_startWatch t p.1
  · rfl

theorem book_ended (s : State) : s.driveLines.clearEv.book = s.book := rfl

section
variable {s : State} {t src num tagNo : Nat} {c : CmdEntry} (hq : s.quiet) (h : num ≤ 15) (hm : s.ackMatch src num tagNo = some c)
  (hawake : ∀ n, s.nodeOfAddress src = some n → (s.nodeS n).state ≠ .silent)
include hq h hm hawake

/-- In a quiet state an acknowledgement leaves its actuator confirmed and unlisted, in every mode (R130). -/
theorem completes_confirmed_quiet {x : AuthEntry} (hx : s.authE c.act = some x) (hk : x.kind = c.value.kind) (hlamp : x.kind ≠ .lamp)
    (hlock : x.kind ≠ .lock) : Completes (.ackAccepted t src num tagNo) s fun u =>
      u.actS c.act = { s.actS c.act with confirmed := true } ∧ ∀ d ∈ u.cmds, d.act ≠ c.act := by
  by_cases hrun : s.mode = .run
  · obtain ⟨hu, ha⟩ := reportDone_keeps hrun hx hk hlamp hlock ⟨unmoved_acked hq hawake t c, aloof_acked (s.at_ t) src c hx⟩
    refine completes_acked h hm ?_
    rw [hu.event hq]
    exact ha.confirmed hx hlamp hlock
  · exact completes_confirmed h hm hrun hq.2.2 hx hlamp hlock

/-- A gate's OPEN confirms the release of the granted boat: the watch of its zone starts (R34, R48). -/
theorem completes_gateOpen {z b : Nat} {e : ZoneEntry} {r : Release} (hv : c.value = .gateOpen) (he : s.zoneE z = some e)
    (hg : e.gate = some c.act) (ho : s.occupant z = some b) (hr : s.release b = some r) (hor : r.entry.origin = z) (hst : r.stage = .gate)
    (hmode : s.mode = .run ∨ s.mode = .hold) : Completes (.ackAccepted t src num tagNo) s fun u =>
      (u.zst z).watch = some (max s.now t) ∧ u.release b = some r ∧ u.occupant z = some b := by
  have h1 := unmoved_acked hq hawake t c
  have hbook := book_acked (s.at_ t) src c
  have hdone : ((s.at_ t).acked src c).reportDone c = ((s.at_ t).acked src c).gateOpened c.act := by
    unfold State.reportDone
    rw [hv]
  have hwatch : (((s.at_ t).acked src c).mode).watchesStart = true := by
    rw [h1.mode]
    rcases hmode with hmode | hmode <;> rw [hmode] <;> rfl
  have hrel : ((s.at_ t).acked src c).release b = some r := (release_of_rel (rel_of_book hbook) b).trans hr
  have hw := watch_gateOpened ((zoneE_of_view h1.view z).trans he) hg ((occupant_of_view h1.view z).trans ho) hrel hor hst
  rw [if_pos hwatch, now_acked] at hw
  have h2 := h1.gateOpened c.act
  have hend : (((s.at_ t).acked src c).gateOpened c.act).settleBerths.driveLines.clearEv.zs =
      (((s.at_ t).acked src c).gateOpened c.act).zs := by simp [zs_settleBerths]
  have hkept : (((s.at_ t).acked src c).gateOpened c.act).settleBerths.driveLines.clearEv.book = s.book := by
    rw [book_ended]
    exact (base_book s.book).settleBerths ((book_gateOpened _ _).trans hbook)
  refine completes_acked h hm ?_
  rw [hdone, h2.event hq]
  refine ⟨?_, (release_of_rel (rel_of_book hkept) b).trans hr, ?_⟩
  · unfold State.zst at *
    rw [hend]
    exact hw
  · unfold State.occupant State.zst
    rw [hend]
    exact (occupant_of_view h2.view z).trans ho

end

/-! ### The awaiting of an ENGAGE (R111) -/

/-- The fins of a run's stages are those of the tables. -/
theorem stageOf_of_tab {s u : State} (h : u.tab = s.tab) (r i : Nat) : u.stageOf r i = s.stageOf r i := by
  unfold State.stageOf State.stageE
  rw [h]

theorem runE_of_tab {s u : State} (h : u.tab = s.tab) (r : Nat) : u.runE r = s.runE r := by
  unfold State.runE
  rw [h]

theorem runE_range {s : State} {r : Nat} {e : RunEntry} (h : s.runE r = some e) : r < 2 := by
  by_contra hr
  unfold State.runE at h
  rw [Vector.getElem?_eq_none (by omega)] at h
  cases h

/-- A stage is told that the ENGAGE of a fin has ended. -/
def State.tellStage (s : State) (fin r i : Nat) : State := if (s.stageOf r i).fin = fin then s.setAwaiting r i false else s

theorem tab_tellStage (s : State) (fin r i : Nat) : (s.tellStage fin r i).tab = s.tab := by
  unfold State.tellStage
  split <;> rfl

theorem runS_tellStage {s : State} {fin r i j : Nat} (hr : r < 2) (hj : j < 8) :
    ((s.tellStage fin r i).runS r).state = (s.runS r).state ∧
      ((s.tellStage fin r i).runS r).awaiting[j]? = if j = i ∧ (s.stageOf r i).fin = fin then some false else (s.runS r).awaiting[j]? := by
  unfold State.tellStage
  split
  · next h =>
    unfold State.setAwaiting State.modRun
    rw [runS_putRun, if_pos ⟨rfl, hr⟩]
    refine ⟨rfl, ?_⟩
    rw [Vector.getElem?_setIfInBounds]
    by_cases hij : i = j
    · subst hij
      simp [h, hj]
    · rw [if_neg hij, if_neg fun hc => hij hc.1.symm]
  · next h => exact ⟨rfl, (if_neg fun hc => h hc.2).symm⟩

/-- Once every stage of a list has been told, those of the list that use the fin await it no longer. -/
theorem runS_tellStages {fin r j : Nat} (hr : r < 2) (hj : j < 8) (l : List Nat) (s : State) :
    (l.foldl (fun t i => t.tellStage fin r i) s).tab = s.tab ∧
    ((l.foldl (fun t i => t.tellStage fin r i) s).runS r).state = (s.runS r).state ∧
      ((l.foldl (fun t i => t.tellStage fin r i) s).runS r).awaiting[j]? =
        if j ∈ l ∧ (s.stageOf r j).fin = fin then some false else (s.runS r).awaiting[j]? := by
  induction l generalizing s with
  | nil => simp
  | cons i l ih =>
    obtain ⟨htab, hst, haw⟩ := ih (s.tellStage fin r i)
    obtain ⟨hst1, haw1⟩ := runS_tellStage (s := s) (fin := fin) (i := i) hr hj
    rw [List.foldl_cons]
    refine ⟨htab.trans (tab_tellStage s fin r i), hst.trans hst1, haw.trans ?_⟩
    rw [haw1, stageOf_of_tab (tab_tellStage s fin r i)]
    by_cases hji : j = i
    · subst hji
      by_cases hf : (s.stageOf r j).fin = fin <;> simp [hf]
    · simp [hji]

/-- A RESTORING run that awaits no stage is READY (R111). -/
def RunStatus.recovered (q : RunStatus) : RunStatus := if q.state = .restoring ∧ q.anyAwaiting = false then { q with state := .ready } else q

theorem finSettledIn_eq {s : State} {r : Nat} {e : RunEntry} (he : s.runE r = some e) (fin : Nat) :
    s.finSettledIn fin r = ((List.range e.stages).foldl (fun t i => t.tellStage fin r i) s).modRun r RunStatus.recovered := by
  unfold State.finSettledIn
  rw [he]
  rfl

theorem runS_modRun (s : State) (r j : Nat) (f : RunStatus → RunStatus) :
    (s.modRun r f).runS j = if j = r ∧ r < 2 then f (s.runS r) else s.runS j := runS_putRun s r j _

theorem awaiting_recovered (q : RunStatus) : q.recovered.awaiting = q.awaiting := by
  unfold RunStatus.recovered
  split <;> rfl

/-- Nothing of another run is told. -/
theorem runS_finSettledIn_other {s : State} {fin r j : Nat} (h : j ≠ r) : (s.finSettledIn fin r).runS j = s.runS j := by
  have one : ∀ (t : State) f, (t.modRun r f).runS j = t.runS j := fun t f => (runS_modRun t r j f).trans (if_neg fun hc => h hc.1)
  unfold State.finSettledIn
  split
  · rfl
  · dsimp only
    rw [one]
    exact foldl_view (f := fun s i => if (s.stageOf r i).fin = fin then s.setAwaiting r i false else s) (fun t => State.runS t j)
      (fun t i => by split; exacts [one t _, rfl]) _ s

theorem tab_finSettledIn (s : State) (fin r : Nat) : (s.finSettledIn fin r).tab = s.tab := tab_of_view (holdView_finSettledIn s fin r)

/-- What the report of a fin makes of a run (R111). -/
theorem runS_finSettledIn {s : State} {fin r : Nat} {e : RunEntry} (he : s.runE r = some e) :
    (∀ i, i < e.stages → i < 8 → (s.stageOf r i).fin = fin → ((s.finSettledIn fin r).runS r).awaiting[i]? = some false) ∧
    ((s.runS r).state = .restoring →
      (∀ i, i < 8 → (s.runS r).awaiting[i]? = some true → i < e.stages ∧ (s.stageOf r i).fin = fin) →
      ((s.finSettledIn fin r).runS r).state = .ready) := by
  have hr := runE_range he
  have htold := fun j (hj : j < 8) => runS_tellStages (fin := fin) hr hj (List.range e.stages) s
  rw [finSettledIn_eq he, runS_modRun, if_pos ⟨rfl, hr⟩]
  refine ⟨fun i hi hi8 hf => ?_, fun hst haw => ?_⟩
  · rw [awaiting_recovered, (htold i hi8).2.2, if_pos ⟨List.mem_range.mpr hi, hf⟩]
  · have hnone : RunStatus.anyAwaiting (((List.range e.stages).foldl (fun t i => t.tellStage fin r i) s).runS r) = false := by
      refine Bool.eq_false_iff.mpr fun hany => ?_
      obtain ⟨j, hj⟩ := (anyAwaiting_iff _).mp hany
      have hj8 : j < 8 := by
        by_contra hge
        rw [Vector.getElem?_eq_none (by omega)] at hj
        cases hj
      rw [(htold j hj8).2.2] at hj
      split at hj
      · cases hj
      · next hne =>
        obtain ⟨hst, hf⟩ := haw j hj8 hj
        exact hne ⟨List.mem_range.mpr hst, hf⟩
    unfold RunStatus.recovered
    rw [if_pos ⟨(htold 0 (by decide)).2.1.trans hst, hnone⟩]

/-- A run is told once, and the other run's report leaves it alone. -/
theorem runS_finSettled (s : State) (fin : Nat) {r : Nat} (hr : r < 2) : ∃ t : State, t.tab = s.tab ∧ t.runS r = s.runS r ∧
    (s.finSettled fin).runS r = (t.finSettledIn fin r).runS r := by
  unfold State.finSettled
  interval_cases r
  · exact ⟨s, rfl, rfl, runS_finSettledIn_other (by decide)⟩
  · exact ⟨s.finSettledIn fin 0, tab_finSettledIn s fin 0, runS_finSettledIn_other (by decide), rfl⟩

/-- An acknowledged ENGAGE ends the awaiting of the stages that use the fin, and a run that awaited no other is READY (R111). -/
theorem completes_finEngage {s : State} {t src num tagNo : Nat} {c : CmdEntry} (h : num ≤ 15) (hm : s.ackMatch src num tagNo = some c)
    (hv : c.value = .finEngage) : Completes (.ackAccepted t src num tagNo) s fun u =>
      (∀ r q i, s.runE r = some q → i < q.stages → i < 8 → (s.stageOf r i).fin = c.act → (u.runS r).awaiting[i]? = some false) ∧
      ∀ r q, s.runE r = some q → (s.runS r).state = .restoring →
        (∀ i, i < 8 → (s.runS r).awaiting[i]? = some true → i < q.stages ∧ (s.stageOf r i).fin = c.act) →
        (u.runS r).state = .ready := by
  refine completes_acked h hm ?_
  have hdone : ((s.at_ t).acked src c).reportDone c = ((s.at_ t).acked src c).finSettled c.act := by
    unfold State.reportDone
    rw [hv]
  have hruns := (quiet_runs (((s.at_ t).acked src c).finSettled c.act).runs).eventEnd (fun _ h => h) (fun h => h)
    (f := fun _ => ((s.at_ t).acked src c).finSettled c.act) (s := s.at_ t) rfl
  rw [hdone]
  have key : ∀ r q, s.runE r = some q → ∃ v : State, v.tab = s.tab ∧ v.runS r = s.runS r ∧
      (State.event (fun _ => ((s.at_ t).acked src c).finSettled c.act) (s.at_ t)).runS r = (v.finSettledIn c.act r).runS r := fun r q hr => by
    obtain ⟨v, hvt, hvr, heq⟩ := runS_finSettled ((s.at_ t).acked src c) c.act (runE_range hr)
    refine ⟨v, hvt.trans (tab_acked _ src c), hvr.trans ?_, ?_⟩
    · unfold State.runS
      rw [runs_acked]
      rfl
    · rw [← heq]
      unfold State.runS
      rw [hruns]
  refine ⟨fun r q i hr hi hi8 hf => ?_, fun r q hr hst haw => ?_⟩
  · obtain ⟨v, hvt, _, heq⟩ := key r q hr
    rw [heq]
    exact (runS_finSettledIn ((runE_of_tab hvt r).trans hr)).1 i hi hi8 (by rw [stageOf_of_tab hvt]; exact hf)
  · obtain ⟨v, hvt, hvr, heq⟩ := key r q hr
    rw [heq]
    refine (runS_finSettledIn ((runE_of_tab hvt r).trans hr)).2 (by rw [hvr]; exact hst) fun i hi hw => ?_
    rw [hvr] at hw
    rw [stageOf_of_tab hvt]
    exact haw i hi hw

end Sys2Proof.Machine
end

section
/-! Acknowledged switch commands: in RUN the gate opens and stays commanded OPEN through the scans that follow, in HOLD the grant is
undone (R48, R52, R130). -/

namespace Sys2Proof.Machine

/-! ### A gate that has been commanded OPEN -/

/-- Gate `g` is commanded OPEN for the release of boat `b`, which has no queue entry. -/
structure State.Opening (T : Tables) (g b : Nat) (r : Release) (s : State) : Prop where
  gate : State.Commanded T g .gateOpen s
  release : s.release b = some r
  free : s.queued b = false

section
variable (s : State)

@[simp] theorem orders_setBoatState (b : Nat) (st : BoatState) : (s.setBoatState b st).orders = s.orders := orders_modBoat s b _

theorem orders_toBerth {f : State → Nat → State} (hf : ∀ (t : State) b, (f t b).orders = t.orders) (z : Nat) :
    (s.toBerth z f).orders = s.orders := by
  unfold State.toBerth
  split
  · rfl
  · exact hf s _

theorem orders_berthDerive (b : Nat) : (s.berthDerive b).orders = s.orders := by
  unfold State.berthDerive
  split <;> rfl

theorem orders_berthReturned (b : Nat) : (s.berthReturned b).orders = s.orders := by
  unfold State.berthReturned
  split
  · rfl
  · dsimp only
    split
    · rfl
    · split
      · rfl
      · exact orders_berthDerive s b

theorem orders_taken (e : QEntry) : (s.taken e).orders = s.orders := by
  have h : (s.reserve e.boat e.path).orders = s.orders :=
    foldl_view (f := fun s z => s.modZs z fun q => { q with reserved := some e.boat }) State.orders (fun _ _ => rfl) e.path s
  exact (orders_modBoat _ _ _).trans h

end

/-- A return concerns its own boat's release (R55). -/
theorem release_returnReservations_other {s : State} {b c : Nat} (h : b ≠ c) : (s.returnReservations c).release b = s.release b := by
  by_cases hg : ∃ x, s.boatR c = some x ∧ x.state = .granted
  · obtain ⟨x, hx, hst⟩ := hg
    rw [(returnReservations_granted hx hst).2.1, if_neg h]
  · rw [returnReservations_idle fun x hx hst => hg ⟨x, hx, hst⟩]

namespace State.Opening

section
variable {T : Tables} {g b : Nat} {r : Release} {s : State} (hs : s.Opening T g b r)
include hs

theorem same {u : State} (ho : u.orders = s.orders) (hb : u.book = s.book) : u.Opening T g b r :=
  ⟨hs.gate.congr (tab_of_orders ho) (congrArg Orders.acts ho), (release_of_rel (rel_of_book hb) b).trans hs.release,
    (queued_of_queue (queue_of_book hb) b).trans hs.free⟩

theorem putRel {c : Nat} (hc : c ≠ b) (x : Option Release) : (s.putRel c x).Opening T g b r := by
  refine ⟨hs.gate.congr (putRel_tab s c x) (putRel_acts s c x), ?_, (queued_of_queue (putRel_queue s c x) b).trans hs.free⟩
  rw [release_putRel, if_neg fun h => hc h.1.symm]
  exact hs.release

theorem driveLines : s.driveLines.Opening T g b r := ⟨hs.gate, hs.release, hs.free⟩

theorem clearEv : s.clearEv.Opening T g b r := ⟨hs.gate, hs.release, hs.free⟩

variable {x : AuthEntry} (hx : (T.auth[g]?).join = some x) (hk : x.kind = .gate)
include hx hk

/-- No other value than OPEN is handed to a gate, and nothing else to this one. -/
theorem hand (a : Nat) (v : ActValue) (hv : v.kind = .gate → v = .gateOpen) : (s.hand a v).Opening T g b r := by
  refine ⟨?_, (release_of_rel (rel_of_book (book_hand s a v)) b).trans hs.release,
    (queued_of_queue (queue_of_book (book_hand s a v)) b).trans hs.free⟩
  have hraw := State.Commanded.handRaw (v := .gateOpen) hx hk.symm hs.gate a v (.inr hv)
  refine hraw.congr ((tab_hand s a v).trans (tab_of_view (holdView_handRaw s a v)).symm) ?_
  unfold State.hand
  exact acts_pumpDn _

theorem launchAbort (k : Nat) (reason : AbortReason) (hb : ∀ c, (s.seqS k).boat = some c → c ≠ b) :
    (s.launchAbort k reason).Opening T g b r := by
  unfold State.launchAbort
  split
  · next e c _ hc =>
    have hcb := hb c hc
    have h1 : ((s.putSeq k .idle).hand e.booster .boosterSafe).Opening T g b r :=
      State.Opening.hand (s := s.putSeq k .idle) ⟨hs.gate, hs.release, hs.free⟩ hx hk e.booster .boosterSafe fun h => by cases h
    dsimp only
    generalize (s.putSeq k .idle).hand e.booster .boosterSafe = v at h1
    split
    · have ho : ((v.returnReservations c).setBoatState c .waiting).orders = v.orders :=
        (orders_setBoatState _ _ _).trans (orders_returnReservations v c)
      have h2 : ((v.returnReservations c).setBoatState c .waiting).Opening T g b r := by
        refine ⟨h1.gate.congr (tab_of_orders ho) (congrArg Orders.acts ho), ?_, ?_⟩
        · rw [release_of_rel (rel_setBoatState _ _ _), release_returnReservations_other hcb.symm]
          exact h1.release
        · rw [queued_of_queue ((queue_setBoatState _ _ _).trans (queue_returnReservations v c))]
          exact h1.free
      have h3 := h2.same (orders_toBerth _ orders_berthReturned e.zone) (book_toBerthReturned _ e.zone)
      exact h3.same (orders_notice _ _) (book_notice _ _)
    · exact h1.same (orders_notice _ _) (book_notice _ _)
  · exact hs

theorem chargeStart (k : Nat) {c : Nat} (hc : c ≠ b) : (s.chargeStart k c).Opening T g b r := by
  unfold State.chargeStart
  split
  · exact hs
  · next e he =>
    have hseq : ∀ q : Seq, q.boat = some c → ∀ d, ((s.putSeq k q).seqS k).boat = some d → d ≠ b := fun q hq d hd => by
      rw [seqS_put_state (launchE_range he), hq] at hd
      cases hd
      exact hc
    have h1 : ∀ q : Seq, (s.putSeq k q).Opening T g b r := fun _ => ⟨hs.gate, hs.release, hs.free⟩
    dsimp only
    split
    · exact (h1 _).launchAbort hx hk k _ (hseq _ rfl)
    · split
      · exact (h1 _).launchAbort hx hk k _ (hseq _ rfl)
      · refine State.Opening.hand ?_ hx hk _ _ fun h => by cases h
        exact ⟨hs.gate, hs.release, hs.free⟩

theorem openGate {e : QEntry} (he : e.boat ≠ b) (z : ZoneEntry) : (s.openGate e z).Opening T g b r := by
  have h1 := hs.putRel he (some ⟨e, .gate⟩)
  unfold State.openGate
  dsimp only
  split
  · exact h1
  · exact h1.hand hx hk _ _ fun _ => rfl

theorem beginRelease {e : QEntry} (he : e.boat ≠ b) (z : ZoneEntry) : (s.beginRelease e z).Opening T g b r := by
  unfold State.beginRelease
  split
  · dsimp only
    split
    · exact hs.putRel he _
    · exact (hs.putRel he _).chargeStart hx hk _ he
  · split
    · refine (hs.putRel he _).hand hx hk _ _ fun h => ?_
      unfold ZoneEntry.throwValue at h
      split at h <;> cases h
    · exact hs.openGate hx hk he z
  · exact hs.openGate hx hk he z
  · exact hs.openGate hx hk he z
  · exact hs.openGate hx hk he z
  · exact hs
  · exact hs

/-- A grant concerns the boat of its entry (R47). -/
theorem grant {e : QEntry} (he : e.boat ≠ b) : (s.grant e).Opening T g b r := by
  have ho := orders_taken s e
  have h1 : (s.taken e).Opening T g b r :=
    ⟨hs.gate.congr (tab_of_orders ho) (congrArg Orders.acts ho), (release_taken s e b).trans hs.release, by
      rw [queued_taken, hs.free]
      rfl⟩
  have h2 := h1.same (orders_toBerth (s.taken e) (f := State.berthGranted) (fun _ _ => rfl) e.origin) (book_toldGranted (s.taken e) e.origin)
  rw [grant_taken]
  split
  · exact h2
  · exact h2.beginRelease hx hk he _

theorem scan : s.scan.Opening T g b r := by
  refine foldl_keeps_mem (P := fun t => t.Opening T g b r) _ (fun t e he ht => ?_) hs
  split
  · refine ht.grant hx hk fun h => ?_
    have hq := hs.free
    rw [queued_iff.mpr ⟨e, he, h⟩] at hq
    cases hq
  · exact ht

theorem scans (n : Nat) : (State.scans n s).Opening T g b r := by
  induction n generalizing s with
  | zero => exact hs
  | succ n ih =>
    unfold State.scans
    split
    · exact ih (State.Opening.scan (s := s.modEv fun e => { e with scanDue := false }) ⟨hs.gate, hs.release, hs.free⟩ hx hk)
    · exact hs

theorem settleBerths : s.settleBerths.Opening T g b r := by
  refine settleBerths_keeps (P := fun t => t.Opening T g b r) (fun {t c e} ht _ _ => ?_) (fun {t c e} ht _ _ => ?_) hs
  · refine State.Opening.hand (s := t.modBerth c fun q => { q with lampDone := false }) ⟨ht.gate, ht.release, ht.free⟩ hx hk _ _ fun h => ?_
    rw [Lamp.value_kind] at h
    cases h
  · refine State.Opening.hand (s := t.modBerth c fun q => { q with lockDone := false }) ⟨ht.gate, ht.release, ht.free⟩ hx hk _ _ fun h => ?_
    rw [LockV.value_kind] at h
    cases h

/-- The end of an event keeps a gate commanded OPEN where no charge is in progress. -/
theorem settle (s0 : State) (hc : ∀ k, k < 2 → (s.seqS k).state ≠ .charging) : (State.settle s0 s).Opening T g b r := by
  have ho : (State.edges s0 s).evalUserHolds.orders = s.orders := orders_of_bench ((bench_evalUserHolds _).trans (bench_edges s s0))
  have hb : (State.edges s0 s).evalUserHolds.book = s.book :=
    (base_book s.book).evalUserHolds ((base_book s.book).edges (fun _ ht => ht) s0 rfl)
  have h1 := hs.same ho hb
  unfold State.settle
  dsimp only
  rw [abortInhibited_idle (idle_of_orders ho hc)]
  exact ((h1.scans hx hk _).settleBerths hx hk).driveLines

end

theorem event {T : Tables} {g b : Nat} {r : Release} {x : AuthEntry} {f : State → State} {s : State} (h : (f s).Opening T g b r)
    (hx : (T.auth[g]?).join = some x) (hk : x.kind = .gate) (hc : ∀ k, k < 2 → ((f s).seqS k).state ≠ .charging) :
    (State.event f s).Opening T g b r := (h.settle hx hk s hc).clearEv

end State.Opening

/-! ### Throws -/

theorem throwsOn_of_rel {s u : State} (h : u.rel = s.rel) (a : Nat) : u.throwsOn a = s.throwsOn a := by
  unfold State.throwsOn State.release
  rw [h]

theorem release_range {s : State} {b : Nat} {r : Release} (h : s.release b = some r) : 1 ≤ b ∧ b ≤ 24 := by
  unfold State.release at h
  split at h
  · cases h
  · by_cases hb : b ≤ 24
    · exact ⟨by omega, hb⟩
    · rw [Vector.getElem?_eq_none (by omega)] at h
      cases h

/-- A switch command is reported to the throws that wait on it (R52). -/
theorem reportDone_switch {s : State} {c : CmdEntry} (h : c.value = .switchMain ∨ c.value = .switchAlt) :
    s.reportDone c = (s.throwsOn c.act).foldl State.thrown s := by
  unfold State.reportDone
  rcases h with h | h <;> rw [h]

/-! ### Reservations that have been returned -/

theorem reserved_modZs (s : State) (z w : Nat) (f : ZoneStatus → ZoneStatus) (hf : ∀ q, (f q).reserved = q.reserved) :
    ((s.modZs z f).zst w).reserved = (s.zst w).reserved := by
  unfold State.modZs
  rw [zst_setZs]
  split
  · next h => rw [hf, h.1]
  · rfl

theorem reserved_unreserve (s : State) (z w : Nat) :
    ((s.unreserve z).zst w).reserved = if w = z then none else (s.zst w).reserved := by
  unfold State.unreserve State.modZs
  rw [zst_setZs]
  by_cases hw : w = z
  · subst hw
    rw [if_pos rfl]
    split
    · rfl
    · next h =>
      refine Option.eq_none_iff_forall_ne_some.mpr fun b hb => ?_
      exact h ⟨rfl, reserved_range hb⟩
  · rw [if_neg fun h => hw h.1, if_neg hw]

/-- The zones of a path are reserved no longer once they have been returned (R55). -/
theorem reserved_unreserveAll {w : Nat} (l : List Nat) (hw : w ∈ l) (s : State) :
    ((l.foldl (fun s z => s.unreserve z) s).zst w).reserved = none := by
  have hkeep : ∀ (l : List Nat) (t : State), (t.zst w).reserved = none → ((l.foldl (fun s z => s.unreserve z) t).zst w).reserved = none :=
    fun l t ht => foldl_keeps (P := fun t => (t.zst w).reserved = none) (f := fun s z => s.unreserve z) (fun u z hu => by
      rw [reserved_unreserve, hu, ite_self]) l ht
  induction l generalizing s with
  | nil => cases hw
  | cons z l ih =>
    rw [List.foldl_cons]
    rcases List.mem_cons.mp hw with rfl | hw
    · exact hkeep l _ (by rw [reserved_unreserve, if_pos rfl])
    · exact ih hw _

theorem reserved_returnReservations {s : State} {b : Nat} {x : Boat} (hx : s.boatR b = some x) (hst : x.state = .granted) {w : Nat}
    (hw : w ∈ x.path) : ((s.returnReservations b).zst w).reserved = none := by
  unfold State.returnReservations
  rw [hx]
  dsimp only
  rw [if_neg (by simp [hst])]
  refine (reserved_modZs _ x.zone w (fun q => { q with watch := none }) fun _ => rfl).trans ?_
  have h := reserved_unreserveAll x.path hw s
  unfold State.zst at *
  rw [modBoat_zs, putRel_zs]
  exact h

/-! ### Reservations at the end of an event outside RUN -/

theorem reserved_arrive (s : State) (u c : Nat) (a : Arrival) (src : Source) (w : Nat) :
    ((s.arrive u c a src).zst w).reserved = (s.zst w).reserved := by
  have hlatch : ∀ z, ((s.setLatch z).zst w).reserved = (s.zst w).reserved := fun z => by
    unfold State.setLatch
    split
    · rfl
    · exact reserved_modZs s z w _ fun _ => rfl
  have hpulse : ((s.startPulse u).zst w).reserved = (s.zst w).reserved := rfl
  unfold State.arrive State.triggerNotice
  dsimp only
  split
  · rfl
  · split
    · split
      · rfl
      · exact hpulse
    · split
      · split
        · rfl
        · exact hlatch _
      · split
        · split <;> simp
        · rfl

theorem reserved_edges (s0 s : State) (w : Nat) : ((State.edges s0 s).zst w).reserved = (s.zst w).reserved := by
  refine foldl_view (fun t => (State.zst t w).reserved) (fun t c => ?_) _ s
  split
  · rfl
  · refine foldl_view (fun t => (State.zst t w).reserved) (fun t u => ?_) _ t
    split
    · exact reserved_arrive t u _ _ _ w
    · rfl

/-- Outside RUN with nothing charging, the end of an event reserves nothing and returns nothing. -/
theorem reserved_event {f : State → State} {s : State} (hm : (f s).mode ≠ .run) (hc : ∀ k, k < 2 → ((f s).seqS k).state ≠ .charging)
    (w : Nat) : ((State.event f s).zst w).reserved = ((f s).zst w).reserved := by
  have ho : (State.edges s (f s)).evalUserHolds.orders = (f s).orders :=
    orders_of_bench ((bench_evalUserHolds _).trans (bench_edges (f s) s))
  have hzs : (State.event f s).zs = (State.edges s (f s)).evalUserHolds.zs := by
    unfold State.event State.settle
    dsimp only
    rw [abortInhibited_idle (idle_of_orders ho hc), clearEv_zs, driveLines_zs, zs_settleBerths,
      zs_scans _ (by rw [mode_of_orders ho]; exact hm)]
  have hz : (State.event f s).zst w = (State.edges s (f s)).evalUserHolds.zst w := by
    unfold State.zst
    rw [hzs]
  rw [hz, zst_evalUserHolds, ← reserved_edges s (f s) w]
  split <;> rfl

/-! ### An undone grant -/

/-- A grant that is undone at its throw: the reservations are returned, the entry is back and the boat is REQUESTED (R52, R55). -/
theorem undoGrant_effect {s : State} {b : Nat} {r : Release} {x : Boat} (hr : s.release b = some r) (hb : r.entry.boat = b)
    (hx : s.boatR b = some x) (hst : x.state = .granted) :
    (s.undoGrant b).release b = none ∧ r.entry ∈ (s.undoGrant b).queue ∧ (∀ z ∈ x.path, ((s.undoGrant b).zst z).reserved = none) ∧
      (s.undoGrant b).boatR b = some { x with state := .requested, path := [] } := by
  obtain ⟨_, hrel, hboat⟩ := returnReservations_granted hx hst
  have hundo : s.undoGrant b = (s.returnReservations b).restoreEntry r.entry := by
    unfold State.undoGrant
    rw [hr]
  rw [hundo]
  refine ⟨?_, ?_, fun z hz => ?_, ?_⟩
  · rw [release_of_rel (rel_restoreEntry _ _), hrel, if_pos rfl]
  · have hqueue : ((s.returnReservations b).restoreEntry r.entry).queue =
        ((s.returnReservations b).queue.filter fun y => y.order < r.entry.order) ++
          r.entry :: ((s.returnReservations b).queue.filter fun y => !(y.order < r.entry.order)) := queue_setBoatState _ _ _
    rw [hqueue]
    simp
  · have hzst : ((s.returnReservations b).restoreEntry r.entry).zst z = (s.returnReservations b).zst z := zst_modBoat _ _ _ z
    rw [hzst]
    exact reserved_returnReservations hx hst hz
  · have hres : ∀ d, ((s.returnReservations b).restoreEntry r.entry).boatR d =
        if d = r.entry.boat then ((s.returnReservations b).boatR r.entry.boat).map (fun x => { x with state := .requested })
        else (s.returnReservations b).boatR d := fun d => boatR_setBoatState _ r.entry.boat d .requested
    rw [hres, hb, if_pos rfl, hboat, if_pos rfl]
    rfl

section
variable {s : State} {t src num tagNo : Nat} {c : CmdEntry} {b : Nat} {q : QEntry} (h : num ≤ 15) (hm : s.ackMatch src num tagNo = some c)
  (hv : c.value = .switchMain ∨ c.value = .switchAlt) (hto : s.throwsOn c.act = [b]) (hr : s.release b = some ⟨q, .throw c.act⟩)
  (hqb : q.boat = b)

/-- The sole throw that waits on a switch command is completed. -/
theorem reportDone_thrown (hv : c.value = .switchMain ∨ c.value = .switchAlt) (hto : s.throwsOn c.act = [b]) (src : Nat) :
    (s.acked src c).reportDone c = (s.acked src c).thrown b := by
  rw [reportDone_switch hv, throwsOn_of_rel (rel_of_book (book_acked s src c)), hto]
  rfl

include h hm hv hto hr hqb

/-- In RUN the gate of the zone whose switch has been thrown is commanded OPEN (R48, R52). -/
theorem completes_throw_run {g : Nat} {z : ZoneEntry} {x : AuthEntry} (hrun : s.mode = .run) (hfree : s.queued b = false)
    (hc : ∀ k, k < 2 → (s.seqS k).state ≠ .charging) (hz : s.zoneE q.origin = some z) (hg : z.gate = some g) (hx : s.authE g = some x)
    (hk : x.kind = .gate) : Completes (.ackAccepted t src num tagNo) s fun u =>
      (u.actS g).commanded = some .gateOpen ∧ u.release b = some ⟨q, .gate⟩ := by
  obtain ⟨hb1, hb24⟩ := release_range hr
  have hbook := book_acked (s.at_ t) src c
  have hmode : ((s.at_ t).acked src c).mode = .run := (mode_acked (s.at_ t) src c).trans hrun
  have hrel : ((s.at_ t).acked src c).release b = some ⟨q, .throw c.act⟩ := (release_of_rel (rel_of_book hbook) b).trans hr
  have hzone : ((s.at_ t).acked src c).zoneE q.origin = some z := by
    unfold State.zoneE
    rw [tab_acked]
    exact hz
  have hfree' : ((s.at_ t).acked src c).queued b = false := (queued_of_queue (queue_of_book hbook) b).trans hfree
  have htab : ((s.at_ t).acked src c).tab = s.tab := tab_acked (s.at_ t) src c
  have hidle := idle_acked (s.at_ t) src c hc
  have hdone := reportDone_thrown (s := s.at_ t) hv hto src
  rw [thrown_gate hmode hrel hzone] at hdone
  refine completes_acked h hm ?_
  rw [hdone]
  generalize (s.at_ t).acked src c = v at *
  have hgate : v.openGate q z = (v.putRel q.boat (some ⟨q, .gate⟩)).hand g .gateOpen := by
    unfold State.openGate
    rw [hg]
  have hopen : (v.openGate q z).Opening s.tab g b ⟨q, .gate⟩ := by
    rw [hgate]
    refine ⟨commanded_hand (v := .gateOpen) hx hk.symm ((putRel_tab v _ _).trans htab) rfl, ?_, ?_⟩
    · rw [release_of_rel (rel_of_book (book_hand _ _ _)), release_putRel, if_pos ⟨hqb.symm, by omega, by omega⟩]
    · rw [queued_of_queue (queue_of_book (book_hand _ _ _)), queued_of_queue (putRel_queue _ _ _)]
      exact hfree'
  have hend := State.Opening.event (f := fun _ => v.openGate q z) (s := s.at_ t) hopen hx hk fun k hk2 => by
    unfold State.seqS at *
    rw [hgate, seqs_hand, putRel_seqs]
    exact hidle k hk2
  exact ⟨hend.gate.2, hend.release⟩

/-- In HOLD the grant whose switch has been thrown is undone (R52). -/
theorem completes_throw_hold {x : Boat} (hhold : s.mode = .hold) (hx : s.boatR b = some x) (hst : x.state = .granted)
    (hc : ∀ k, k < 2 → (s.seqS k).state ≠ .charging) : Completes (.ackAccepted t src num tagNo) s fun u =>
      u.release b = none ∧ q ∈ u.queue ∧ (∀ z ∈ x.path, (u.zst z).reserved = none) ∧
      ∃ y, u.boatR b = some y ∧ y.state = .requested ∧ y.path = [] := by
  have hbook := book_acked (s.at_ t) src c
  have hmode : ((s.at_ t).acked src c).mode = .hold := (mode_acked (s.at_ t) src c).trans hhold
  have hrel : ((s.at_ t).acked src c).release b = some ⟨q, .throw c.act⟩ := (release_of_rel (rel_of_book hbook) b).trans hr
  have hboat : ((s.at_ t).acked src c).boatR b = some x := (boatR_of_boats (boats_of_book hbook) b).trans hx
  have hidle := idle_acked (s.at_ t) src c hc
  have hdone := reportDone_thrown (s := s.at_ t) hv hto src
  refine completes_acked h hm ?_
  rw [hdone]
  generalize (s.at_ t).acked src c = v at *
  have hthrown : v.thrown b = v.undoGrant b := by
    unfold State.thrown
    simp only [hrel, hmode]
  obtain ⟨hnone, hmem, hres, hreq⟩ := undoGrant_effect hrel hqb hboat hst
  have ho := orders_undoGrant v b
  have hnotrun : (v.undoGrant b).mode ≠ .run := by
    rw [mode_of_orders ho, hmode]
    decide
  have hkept := (base_book (v.undoGrant b).book).event (fun _ h => h) (fun h => h) (f := fun _ => v.undoGrant b) (s := s.at_ t)
    hnotrun (idle_of_orders ho hidle) rfl
  rw [hthrown]
  refine ⟨(release_of_rel (rel_of_book hkept) b).trans hnone, by rw [queue_of_book hkept]; exact hmem, fun z hz => ?_,
    _, (boatR_of_boats (boats_of_book hkept) b).trans hreq, rfl, rfl⟩
  rw [reserved_event (f := fun _ => v.undoGrant b) hnotrun (idle_of_orders ho hidle)]
  exact hres z hz

end

end Sys2Proof.Machine
end

section
/-! Acknowledged lamps and locks: the berth that named the actuator is told, and the settling of its event does not hand the value again
(R63, R67, R68): settles O43. -/

namespace Sys2Proof.Machine

/-! ### A fold that acts on one number -/

/-- Where the step of every other number does nothing, before and after, the fold is the step of the one. -/
theorem foldl_range_only {σ : Type} {f : σ → Nat → σ} {b n : Nat} {s : σ} (hb : b < n) (hbefore : ∀ d, d ≠ b → f s d = s)
    (hafter : ∀ d, d ≠ b → f (f s b) d = f s b) : (List.range n).foldl f s = f s b := by
  have idle : ∀ (l : List Nat) (u : σ), (∀ d ∈ l, f u d = u) → l.foldl f u = u := fun l u hl => by
    induction l with
    | nil => rfl
    | cons d l ih =>
      rw [List.foldl_cons, hl d List.mem_cons_self]
      exact ih fun c hc => hl c (List.mem_cons_of_mem _ hc)
  obtain ⟨l, l', hl⟩ := List.append_of_mem (List.mem_range.mpr hb)
  have hnd : (l ++ b :: l').Nodup := hl ▸ List.nodup_range
  obtain ⟨_, hnd', hdis⟩ := List.nodup_append.mp hnd
  rw [hl, List.foldl_append, List.foldl_cons, idle l s fun d hd => hbefore d (hdis d hd b List.mem_cons_self)]
  exact idle l' _ fun d hd => hafter d fun h => (List.nodup_cons.mp hnd').1 (h ▸ hd)

/-! ### The berth that names an actuator -/

theorem berthE_range {s : State} {b : Nat} {e : BerthEntry} (h : s.berthE b = some e) : b < 6 := by
  by_contra hb
  unfold State.berthE at h
  rw [Vector.getElem?_eq_none (by omega)] at h
  cases h

/-- Berth `b` learns that its lock has been taken (R63, R67). -/
def State.lockTold (s : State) (b : Nat) : State := (s.setBerth b fun q => { q with lockDone := true }).trySecure b

theorem orders_lockTold (s : State) (b : Nat) : (s.lockTold b).orders = s.orders := orders_trySecure _ b

section
variable {s : State} {a b : Nat} {e : BerthEntry} (he : s.berthE b = some e)
include he

theorem lampCompleted_only (hl : e.lamp = a) (hfree : ∀ d f, d ≠ b → s.berthE d = some f → f.lamp ≠ a) :
    s.lampCompleted a = s.setBerth b fun q => { q with lampDone := true } := by
  have hother : ∀ d, d ≠ b → ¬ (s.berthE d).any (fun e => e.lamp == a) = true := fun d hd h => by
    obtain ⟨f, hf, hfa⟩ := (Option.any_eq_true _ _).mp h
    exact hfree d f hd hf (eq_of_beq hfa)
  have hown : (s.berthE b).any (fun e => e.lamp == a) = true := by
    rw [he]
    exact beq_iff_eq.mpr hl
  refine (foldl_range_only (berthE_range he) (fun d hd => if_neg (hother d hd)) fun d hd => ?_).trans (if_pos hown)
  rw [if_pos hown]
  exact if_neg (hother d hd)

theorem lockCompleted_only (hl : e.lock = a) (hfree : ∀ d f, d ≠ b → s.berthE d = some f → f.lock ≠ a) :
    s.lockCompleted a = (s.lockTold b).takePending b := by
  have hother : ∀ u : State, u.tab = s.tab → ∀ d, d ≠ b → ¬ (u.berthE d).any (fun e => e.lock == a) = true := fun u hu d hd h => by
    obtain ⟨f, hf, hfa⟩ := (Option.any_eq_true _ _).mp h
    exact hfree d f hd ((berthE_of_tab hu d).symm.trans hf) (eq_of_beq hfa)
  have hown : (s.berthE b).any (fun e => e.lock == a) = true := by
    rw [he]
    exact beq_iff_eq.mpr hl
  refine (foldl_range_only (berthE_range he) (fun d hd => if_neg (hother s rfl d hd)) fun d hd => ?_).trans (if_pos hown)
  rw [if_pos hown]
  exact if_neg (hother _ (tab_of_orders ((orders_takePending _ b).trans (orders_lockTold s b))) d hd)

/-- A berth as it stands once its lock has been taken: OCCUPIED with the latch closed and LOCK wanted becomes SECURED (R67). -/
def BerthStatus.locked (q : BerthStatus) : BerthStatus :=
  if q.state = .occupied ∧ q.latch = true ∧ q.lock = .lock then { q with lockDone := true, state := .secured, lamp := .on }
  else { q with lockDone := true }

omit he in
theorem lock_locked (q : BerthStatus) : q.locked.lockDone = true ∧ q.locked.lock = q.lock ∧ q.locked.pending = q.pending := by
  unfold BerthStatus.locked
  split <;> exact ⟨rfl, rfl, rfl⟩

theorem berthS_lockTold (hl : (s.berthS b).lock = .lock → s.lockConfirmed e = true) : (s.lockTold b).berthS b = (s.berthS b).locked := by
  have hb := berthE_range he
  have h1 : (s.setBerth b fun q => { q with lockDone := true }).berthS b = { s.berthS b with lockDone := true } := by
    rw [berthS_setBerth, if_pos ⟨rfl, hb⟩]
  unfold State.lockTold State.trySecure BerthStatus.locked
  rw [show (s.setBerth b fun q => { q with lockDone := true }).berthE b = some e from he]
  dsimp only
  rw [h1]
  by_cases hc : (s.berthS b).state = .occupied ∧ (s.berthS b).latch = true ∧ (s.berthS b).lock = .lock
  · obtain ⟨hst, hlatch, hlock⟩ := hc
    rw [if_pos ⟨hst, hlatch, hlock, hl hlock⟩, if_pos ⟨hst, hlatch, hlock⟩, berthS_setBerth, if_pos ⟨rfl, hb⟩, h1]
  · rw [if_neg hc, if_neg fun ⟨hst, hlatch, hlock, _⟩ => hc ⟨hst, hlatch, hlock⟩]
    exact h1

end

theorem State.Unmoved.lockTold {s t : State} (h : s.Unmoved t) (b : Nat) : s.Unmoved (t.lockTold b) := by
  have h1 := h.setBerth b fun q => { q with lockDone := true }
  unfold State.lockTold State.trySecure
  split
  · exact h1
  · dsimp only
    split
    · exact h1.setBerth b _
    · exact h1

/-- Without a pending press nothing is taken (R68). -/
theorem takePending_idle {s : State} {b : Nat} (h : (s.berthS b).pending = false) : s.takePending b = s := by
  unfold State.takePending
  split
  · rfl
  · dsimp only
    rw [if_neg]
    rintro ⟨hp, _⟩
    rw [h] at hp
    cases hp

/-! ### The settling does not hand again what is commanded (R63) -/

section
variable {T : Tables} {a : Nat} {q : ActStatus} {s : State}

theorem State.Aloof.handLamp (h : State.Aloof T a q s) (c : Nat) (e : BerthEntry)
    (hk : e.lamp ≠ a ∨ ∀ y, s.authE a = some y → y.kind ≠ .lamp) : State.Aloof T a q (s.handLamp c e) := by
  have h1 : State.Aloof T a q (s.modBerth c fun q => { q with lampDone := false }) := ⟨h.tab, h.status, h.unlisted⟩
  rcases hk with hk | hk
  · exact h1.handElsewhere _ _ hk.symm
  · refine h1.hand _ _ fun y hy => ?_
    rw [Lamp.value_kind]
    exact (hk y hy).symm

theorem State.Aloof.handLock (h : State.Aloof T a q s) (c : Nat) (e : BerthEntry)
    (hk : e.lock ≠ a ∨ ∀ y, s.authE a = some y → y.kind ≠ .lock) : State.Aloof T a q (s.handLock c e) := by
  have h1 : State.Aloof T a q (s.modBerth c fun q => { q with lockDone := false }) := ⟨h.tab, h.status, h.unlisted⟩
  rcases hk with hk | hk
  · exact h1.handElsewhere _ _ hk.symm
  · refine h1.hand _ _ fun y hy => ?_
    rw [LockV.value_kind]
    exact (hk y hy).symm

theorem berthS_handLamp_keeps {R : BerthStatus → Prop} {b c : Nat} (h : R (s.berthS b)) (e : BerthEntry)
    (hR : c = b → R { s.berthS b with lampDone := false }) : R ((s.handLamp c e).berthS b) := by
  rw [berthS_handLamp]
  split
  · next hc => rw [← hc.1]; exact hR hc.1.symm
  · exact h

theorem berthS_handLock_keeps {R : BerthStatus → Prop} {b c : Nat} (h : R (s.berthS b)) (e : BerthEntry)
    (hR : c = b → R { s.berthS b with lockDone := false }) : R ((s.handLock c e).berthS b) := by
  rw [berthS_handLock]
  split
  · next hc => rw [← hc.1]; exact hR hc.1.symm
  · exact h

/-- Settling touches nothing of a berth's status but its completed flags. -/
theorem settleBerths_status {R : BerthStatus → Prop} {b : Nat} (hlamp : ∀ p, R p → R { p with lampDone := false })
    (hlock : ∀ p, R p → R { p with lockDone := false }) (h : R (s.berthS b)) : R (s.settleBerths.berthS b) :=
  settleBerths_keeps (P := fun t => R (t.berthS b)) (fun ht _ _ => berthS_handLamp_keeps ht _ fun _ => hlamp _ ht)
    (fun ht _ _ => berthS_handLock_keeps ht _ fun _ => hlock _ ht) h

variable {R : BerthStatus → Prop} {b : Nat} {e : BerthEntry} {x : AuthEntry} (hx : (T.auth[a]?).join = some x)
  (he : (T.berth[b]?).join = some e)
include hx he

/-- A berth's lamp that is commanded as wanted is left alone, where no other berth names it. -/
theorem settleBerths_lamp (hk : x.kind = .lamp) (hl : e.lamp = a) (hfree : ∀ d f, d ≠ b → (T.berth[d]?).join = some f → f.lamp ≠ a)
    (hlock : ∀ p, R p → R { p with lockDone := false }) (hR : ∀ p, R p → q.commanded = some p.lamp.value)
    (h : State.Aloof T a q s ∧ R (s.berthS b)) : State.Aloof T a q s.settleBerths ∧ R (s.settleBerths.berthS b) := by
  refine settleBerths_keeps (P := fun t => State.Aloof T a q t ∧ R (t.berthS b)) (fun {t c f} ht hf hne => ?_)
    (fun {t c f} ht _ _ => ?_) h
  · unfold State.berthE at hf
    rw [ht.1.tab] at hf
    have hc : c ≠ b := fun hc => by
      subst hc
      cases he.symm.trans hf
      exact hne (by rw [hl, ht.1.status]; exact hR _ ht.2)
    exact ⟨ht.1.handLamp c f (.inl (hfree c f hc hf)), berthS_handLamp_keeps ht.2 f fun h => absurd h hc⟩
  · refine ⟨ht.1.handLock c f (.inr fun y hy => ?_), berthS_handLock_keeps ht.2 f fun _ => hlock _ ht.2⟩
    unfold State.authE at hy
    rw [ht.1.tab, hx] at hy
    cases hy
    rw [hk]
    decide

/-- A berth's lock that is commanded as wanted is left alone, where no other berth names it. -/
theorem settleBerths_lock (hk : x.kind = .lock) (hl : e.lock = a) (hfree : ∀ d f, d ≠ b → (T.berth[d]?).join = some f → f.lock ≠ a)
    (hlamp : ∀ p, R p → R { p with lampDone := false }) (hR : ∀ p, R p → q.commanded = some p.lock.value)
    (h : State.Aloof T a q s ∧ R (s.berthS b)) : State.Aloof T a q s.settleBerths ∧ R (s.settleBerths.berthS b) := by
  refine settleBerths_keeps (P := fun t => State.Aloof T a q t ∧ R (t.berthS b)) (fun {t c f} ht _ _ => ?_)
    (fun {t c f} ht hf hne => ?_) h
  · refine ⟨ht.1.handLamp c f (.inr fun y hy => ?_), berthS_handLamp_keeps ht.2 f fun _ => hlamp _ ht.2⟩
    unfold State.authE at hy
    rw [ht.1.tab, hx] at hy
    cases hy
    rw [hk]
    decide
  · unfold State.berthE at hf
    rw [ht.1.tab] at hf
    have hc : c ≠ b := fun hc => by
      subst hc
      cases he.symm.trans hf
      exact hne (by rw [hl, ht.1.status]; exact hR _ ht.2)
    exact ⟨ht.1.handLock c f (.inl (hfree c f hc hf)), berthS_handLock_keeps ht.2 f fun h => absurd h hc⟩

end

theorem berthS_ended (s : State) (b : Nat) : s.driveLines.clearEv.berthS b = s.berthS b := rfl

theorem State.Aloof.ended {T : Tables} {a : Nat} {q : ActStatus} {s : State} (h : State.Aloof T a q s) :
    State.Aloof T a q s.driveLines.clearEv := ⟨h.tab, h.status, h.unlisted⟩

/-! ### Lamps and locks -/

theorem reportDone_lamp {s : State} {c : CmdEntry} (h : c.value.kind = .lamp) : s.reportDone c = s.lampCompleted c.act := by
  unfold State.reportDone
  split
  iterate 4 next hv => rw [hv] at h; cases h
  iterate 3 rfl
  all_goals next hv => rw [hv] at h; cases h

theorem reportDone_lock {s : State} {c : CmdEntry} (h : c.value.kind = .lock) : s.reportDone c = s.lockCompleted c.act := by
  unfold State.reportDone
  split
  iterate 7 next hv => rw [hv] at h; cases h
  iterate 2 rfl
  all_goals next hv => rw [hv] at h; cases h

theorem berthS_acked (s : State) (src : Nat) (c : CmdEntry) (b : Nat) : (s.acked src c).berthS b = s.berthS b := by
  unfold State.berthS
  rw [berths_acked]

section
variable {s : State} {t src num tagNo : Nat} {c : CmdEntry} {x : AuthEntry} {b : Nat} {e : BerthEntry} (hq : s.quiet) (h : num ≤ 15)
  (hm : s.ackMatch src num tagNo = some c) (hawake : ∀ n, s.nodeOfAddress src = some n → (s.nodeS n).state ≠ .silent)
  (hx : s.authE c.act = some x) (he : s.berthE b = some e)
include hq h hm hawake hx he

/-- A lamp's completion is its berth's (R63). -/
theorem completes_lamp (hv : c.value.kind = .lamp) (hk : x.kind = .lamp) (hl : e.lamp = c.act)
    (hfree : ∀ d f, d ≠ b → s.berthE d = some f → f.lamp ≠ c.act) (hcom : (s.actS c.act).commanded = some (s.berthS b).lamp.value) :
    Completes (.ackAccepted t src num tagNo) s fun u =>
      (u.berthS b).lampDone = true ∧ (u.berthS b).state = (s.berthS b).state ∧
      u.actS c.act = { s.actS c.act with confirmed := true } ∧ ∀ d ∈ u.cmds, d.act ≠ c.act := by
  have hu := unmoved_acked hq hawake t c
  have ha := aloof_acked (s.at_ t) src c hx
  have hst : ((s.at_ t).acked src c).berthS b = s.berthS b := berthS_acked (s.at_ t) src c b
  have hE : ∀ d, ((s.at_ t).acked src c).berthE d = s.berthE d := berthE_of_tab (tab_acked (s.at_ t) src c)
  refine completes_acked h hm ?_
  rw [reportDone_lamp hv]
  generalize (s.at_ t).acked src c = v at *
  have hdone := lampCompleted_only ((hE b).trans he) hl fun d f hd hf => hfree d f hd ((hE d).symm.trans hf)
  have hstatus : (v.setBerth b fun q => { q with lampDone := true }).berthS b = { s.berthS b with lampDone := true } := by
    rw [berthS_setBerth, if_pos ⟨rfl, berthE_range he⟩, hst]
  obtain ⟨hfin, hdn, hstate, _⟩ := settleBerths_lamp
    (R := fun p => p.lampDone = true ∧ p.state = (s.berthS b).state ∧ p.lamp = (s.berthS b).lamp) hx he hk hl hfree
    (fun _ hp => hp) (fun p hp => by rw [hp.2.2]; exact hcom)
    ⟨ha.ofOrders (orders_setBerth v b fun q => { q with lampDone := true }), by rw [hstatus]; exact ⟨rfl, rfl, rfl⟩⟩
  rw [hdone, (hu.setBerth b _).event hq, berthS_ended]
  exact ⟨hdn, hstate, hfin.ended.status, hfin.ended.uncommanded⟩

/-- A lock's completion is its berth's, and may secure it (R63, R67). -/
theorem completes_lock (hv : c.value.kind = .lock) (hk : x.kind = .lock) (hl : e.lock = c.act)
    (hfree : ∀ d f, d ≠ b → s.berthE d = some f → f.lock ≠ c.act) (hcom : (s.actS c.act).commanded = some (s.berthS b).lock.value)
    (hpend : (s.berthS b).pending = false) : Completes (.ackAccepted t src num tagNo) s fun u =>
      (u.berthS b).lockDone = true ∧ u.actS c.act = { s.actS c.act with confirmed := true } ∧ (∀ d ∈ u.cmds, d.act ≠ c.act) ∧
      ((s.berthS b).state = .occupied → (s.berthS b).latch = true → (s.berthS b).lock = .lock →
        (u.berthS b).state = .secured ∧ (u.berthS b).lamp = .on) ∧
      (((s.berthS b).state ≠ .occupied ∨ (s.berthS b).latch = false ∨ (s.berthS b).lock = .unlock) →
        (u.berthS b).state = (s.berthS b).state) := by
  have hu := unmoved_acked hq hawake t c
  have ha := aloof_acked (s.at_ t) src c hx
  have hst : ((s.at_ t).acked src c).berthS b = s.berthS b := berthS_acked (s.at_ t) src c b
  have hE : ∀ d, ((s.at_ t).acked src c).berthE d = s.berthE d := berthE_of_tab (tab_acked (s.at_ t) src c)
  refine completes_acked h hm ?_
  rw [reportDone_lock hv]
  generalize (s.at_ t).acked src c = v at *
  have hconf : (v.berthS b).lock = .lock → v.lockConfirmed e = true := fun hlock => by
    unfold State.lockConfirmed
    rw [hl, ha.status]
    rw [hst] at hlock
    rw [hlock] at hcom
    exact Bool.and_eq_true_iff.mpr ⟨beq_iff_eq.mpr hcom, rfl⟩
  have hstatus := berthS_lockTold ((hE b).trans he) hconf
  rw [hst] at hstatus
  obtain ⟨hdn, hlock, hpending⟩ := lock_locked (s.berthS b)
  have hdone := lockCompleted_only ((hE b).trans he) hl fun d f hd hf => hfree d f hd ((hE d).symm.trans hf)
  rw [takePending_idle (by rw [hstatus, hpending]; exact hpend)] at hdone
  obtain ⟨hfin, hdone', hstate, hlamp, _⟩ := settleBerths_lock
    (R := fun p => p.lockDone = true ∧ p.state = (s.berthS b).locked.state ∧ p.lamp = (s.berthS b).locked.lamp ∧
      p.lock = (s.berthS b).lock) hx he hk hl hfree (fun _ hp => hp) (fun p hp => by rw [hp.2.2.2]; exact hcom)
    ⟨ha.ofOrders (orders_lockTold v b), by rw [hstatus]; exact ⟨hdn, rfl, rfl, hlock⟩⟩
  rw [hdone, (hu.lockTold b).event hq, berthS_ended]
  refine ⟨hdone', hfin.ended.status, hfin.ended.uncommanded, fun ho hlatch hlk => ?_, fun hno => ?_⟩
  · rw [hstate, hlamp]
    unfold BerthStatus.locked
    rw [if_pos ⟨ho, hlatch, hlk⟩]
    exact ⟨rfl, rfl⟩
  · rw [hstate]
    unfold BerthStatus.locked
    rw [if_neg]
    rintro ⟨ho, hlatch, hlk⟩
    rcases hno with hno | hno | hno
    · exact hno ho
    · rw [hno] at hlatch; cases hlatch
    · rw [hno] at hlk; cases hlk

end

/-! ### A pending press (R68, R69) -/

theorem walkFrom_of_tab {s u : State} (h : u.tab = s.tab) (o fuel z : Nat) (acc : List Nat) :
    u.walkFrom o fuel z acc = s.walkFrom o fuel z acc := by
  have hz : ∀ w, u.zoneE w = s.zoneE w := fun w => by
    unfold State.zoneE
    rw [h]
  induction fuel generalizing z acc with
  | zero =>
    unfold State.walkFrom
    rw [hz]
  | succ n ih =>
    unfold State.walkFrom
    rw [hz]
    simp only [ih]

theorem walk_of_tab {s u : State} (h : u.tab = s.tab) (o : Nat) (r : Route) : u.walk o r = s.walk o r := by
  have hz : u.zoneE o = s.zoneE o := by
    unfold State.zoneE
    rw [h]
  unfold State.walk
  rw [hz]
  simp only [walkFrom_of_tab h]

theorem stoppable_of_tab {s u : State} (h : u.tab = s.tab) (z : Nat) : u.stoppable z = s.stoppable z := by
  unfold State.stoppable State.zoneE
  rw [h]

/-- A press that is taken and whose request is accepted: the berth is REQUESTED, its lamp blinks and the boat has an entry (R69). -/
theorem pressRequest_accepted {s : State} {b n : Nat} {y : Boat} {path : List Nat} (hb : b < 6) (hy : s.boatR n = some y)
    (hm : s.mode = .run ∨ s.mode = .hold) (hst : y.state = .waiting) (hz : s.stoppable y.zone = true)
    (hw : s.walk y.zone y.route = .ok path) :
    (s.pressRequest b n).berthS b = { s.berthS b with state := .requested, lamp := .blink } ∧
      (s.pressRequest b n).queue = s.queue ++ [⟨n, y.zone, path, s.reqSeq⟩] := by
  have hpress : s.pressRequest b n = (s.enqueue n y.zone path).setBerth b fun q => { q with state := .requested, lamp := .blink } := by
    unfold State.pressRequest
    rw [request_walk_ok hy hm hst hz hw]
    rfl
  have hberths : (s.enqueue n y.zone path).berths = s.berths := modBoat_berths _ n _
  rw [hpress]
  refine ⟨?_, (enqueue_effect hy y.zone path).1⟩
  rw [berthS_setBerth, if_pos ⟨rfl, hb⟩]
  unfold State.berthS
  rw [hberths]

/-- A pending press is taken once the berth is SECURED with the lock confirmed, of a berth that is no PAD (R68, R69). -/
theorem takePending_accepted {s : State} {b n : Nat} {e : BerthEntry} {y : Boat} {path : List Nat} (he : s.berthE b = some e)
    (hpend : (s.berthS b).pending = true) (hsec : (s.berthS b).state = .secured) (hconf : s.lockConfirmed e = true) (hrole : e.role ≠ .pad)
    (ho : s.occupant e.zone = some n) (hy : s.boatR n = some y) (hm : s.mode = .run ∨ s.mode = .hold) (hst : y.state = .waiting)
    (hz : s.stoppable y.zone = true) (hw : s.walk y.zone y.route = .ok path) :
    (s.takePending b).berthS b = { s.berthS b with pending := false, state := .requested, lamp := .blink } ∧
      (s.takePending b).queue = s.queue ++ [⟨n, y.zone, path, s.reqSeq⟩] := by
  have hb := berthE_range he
  have htaken : s.takePending b = (s.setBerth b fun q => { q with pending := false }).pressRequest b n := by
    unfold State.takePending State.takePress
    rw [he]
    dsimp only
    rw [if_pos ⟨hpend, hsec, hconf⟩, show (s.setBerth b fun q => { q with pending := false }).occupant e.zone = some n from ho]
    exact if_neg hrole
  obtain ⟨h1, h2⟩ := pressRequest_accepted (s := s.setBerth b fun q => { q with pending := false }) hb hy hm hst hz
    ((walk_of_tab (setBerth_tab s b _) _ _).trans hw)
  rw [htaken, h1, h2, berthS_setBerth, if_pos ⟨rfl, hb⟩]
  exact ⟨rfl, rfl⟩

theorem reqSeq_lockTold (s : State) (b : Nat) : (s.lockTold b).reqSeq = s.reqSeq := by
  unfold State.lockTold State.trySecure
  split
  · rfl
  · dsimp only
    split <;> rfl

theorem book_lockTold (s : State) (b : Nat) : (s.lockTold b).book = s.book := book_trySecure _ b

/-- A berth that is SECURED, or is to be secured, is SECURED once its LOCK has been taken (R67). -/
theorem locked_secured {q : BerthStatus} (hl : q.lock = .lock) (h : q.state = .secured ∨ (q.state = .occupied ∧ q.latch = true)) :
    q.locked.state = .secured := by
  unfold BerthStatus.locked
  rcases h with h | ⟨h, hlatch⟩
  · rw [if_neg fun hc => by rw [h] at hc; cases hc.1]
    exact h
  · rw [if_pos ⟨h, hlatch, hl⟩]

section
variable {s : State} {t src num tagNo : Nat} {c : CmdEntry} {x : AuthEntry} {b n : Nat} {e : BerthEntry} {y : Boat} {path : List Nat}

/-- A LOCK that is completed in HOLD lets a pending press be taken: its request is accepted (R67, R68, R69). -/
theorem completes_pendingPress (hq : s.quiet) (hhold : s.mode = .hold) (h : num ≤ 15) (hm : s.ackMatch src num tagNo = some c)
    (hv : c.value = .lockLock) (hawake : ∀ m, s.nodeOfAddress src = some m → (s.nodeS m).state ≠ .silent) (hx : s.authE c.act = some x)
    (he : s.berthE b = some e) (hl : e.lock = c.act) (hfree : ∀ d f, d ≠ b → s.berthE d = some f → f.lock ≠ c.act)
    (hcom : (s.actS c.act).commanded = some .lockLock) (hpend : (s.berthS b).pending = true) (hlock : (s.berthS b).lock = .lock)
    (hsec : (s.berthS b).state = .secured ∨ ((s.berthS b).state = .occupied ∧ (s.berthS b).latch = true)) (hrole : e.role ≠ .pad)
    (ho : s.occupant e.zone = some n) (hy : s.boatR n = some y) (hst : y.state = .waiting) (hz : s.stoppable y.zone = true)
    (hw : s.walk y.zone y.route = .ok path) : Completes (.ackAccepted t src num tagNo) s fun u =>
      (u.berthS b).pending = false ∧ (u.berthS b).state = .requested ∧ (u.berthS b).lamp = .blink ∧
      u.queue = s.queue ++ [⟨n, y.zone, path, s.reqSeq⟩] := by
  have hu := unmoved_acked hq hawake t c
  have ha := aloof_acked (s.at_ t) src c hx
  have hberth : ((s.at_ t).acked src c).berthS b = s.berthS b := berthS_acked (s.at_ t) src c b
  have htab : ((s.at_ t).acked src c).tab = s.tab := tab_acked (s.at_ t) src c
  have hbook : ((s.at_ t).acked src c).book = s.book := book_acked (s.at_ t) src c
  have hseq : ((s.at_ t).acked src c).reqSeq = s.reqSeq :=
    acked_view State.reqSeq (fun _ _ _ => rfl) (fun _ _ _ => rfl) (fun _ _ _ => rfl) (fun _ _ => rfl) (s.at_ t) src c
  have hidle := idle_acked (s.at_ t) src c hq.2.2
  refine completes_acked h hm ?_
  rw [reportDone_lock (by rw [hv]; rfl)]
  generalize (s.at_ t).acked src c = v at *
  have hE : ∀ d, v.berthE d = s.berthE d := berthE_of_tab htab
  rw [lockCompleted_only ((hE b).trans he) hl fun d f hd hf => hfree d f hd ((hE d).symm.trans hf)]
  have hconf : ∀ w : State, w.orders = v.orders → w.lockConfirmed e = true := fun w hw => by
    unfold State.lockConfirmed
    rw [hl, (ha.ofOrders hw).status]
    exact Bool.and_eq_true_iff.mpr ⟨beq_iff_eq.mpr hcom, rfl⟩
  have ho1 := orders_lockTold v b
  have htab1 := (tab_of_orders ho1).trans htab
  have hbook1 := (book_lockTold v b).trans hbook
  have hu1 := hu.lockTold b
  have hstatus := berthS_lockTold ((hE b).trans he) fun _ => hconf v rfl
  have hseq1 := (reqSeq_lockTold v b).trans hseq
  rw [hberth] at hstatus
  have ho2 : ((v.lockTold b).takePending b).orders = v.orders := (orders_takePending _ b).trans ho1
  obtain ⟨hfin, hqueue⟩ := takePending_accepted (s := v.lockTold b) ((berthE_of_tab htab1 b).trans he)
    (by rw [hstatus, (lock_locked _).2.2]; exact hpend) (by rw [hstatus]; exact locked_secured hlock hsec) (hconf _ ho1) hrole
    ((occupant_of_view hu1.view e.zone).trans ho) ((boatR_of_boats (boats_of_book hbook1) n).trans hy)
    (.inr (hu1.mode.trans hhold)) hst ((stoppable_of_tab htab1 _).trans hz) ((walk_of_tab htab1 _ _).trans hw)
  rw [hseq1, queue_of_book hbook1] at hqueue
  generalize (v.lockTold b).takePending b = w at *
  have hnotrun : w.mode ≠ .run := by
    rw [mode_of_orders ho2, hu.mode, hhold]
    decide
  have hkept := (base_book w.book).event (fun _ h => h) (fun h => h) (f := fun _ => w) (s := s.at_ t) hnotrun (idle_of_orders ho2 hidle) rfl
  obtain ⟨d, hd, hend⟩ := event_settles (f := fun _ => w) (s := s.at_ t) hnotrun (idle_of_orders ho2 hidle)
  have hrequested : (d.berthS b).pending = false ∧ (d.berthS b).state = .requested ∧ (d.berthS b).lamp = .blink := by
    rw [berthS_of_bench hd, hfin]
    exact ⟨rfl, rfl, rfl⟩
  obtain ⟨hp, hs, hlamp⟩ := settleBerths_status (R := fun p => p.pending = false ∧ p.state = .requested ∧ p.lamp = .blink)
    (fun _ hp => hp) (fun _ hp => hp) hrequested
  refine ⟨?_, ?_, ?_, (queue_of_book hkept).trans hqueue⟩
  all_goals rw [hend, berthS_ended]
  · exact hp
  · exact hs
  · exact hlamp

end

/-- Settles O43: the report of each kind of completion, followed to the end of its event. -/
theorem ackAcceptedCompletesCommand : Obligations.AckAcceptedCompletesCommand :=
  ⟨fun _ _ _ _ _ _ _ h hm hrun hc hx hlamp hlock => completes_confirmed h hm hrun hc hx hlamp hlock,
    fun _ _ _ _ _ _ h hm hv => completes_finEngage h hm hv,
    fun _ _ _ _ _ _ _ _ _ _ _ h hm hrun hv hto hr hqb hfree hc hz hg hx hk =>
      completes_throw_run h hm hv hto hr hqb hrun hfree hc hz hg hx hk,
    fun _ _ _ _ _ _ _ _ _ h hm hhold hv hto hr hqb hx hst hc => completes_throw_hold h hm hv hto hr hqb hhold hx hst hc,
    fun _ _ _ _ _ _ _ hq h hm hawake hx hk hlamp hlock => completes_confirmed_quiet hq h hm hawake hx hk hlamp hlock,
    fun _ _ _ _ _ _ _ _ _ _ hq h hm hv hawake he hg ho hr hor hst hmode =>
      completes_gateOpen hq h hm hawake hv he hg ho hr hor hst hmode,
    fun _ _ _ _ _ _ _ _ _ hq h hm hv hawake hx hk he hl hfree hcom => completes_lamp hq h hm hawake hx he hv hk hl hfree hcom,
    fun _ _ _ _ _ _ _ _ _ hq h hm hv hawake hx hk he hl hfree hcom hpend =>
      completes_lock hq h hm hawake hx he hv hk hl hfree hcom hpend,
    fun _ _ _ _ _ _ _ _ _ _ _ _ hq hhold h hm hv hawake hx _ he hl hfree hcom hpend hlock hsec hrole ho hy hst hz hw =>
      completes_pendingPress hq hhold h hm hv hawake hx he hl hfree hcom hpend hlock hsec hrole ho hy hst hz hw⟩

end Sys2Proof.Machine
end

section
/-! A command that fails: its report, the node that is LOST with its list entries closed, and the request for HOLD (R53, R122, R131,
R133): settles O44. -/

namespace Sys2Proof.Machine

/-! ### Properties through a change of roster state -/

section
variable {P : State → Prop} (h : Calm P) {s : State}
include h

theorem Calm.lostHold (b : Block) (hs : P s) : P (s.lostHold b) := by
  unfold State.lostHold
  split
  · exact h.askHold b hs
  · exact hs

/-- The report of a failed or closed entry touches the runs and the throws (R131, R133). -/
theorem Calm.reportFailed (e : CmdEntry) (hs : P s) : P (s.reportFailed e) := by
  unfold State.reportFailed
  split
  · exact Quiet.finSettled h.putRun _ hs
  · exact h.failThrows h.setQueue _ hs
  · exact h.failThrows h.setQueue _ hs
  · exact hs

/-- A property of neither nodes nor the command list is kept by a change of roster state (R120 to R122). -/
theorem Calm.changeNode (hn : ∀ {s : State} n q, P s → P (s.putNode n q)) (hc : ∀ {s : State} p, P s → P { s with cmds := s.cmds.filter p })
    (n : Nat) (w : Roster) (r : Option NodeReason) (hs : P s) : P (s.changeNode n w r) := by
  unfold State.changeNode State.nodeNotice
  refine h.reportRoster hc n _ w ?_
  split
  · exact hn n _ hs
  · exact h.notice _ (hn n _ hs)

end

/-- A change of roster state leaves what lasts of every other node alone, and of its own node all but the state (R118, R122). -/
theorem lasting_changeNode (s : State) {n : Nat} (hn : n < 48) (w : Roster) (r : Option NodeReason) (m : Nat) :
    (s.changeNode n w r).lasting m = if m = n then (w, (s.nodeS n).lastHeard, (s.nodeS n).localFault) else s.lasting m := by
  have hput : ∀ m, (s.modNode n fun q => { q with state := w, join := none }).lasting m =
      if m = n then (w, (s.nodeS n).lastHeard, (s.nodeS n).localFault) else s.lasting m := fun m => by
    unfold State.lasting State.modNode
    rw [nodeS_putNode]
    by_cases hm : m = n
    · rw [if_pos ⟨hm, hn⟩, if_pos hm]
    · rw [if_neg fun hc => hm hc.1, if_neg hm]
  have h := calm_lasting fun m => if m = n then (w, (s.nodeS n).lastHeard, (s.nodeS n).localFault) else s.lasting m
  unfold State.changeNode State.nodeNotice
  refine h.reportRoster (fun _ ht => ht) n _ w ?_ m
  split
  · exact hput
  · exact h.notice _ hput

/-- A present node that becomes LOST has its list entries closed, and gets none again (R122, R128, R133). -/
theorem unlisted_changeNode {s : State} {n : Nat} (hs : (s.nodeS n).state.present = true) (r : Option NodeReason) :
    State.Unlisted s.tab n (s.changeNode n .lost r) := by
  have hne : (s.nodeS n).state ≠ .lost := fun h => by rw [h] at hs; cases hs
  have hn : n < 48 := nodeS_range fun h => by rw [h] at hs; cases hs
  have hview := holdView_changeNode (s := s) (w := .lost) r hne
  have hroster := roster_changeNode (s := s) (w := .lost) r hne hn
  have htab : (s.changeNode n .lost r).tab = s.tab :=
    (tab_of_view hview).trans ((still_tab s.tab).evalNodeHolds n ((tab_of_view (holdView_nodeNotice _ n .lost r)).trans rfl))
  revert hroster htab
  unfold State.changeNode State.reportRoster
  rw [if_neg hne]
  dsimp only
  rw [if_pos (by rw [hs]; rfl)]
  generalize (if (s.nodeS n).state = .active then _ else _ : State) = t
  intro hroster htab
  rw [roster_of_view (holdView_closeEntries t n)] at hroster
  rw [tab_of_view (holdView_closeEntries t n)] at htab
  unfold State.closeEntries
  refine foldl_keeps (P := State.Unlisted s.tab n) (fun t e ht => (calm_unlisted s.tab n).reportFailed e ht) _
    ⟨htab, ?_, fun c hc => ?_⟩
  · show (t.nodeS n).state.present = false
    rw [hroster]
    rfl
  · show t.actNode c.act ≠ some n
    simpa using (List.mem_filter.mp hc).2

/-! ### A command that fails -/

/-- A failing command has been reported and its node flagged; the node is still to be LOST (R131). -/
def State.failing (s : State) (c : CmdEntry) (n : Nat) (r : FailReason) : State :=
  (((s.removeEntry c.act).reportFailed c).notice (.actuatorFault c.act n c.value r)).modNode n fun q => { q with localFault := true }

theorem actNode_of_tab {s u : State} (h : u.tab = s.tab) (a : Nat) : u.actNode a = s.actNode a := by
  unfold State.actNode State.authE
  rw [h]

section
variable {s : State} {c : CmdEntry} {n : Nat} (r : FailReason)

theorem fail_eq (hn : s.actNode c.act = some n) :
    s.fail c r = ((s.failing c n r).changeNode n .lost (some .actuator)).lostHold .actuator := by
  have hn' : ((s.removeEntry c.act).reportFailed c).actNode c.act = some n :=
    (actNode_of_tab (tab_of_view (holdView_reportFailed _ c)) _).trans hn
  unfold State.fail
  dsimp only
  rw [hn']
  rfl

theorem holdView_failing (s : State) (c : CmdEntry) (n : Nat) (r : FailReason) : (s.failing c n r).holdView = s.holdView := by
  unfold State.failing State.modNode
  rw [holdView_putNode _ n _ (by rfl)]
  simp

theorem localFault_failing (s : State) (c : CmdEntry) {n : Nat} (hn : n < 48) (r : FailReason) :
    ((s.failing c n r).nodeS n).localFault = true := by
  unfold State.failing State.modNode
  rw [nodeS_putNode, if_pos ⟨rfl, hn⟩]

/-- The failure of a switch command is that of the one throw that waits on its actuator (R53). -/
theorem reportFailed_switch (h : c.value = .switchMain ∨ c.value = .switchAlt) : s.reportFailed c = s.failThrows c.act := by
  unfold State.reportFailed
  rcases h with h | h <;> rw [h]

theorem sent_throwFailed {u : State} {b : Nat} {q : Release} (hst : Steady s u) (hr : u.release b = some q)
    (hm : s.mask.getLsbD (Notice.throwFailed q.entry.origin b).kind = true) : Sent s (.throwFailed q.entry.origin b) (u.throwFailed b) := by
  unfold State.throwFailed
  rw [hr]
  exact sent_notice ((steady_calm s).undoGrant (steady_calm s).setQueue b hst) hm

end

/-- What a failed command `c` of node `n` brings between `s` and `u` (R53, R122, R131, R133). -/
def State.nodeFailed (s u : State) (c : CmdEntry) (n : Nat) (r : FailReason) : Prop :=
  (u.nodeS n).state = .lost ∧ (u.nodeS n).localFault = true ∧ (∀ d ∈ u.cmds, s.actNode d.act ≠ some n) ∧
    s.noticed u (.actuatorFault c.act n c.value r) ∧ s.noticed u (.nodeState n .lost .actuator) ∧
    (s.mode = .run → u.mode = .hold) ∧ (s.mode ≠ .run → u.mc = s.mc) ∧
    ∀ b q, (c.value = .switchMain ∨ c.value = .switchAlt) → s.throwsOn c.act = [b] → s.release b = some q →
      s.noticed u (.throwFailed q.entry.origin b)

/-- The change to LOST and the request for HOLD that end a failure keep what they do not touch, to the end of the event. -/
theorem Calm.failed {P : State → Prop} (h : Calm P) (hn : ∀ {s : State} n q, P s → P (s.putNode n q))
    (hc : ∀ {s : State} p, P s → P { s with cmds := s.cmds.filter p }) {s v : State} {c : CmdEntry} {n : Nat} {r : FailReason}
    (ha : v.actNode c.act = some n) (hs : P (v.failing c n r)) : P (State.event (fun _ => v.fail c r) s) :=
  h.toMild.event (by rw [fail_eq r ha]; exact h.lostHold _ (h.changeNode hn hc n _ _ hs))

/-- A failure of a command of a present node, in a state that has its tables, mode and releases still as before (R131). -/
theorem nodeFailed_event {s v : State} {c : CmdEntry} {n : Nat} (r : FailReason) (s0 : State) (hst : Steady s v) (hmc : v.mc = s.mc)
    (htab : v.tab = s.tab) (hrel : v.rel = s.rel) (ha : s.actNode c.act = some n) (hp : (v.nodeS n).state.present = true) :
    s.nodeFailed (State.event (fun _ => v.fail c r) s0) c n r := by
  have hav : v.actNode c.act = some n := (actNode_of_tab htab _).trans ha
  have hview := holdView_failing v c n r
  have hroster := roster_of_view hview n
  have hpf : ((v.failing c n r).nodeS n).state.present = true := by rw [hroster]; exact hp
  have hn : n < 48 := nodeS_range fun h => by rw [h] at hpf; cases hpf
  have hchange : ((v.failing c n r).changeNode n .lost (some .actuator)).mc = s.mc := by
    rw [mc_changeNode _ (fun h => by rw [h] at hpf; cases hpf), mc_of_view hview, hmc]
  have hfail : v.fail c r = ((v.failing c n r).changeNode n .lost (some .actuator)).lostHold .actuator := fail_eq r hav
  have hlasting : ∀ m, (State.event (fun _ => v.fail c r) s0).lasting m = ((v.failing c n r).changeNode n .lost (some .actuator)).lasting m :=
    (calm_lasting _).toMild.event (by rw [hfail]; exact (calm_lasting _).lostHold _ fun _ => rfl)
  have hself := (hlasting n).trans (lasting_changeNode (v.failing c n r) hn .lost (some .actuator) n)
  rw [if_pos rfl, localFault_failing v c hn r] at hself
  have hunlisted : State.Unlisted s.tab n (State.event (fun _ => v.fail c r) s0) :=
    (calm_unlisted s.tab n).toMild.event (by
      rw [hfail, ← htab, ← tab_of_view hview]
      exact (calm_unlisted _ n).lostHold _ (unlisted_changeNode hpf _))
  have hsent : ∀ {x : Notice}, Sent s x (v.failing c n r) → Sent s x (State.event (fun _ => v.fail c r) s0) := fun hx =>
    (sent_calm s _).failed (fun _ _ ht => ht.congr rfl rfl rfl rfl rfl) (fun _ ht => ht.congr rfl rfl rfl rfl rfl) hav hx
  have hremoved : Steady s (v.removeEntry c.act) := hst.congr rfl rfl rfl
  have hreported : Steady s ((v.removeEntry c.act).reportFailed c) := (steady_calm s).reportFailed c hremoved
  refine ⟨congrArg Prod.fst hself, congrArg (fun p => p.2.2) hself, fun d hd => ?_, noticed_of_sent fun hm => ?_,
    noticed_of_sent fun hm => ?_, fun hrun => ?_, fun hrun => ?_, fun b q hv hto hq => noticed_of_sent fun hm => ?_⟩
  · rw [← actNode_of_tab hunlisted.tab]
    exact hunlisted.none d hd
  · exact hsent ((sent_notice hreported hm).congr rfl rfl rfl rfl rfl)
  · have hfailing : Steady s (v.failing c n r) := ((steady_calm s).notice _ hreported).congr rfl rfl rfl
    refine (sent_calm s _).toMild.event ?_
    rw [hfail]
    exact (sent_calm s _).lostHold _ (sent_changeNode hfailing hm)
  · unfold State.mode at *
    rw [mc_event, hfail]
    unfold State.lostHold State.mode
    rw [hchange, if_pos hrun, mc_askHold]
    unfold State.mode
    rw [hchange, if_pos hrun]
  · rw [mc_event, hfail]
    unfold State.lostHold State.mode
    rw [hchange, if_neg (show ¬ s.mc.mode = .run from hrun), hchange]
  · have hthrows : (v.removeEntry c.act).throwsOn c.act = [b] := (throwsOn_of_rel hrel _).trans hto
    have hthrown : Sent s (.throwFailed q.entry.origin b) ((v.removeEntry c.act).reportFailed c) := by
      rw [reportFailed_switch hv]
      unfold State.failThrows
      rw [hthrows]
      exact sent_throwFailed hremoved ((release_of_rel hrel b).trans hq) hm
    exact hsent (((sent_calm s _).notice _ hthrown).congr rfl rfl rfl rfl rfl)

/-- A node that is heard does not become absent: one in SILENT becomes ACTIVE (R118, R121). -/
theorem present_heard {s : State} (src : Nat) {n : Nat} (h : (s.nodeS n).state.present = true) :
    ((s.heard src).nodeS n).state.present = true := by
  unfold State.heard State.signOfLife
  split
  · exact h
  · next m _ =>
    have hmod : ((s.modNode m fun q => { q with lastHeard := some s.now }).nodeS n).state = (s.nodeS n).state :=
      roster_of_view (holdView_putNode s m { s.nodeS m with lastHeard := some s.now } rfl) n
    split
    · exact h
    · dsimp only
      split
      · next hq =>
        have hm : m < 48 := nodeS_range (s := s) (by rw [hq]; decide)
        have h1 := congrArg Prod.fst (lasting_changeNode (s.modNode m fun q => { q with lastHeard := some s.now }) hm .active none n)
        rw [show (((s.modNode m fun q => { q with lastHeard := some s.now }).changeNode m .active none).nodeS n).state = _ from h1]
        split
        · rfl
        · show (((s.modNode m fun q => { q with lastHeard := some s.now }).nodeS n).state).present = true
          rw [hmod]
          exact h
      · rw [hmod]
        exact h

theorem steady_heard {s u : State} (h : Steady s u) (src : Nat) : Steady s (u.heard src) :=
  heard_keeps (fun _ _ ht => ht.congr rfl rfl rfl) (fun n ht => (steady_calm s).evalNodeHolds n ht) src h

theorem ackRefused_matched {s : State} {src num tagNo : Nat} {c : CmdEntry} (h : num ≤ 15) (hm : s.ackMatch src num tagNo = some c) :
    s.ackRefused src num tagNo = (s.heard src).fail c .refused := by
  unfold State.ackRefused State.takeAck
  dsimp only
  rw [if_neg (Nat.not_lt.mpr h), ackMatch_heard, hm]

/-- Settles O44: a refusal and a timeout are one failure, told apart by the reason and by the sign of life before a refusal. -/
theorem actuatorFailureLosesNode : Obligations.ActuatorFailureLosesNode := by
  refine ⟨fun t src num tagNo c n s h hm ha hp => ?_, fun t a c start n s hf hs hd ha hp => ?_, fun t a c start s hf hs hd => ?_⟩
  · refine completes_command rfl _ (ackRefused_matched (s := s.at_ t) h hm) (nodeFailed_event .refused _ (steady_heard (steady_at s t) src)
      ?_ (tab_heard _ src) ?_ ha (present_heard (s := s.at_ t) src hp))
    · exact heard_view State.mc (fun _ _ _ => rfl) (fun _ _ _ => rfl) (s.at_ t) src
    · exact heard_view State.rel (fun _ _ _ => rfl) (fun _ _ _ => rfl) (s.at_ t) src
  · have hact : c.act = a := by simpa using List.find?_some hf
    have hx : (s.at_ t).ackExpiry a = (s.at_ t).fail c .timeout := by
      unfold State.ackExpiry
      rw [show (s.at_ t).cmds.find? (fun e => e.act == a) = some c from hf]
      dsimp only
      rw [hs, if_pos (due_some hd)]
    subst hact
    exact completes_command rfl _ hx (nodeFailed_event .timeout _ (steady_at s t) rfl rfl rfl ha hp)
  · have hx : (s.at_ t).ackExpiry a = s.at_ t := by
      unfold State.ackExpiry
      rw [show (s.at_ t).cmds.find? (fun e => e.act == a) = some c from hf]
      dsimp only
      rw [hs, if_neg]
      unfold State.due
      simpa [Config.ackTime] using hd
    simp only [exec, execAckTimerExpiry, State.command]
    rw [event_congr (f := fun s => s.ackExpiry a) (g := id) hx]

end Sys2Proof.Machine
end

section
/-! The entry to STOP (R56, R94, R114, R135, R142), and the emergency stop that brings it (R141): settles O19. -/

namespace Sys2Proof.Machine

/-! ### The commands of an entry to STOP -/

/-- A value is the safe value of its kind (R125). -/
def ActValue.isSafe (v : ActValue) : Prop := v = v.kind.safe

theorem ActKind.safe_isSafe (k : ActKind) : k.safe.isSafe := by cases k <;> rfl
theorem ActKind.kind_safe (k : ActKind) : k.safe.kind = k := by cases k <;> rfl
theorem ActKind.safe_inRange (k : ActKind) : k.safe.inRange = true := by cases k <;> rfl

theorem sharedSafe_isSafe (s : State) : ∀ p ∈ s.sharedSafe, p.2.isSafe := fun p hp => by
  unfold State.sharedSafe at hp
  obtain ⟨a, _, hp⟩ := List.mem_filterMap.mp hp
  obtain ⟨e, _, hp⟩ := Option.bind_eq_some_iff.mp hp
  split at hp
  · cases hp
    exact ActKind.safe_isSafe _
  · cases hp

/-- The property is kept by what an entry to STOP commands and by the notices and records that go with it. -/
structure Halting (P : State → Prop) : Prop where
  handRaw : ∀ {s : State} a v, v.isSafe → P s → P (s.handRaw a v)
  pumpDn : ∀ {s : State}, P s → P s.pumpDn
  notice : ∀ {s : State} n, P s → P (s.notice n)
  putRun : ∀ {s : State} r q, P s → P (s.putRun r q)
  idle : ∀ {s : State} k, P s → P (s.putSeq k .idle)
  useFree : ∀ {s : State}, P s → P s.useFree

/-- What an entry to STOP commands (R94, R114, R135, R142). -/
def State.safed (s : State) : State :=
  s.boostersToSafe.closeGates.restoreRuns.handAll s.boostersToSafe.closeGates.restoreRuns.sharedSafe

theorem enterStop_eq (s : State) : s.enterStop = (s.modMc fun m => { m with holdPending := false }).withdrawAll.returnAll.safed := rfl

namespace Halting

variable {P : State → Prop} (h : Halting P) {s : State}
include h

theorem hand (a : Nat) (v : ActValue) (hv : v.isSafe) (hs : P s) : P (s.hand a v) := h.pumpDn (h.handRaw a v hv hs)

theorem handBooster (k : Nat) (hs : P s) : P (s.handBooster k .boosterSafe) := by
  unfold State.handBooster
  split
  · exact hs
  · exact h.hand _ _ rfl hs

theorem seqToIdle (k : Nat) (hs : P s) : P (s.seqToIdle k) := by
  unfold State.seqToIdle
  dsimp only
  split
  · exact hs
  · have h1 := h.handBooster k (h.idle k hs)
    split
    · exact h.notice _ h1
    · exact h1

theorem seqsToIdle (hs : P s) : P s.seqsToIdle := h.seqToIdle 1 (h.seqToIdle 0 hs)

theorem boosterSafeByMode (k : Nat) (hs : P s) : P (s.boosterSafeByMode k) := by
  unfold State.boosterSafeByMode
  split
  · exact hs
  · split
    · exact hs
    · exact h.hand _ _ rfl hs

theorem boostersSafeByMode (hs : P s) : P s.boostersSafeByMode := h.boosterSafeByMode 1 (h.boosterSafeByMode 0 hs)

theorem boostersToSafe (hs : P s) : P s.boostersToSafe := by
  unfold State.boostersToSafe
  split
  · exact h.boostersSafeByMode hs
  · split
    · exact h.boostersSafeByMode (h.seqsToIdle (h.useFree hs))
    · exact h.seqsToIdle (h.boostersSafeByMode (h.useFree hs))

theorem closeGates (hs : P s) : P s.closeGates := foldl_keeps (P := P) (fun _ a ht => h.hand a .gateClose rfl ht) _ hs

theorem handFin (r i : Nat) (hs : P s) : P (s.handFin r i .finEngage) := by
  have h1 := h.hand (s.stageOf r i).fin .finEngage rfl hs
  unfold State.handFin
  dsimp only
  rw [if_pos rfl]
  split
  · exact h.putRun _ _ h1
  · exact h1

theorem restoreRun (r : Nat) (hs : P s) : P (s.restoreRun r) := by
  unfold State.restoreRun
  split
  · exact hs
  · refine h.putRun _ _ (foldl_keeps_mem (P := P) _ (fun t i hi ht => ?_) hs)
    dsimp only
    rw [if_pos (List.mem_range.mp hi)]
    split
    · exact ht
    · exact h.handFin r i ht

theorem restoreRuns (hs : P s) : P s.restoreRuns := h.restoreRun 1 (h.restoreRun 0 hs)

theorem handShared (hs : P s) : P (s.handAll s.sharedSafe) :=
  h.pumpDn (foldl_keeps_mem (P := P) _ (fun _ p hp ht => h.handRaw _ _ (sharedSafe_isSafe s p hp) ht) hs)

theorem safed (hs : P s) : P s.safed := h.handShared (h.restoreRuns (h.closeGates (h.boostersToSafe hs)))

end Halting

/-- A view of the state that neither commands nor notices, runs, sequencers and free choices touch is left alone. -/
theorem halting_view {β : Type} (v : State → β) (hraw : ∀ s a w, v (State.handRaw s a w) = v s) (hpump : ∀ s, v (State.pumpDn s) = v s)
    (hnotice : ∀ s n, v (State.notice s n) = v s) (hrun : ∀ s r q, v (State.putRun s r q) = v s)
    (hseq : ∀ s k, v (State.putSeq s k .idle) = v s) (hfree : ∀ s, v (State.useFree s) = v s) (x : β) : Halting fun s => v s = x where
  handRaw a w _ hs := (hraw _ a w).trans hs
  pumpDn hs := (hpump _).trans hs
  notice n hs := (hnotice _ n).trans hs
  putRun r q hs := (hrun _ r q).trans hs
  idle k hs := (hseq _ k).trans hs
  useFree hs := (hfree _).trans hs

theorem halting_tab (T : Tables) : Halting fun s => s.tab = T :=
  halting_view State.tab handRaw_tab tab_pumpDn (fun s n => tab_of_view (holdView_notice s n)) (fun _ _ _ => rfl) (fun _ _ => rfl) (fun _ => rfl) T

theorem halting_book (v : Book) : Halting fun s => s.book = v :=
  halting_view State.book book_handRaw book_pumpDn book_notice (fun _ _ _ => rfl) (fun _ _ => rfl) (fun _ => rfl) v

theorem halting_zs (v : Vector ZoneStatus 64) : Halting fun s => s.zs = v :=
  halting_view State.zs (fun s a w => (handRaw_boats_zs s a w).2)
    (pumpDn_view State.zs (fun _ => rfl) (fun _ _ _ => rfl) (fun _ _ => rfl))
    (fun s n => by
      unfold State.notice
      split
      · rfl
      · split
        · exact zs_pumpUp _
        · rfl)
    (fun _ _ _ => rfl) (fun _ _ => rfl) (fun _ => rfl) v

/-- An IDLE sequencer stays so (R94). -/
theorem halting_idle (k : Nat) : Halting fun s => (s.seqS k).state = .idle where
  handRaw a w _ hs := by unfold State.seqS at *; rw [handRaw_seqs]; exact hs
  pumpDn hs := by unfold State.seqS at *; rw [(still_seqs _).pumpDn rfl]; exact hs
  notice n hs := by unfold State.seqS at *; rw [seqs_notice]; exact hs
  putRun _ _ hs := hs
  idle j hs := by
    rw [seqS_putSeq]
    split
    · rfl
    · exact hs
  useFree hs := hs

/-! ### Actuators that hold their safe value -/

/-- What keeps tables and actuators keeps the value. -/
theorem State.Commanded.ofOrders {T : Tables} {a : Nat} {v : ActValue} {s u : State} (h : State.Commanded T a v s)
    (ho : u.orders = s.orders) : State.Commanded T a v u := h.congr (tab_of_orders ho) (congrArg Orders.acts ho)

theorem orders_deliverPulse (s : State) (c : Nat) (src : Source) : (s.deliverPulse c src).orders = s.orders := by
  unfold State.deliverPulse State.deliver
  exact foldl_view State.orders (fun u i => by
    split
    · exact orders_of_bench (bench_arrive u i c .pulse src)
    · rfl) _ _

section
variable {T : Tables} {a : Nat} {x : AuthEntry} (hx : (T.auth[a]?).join = some x)
include hx

/-- A command of a value that, were it of the actuator's kind, would be its safe one, leaves that (R128). -/
theorem State.Commanded.handSafe {s : State} (h : State.Commanded T a x.kind.safe s) (b : Nat) (w : ActValue)
    (hw : w.kind = x.kind → w = x.kind.safe) : State.Commanded T a x.kind.safe (s.hand b w) :=
  (h.handRaw hx (ActKind.kind_safe _) b w (.inr fun hk => hw (hk.trans (ActKind.kind_safe _)))).congr (tab_pumpDn _) (acts_pumpDn _)

theorem halting_commanded : Halting (State.Commanded T a x.kind.safe) where
  handRaw b w hw hs := hs.handRaw hx (ActKind.kind_safe _) b w (.inr fun hk => by rw [hw, hk, ActKind.kind_safe])
  pumpDn hs := hs.congr (tab_pumpDn _) (acts_pumpDn _)
  notice n hs := hs.congr (tab_of_view (holdView_notice _ n)) (acts_of_bench (bench_notice _ n))
  putRun _ _ hs := hs
  idle _ hs := hs
  useFree hs := hs

/-- A safe value that is handed is held (R128). -/
theorem commanded_handSafe {s : State} (hs : s.tab = T) : State.Commanded T a x.kind.safe (s.hand a x.kind.safe) :=
  commanded_hand hx (ActKind.kind_safe _) hs (ActKind.safe_inRange _)

theorem authE_of_join {s : State} (hs : s.tab = T) : s.authE a = some x := by
  unfold State.authE
  rw [hs]
  exact hx

/-- A booster is SAFE once sequencers and mode control have seen to it, in whichever order (R94, R142). -/
theorem commanded_boostersToSafe {s : State} {k : Nat} {e : LaunchEntry} (hs : s.tab = T) (he : (T.launch[k]?).join = some e)
    (ha : e.booster = a) (hk : x.kind = .booster) : State.Commanded T a x.kind.safe s.boostersToSafe := by
  have hT := halting_tab T
  have h := halting_commanded hx
  have hmode : ∀ {t : State}, t.tab = T → State.Commanded T a x.kind.safe (t.boosterSafeByMode k) := fun {t} ht => by
    have hl : t.launchE k = some e := by unfold State.launchE; rw [ht]; exact he
    have hsafe : x.kind.safe = .boosterSafe := by rw [hk]; rfl
    unfold State.boosterSafeByMode
    rw [hl]
    dsimp only
    rw [ha]
    split
    · next hc => exact ⟨ht, by rw [hsafe]; exact hc⟩
    · rw [← hsafe]
      exact commanded_handSafe hx ht
  have hboth : ∀ {t : State}, t.tab = T → State.Commanded T a x.kind.safe t.boostersSafeByMode := fun {t} ht => by
    have hk2 : k < 2 := launchE_range (s := s) (e := e) (by unfold State.launchE; rw [hs]; exact he)
    unfold State.boostersSafeByMode
    interval_cases k
    · exact h.boosterSafeByMode 1 (hmode ht)
    · exact hmode (hT.boosterSafeByMode 0 ht)
  unfold State.boostersToSafe
  split
  · exact hboth hs
  · split
    · exact hboth (hT.seqsToIdle (hT.useFree hs))
    · exact h.seqsToIdle (hboth (hT.useFree hs))

/-- A gate that a zone names is commanded CLOSE (R142). -/
theorem commanded_closeGates {s : State} {z : Nat} {e : ZoneEntry} (hs : s.tab = T) (he : (T.zone[z]?).join = some e) (ha : e.gate = some a)
    (hk : x.kind = .gate) : State.Commanded T a x.kind.safe s.closeGates := by
  have hsafe : ActValue.gateClose = x.kind.safe := by rw [hk]; rfl
  unfold State.closeGates
  rw [hsafe]
  refine foldl_reaches (P := fun t => t.tab = T) (x := a) _ ?_ (fun t b _ ht => (tab_hand t b _).trans ht)
    (fun t ht => commanded_handSafe hx ht) (fun t b _ ht => ht.handSafe hx b _ fun _ => rfl) hs
  refine List.mem_filter.mpr ⟨List.mem_range.mpr (authE_range (authE_of_join hx hs)), List.any_eq_true.mpr ⟨(z, e), mem_definedZones.mpr ?_, by simp [ha]⟩⟩
  unfold State.zoneE
  rw [hs]
  exact he

/-- A fin of a run that is restored is commanded ENGAGE (R112, R114). -/
theorem commanded_restoreRun {s : State} {r i : Nat} {e : RunEntry} (hs : s.tab = T) (he : (T.run[r]?).join = some e) (hi : i < e.stages)
    (ha : ((T.stage[8 * r + i]?).getD ⟨0, 0, 0⟩).fin = a) (hk : x.kind = .fin) : State.Commanded T a x.kind.safe (s.restoreRun r) := by
  have hsafe : x.kind.safe = .finEngage := by rw [hk]; rfl
  have h := halting_commanded hx
  have hr : s.runE r = some e := by unfold State.runE; rw [hs]; exact he
  have hstage : ∀ {t : State}, t.tab = T → (t.stageOf r i).fin = a := fun h => by
    unfold State.stageOf State.stageE
    rw [h]
    exact ha
  unfold State.restoreRun
  rw [hr]
  refine h.putRun _ _ (foldl_reaches (P := fun t => t.tab = T) (x := i) _ (List.mem_range.mpr hi) (fun t j hj ht => ?_) (fun t ht => ?_)
    (fun t j hj ht => ?_) hs) <;> dsimp only
  · rw [if_pos (List.mem_range.mp hj)]
    split
    · exact ht
    · exact (halting_tab T).handFin r j ht
  · rw [if_pos hi]
    split
    · next hc => exact ⟨ht, by rw [hsafe, ← hstage ht]; exact hc⟩
    · obtain ⟨h1, h2⟩ := handFin_engage t r i
      rw [hstage ht, ← hsafe] at h2
      rw [← hsafe] at h1 ⊢
      exact (commanded_handSafe hx ht).congr (h1.trans (tab_hand t a _).symm) h2
  · rw [if_pos (List.mem_range.mp hj)]
    split
    · exact ht
    · exact h.handFin r j ht

/-- A SHARED actuator is commanded its safe value (R135). -/
theorem commanded_handShared {s : State} (hs : s.tab = T) (ho : x.owner = .shared) :
    State.Commanded T a x.kind.safe (s.handAll s.sharedSafe) := by
  have h := halting_commanded hx
  have hauth := authE_of_join hx hs
  refine h.pumpDn (foldl_reaches (P := fun t => t.tab = T) (x := (a, x.kind.safe)) _ ?_ (fun t p _ ht => (handRaw_tab t _ _).trans ht)
    (fun t ht => ?_) (fun t p hp ht => h.handRaw _ _ (sharedSafe_isSafe s p hp) ht) hs)
  · exact List.mem_filterMap.mpr ⟨a, List.mem_range.mpr (authE_range hauth), by rw [hauth, Option.bind_some, if_pos ho]⟩
  · refine ⟨(handRaw_tab t _ _).trans ht, ?_⟩
    rw [actS_handRaw, if_pos ⟨rfl, (handTaken_iff t a _).mpr ⟨x, authE_of_join hx ht, ActKind.kind_safe _, ActKind.safe_inRange _⟩⟩]

/-- A charge that is aborted commands its booster SAFE (R87). -/
theorem State.Commanded.abortCharge {s : State} (h : State.Commanded T a x.kind.safe s) (k : Nat) (r : AbortReason) :
    State.Commanded T a x.kind.safe (s.abortCharge k r) := by
  unfold State.abortCharge State.launchAbort
  split
  · split
    · next e b _ _ =>
      have h1 : State.Commanded T a x.kind.safe ((s.putSeq k .idle).hand e.booster .boosterSafe) :=
        (halting_commanded hx).hand _ _ rfl ((halting_commanded hx).idle k h)
      refine h1.ofOrders ?_
      dsimp only
      rw [orders_notice]
      split
      · rw [orders_toBerth _ orders_berthReturned, orders_setBoatState, orders_returnReservations]
      · rfl
    · exact h
  · exact h

theorem State.Commanded.inhibitPulse {s : State} (h : State.Commanded T a x.kind.safe s) (c : Nat) :
    State.Commanded T a x.kind.safe (s.inhibitPulse c) := by
  unfold State.inhibitPulse
  refine foldl_keeps (P := State.Commanded T a x.kind.safe) (fun u i hu => ?_) _ h
  split
  · exact hu.abortCharge hx _ _
  · exact hu

theorem State.Commanded.pulse {s : State} (h : State.Commanded T a x.kind.safe s) (g : Gen) : State.Commanded T a x.kind.safe (s.pulse g) := by
  unfold State.pulse
  refine foldl_keeps (P := State.Commanded T a x.kind.safe) (fun t c ht => ?_) _ h
  split
  · exact (ht.ofOrders (orders_deliverPulse t c .generated)).inhibitPulse hx c
  · exact ht

/-- A request for HOLD commands nothing but boosters SAFE (R139, R143). -/
theorem State.Commanded.askHold {s : State} (h : State.Commanded T a x.kind.safe s) (b : Block) :
    State.Commanded T a x.kind.safe (s.askHold b) := by
  unfold State.askHold
  split
  · next hr =>
    unfold State.changeMode State.enterMode State.enterHold State.abortCharges
    rw [if_pos hr]
    have h0 : State.Commanded T a x.kind.safe ((s.modMc fun m => { m with mode := .hold, stopOut := Mode.hold == .stop }).notice
        (.modeChanged .hold s.mode (.block b))) := (halting_commanded hx).notice _ h
    exact ((h0.abortCharge hx 0 .mode).abortCharge hx 1 .mode).pulse hx _
  · exact h
  · exact h
  · exact h
  · exact h

theorem State.Commanded.settleBerths {s : State} (h : State.Commanded T a x.kind.safe s) (hlamp : x.kind ≠ .lamp) (hlock : x.kind ≠ .lock) :
    State.Commanded T a x.kind.safe s.settleBerths := by
  refine settleBerths_keeps (P := State.Commanded T a x.kind.safe) (fun {u} {b e} hu _ _ => ?_) (fun {u} {b e} hu _ _ => ?_) h
  · have h0 : State.Commanded T a x.kind.safe (u.modBerth b fun q => { q with lampDone := false }) := hu.congr rfl rfl
    exact h0.handSafe hx _ _ fun hk => absurd (hk.symm.trans (Lamp.value_kind _)) hlamp
  · have h0 : State.Commanded T a x.kind.safe (u.modBerth b fun q => { q with lockDone := false }) := hu.congr rfl rfl
    exact h0.handSafe hx _ _ fun hk => absurd (hk.symm.trans (LockV.value_kind _)) hlock

/-- The end of an event outside RUN commands nothing but boosters SAFE, lamps and locks (R63, R87). -/
theorem State.Commanded.event {f : State → State} {s : State} (h : State.Commanded T a x.kind.safe (f s)) (hm : (f s).mode ≠ .run)
    (hlamp : x.kind ≠ .lamp) (hlock : x.kind ≠ .lock) : State.Commanded T a x.kind.safe (State.event f s) := by
  have hb : (State.edges s (f s)).evalUserHolds.bench = (f s).bench := (bench_evalUserHolds _).trans (bench_edges _ s)
  have h1 : State.Commanded T a x.kind.safe (State.edges s (f s)).evalUserHolds := h.ofOrders (orders_of_bench hb)
  have h2 : State.Commanded T a x.kind.safe (State.edges s (f s)).evalUserHolds.abortInhibited :=
    foldl_keeps (P := State.Commanded T a x.kind.safe) (fun t k ht => by
      split
      · exact ht.abortCharge hx k _
      · exact ht) [0, 1] h1
  have hm2 : (State.edges s (f s)).evalUserHolds.abortInhibited.mode ≠ .run := by
    rw [mode_of_view (holdView_abortInhibited _)]
    unfold State.mode at *
    rw [mc_of_bench hb]
    exact hm
  unfold State.event State.settle
  dsimp only
  exact ((h2.ofOrders (orders_of_bench (bench_scans _ hm2))).settleBerths hx hlamp hlock).congr
    (by rw [clearEv_tab, driveLines_tab]) (by rw [clearEv_acts, driveLines_acts])

end

/-! ### Sequencers -/

theorem idle_seqToIdle (s : State) {k : Nat} (hk : k < 2) : ((s.seqToIdle k).seqS k).state = .idle := by
  have hput : ((s.putSeq k .idle).seqS k).state = .idle := by rw [seqS_putSeq, if_pos ⟨rfl, hk⟩]; rfl
  have hbooster := (halting_idle k).handBooster k hput
  unfold State.seqToIdle
  dsimp only
  split
  · assumption
  · split
    · exact (halting_idle k).notice _ hbooster
    · exact hbooster

theorem idle_seqsToIdle (s : State) {k : Nat} (hk : k < 2) : (s.seqsToIdle.seqS k).state = .idle := by
  unfold State.seqsToIdle
  interval_cases k
  · exact (halting_idle 0).seqToIdle 1 (idle_seqToIdle s hk)
  · exact idle_seqToIdle _ hk

/-- Every sequencer is IDLE in STOP (R94). -/
theorem idle_safed (s : State) {k : Nat} (hk : k < 2) : (s.safed.seqS k).state = .idle := by
  have h := halting_idle k
  refine h.handShared (h.restoreRuns (h.closeGates ?_))
  unfold State.boostersToSafe
  split
  · next hidle =>
    refine h.boostersSafeByMode ?_
    interval_cases k
    · exact hidle.1
    · exact hidle.2
  · split
    · exact h.boostersSafeByMode (idle_seqsToIdle _ hk)
    · exact idle_seqsToIdle _ hk

/-! ### Withdrawn entries and returned reservations -/

/-- What `withdrawAll` does with one entry (R56, R71). -/
def State.withdrawOne (s : State) (e : QEntry) : State := (s.setBoatState e.boat .waiting).toBerth e.origin State.berthWithdrawn

theorem book_berthWithdrawn (s : State) (b : Nat) : (s.berthWithdrawn b).book = s.book := book_setBerth s b _

theorem book_withdrawOne (s : State) (e : QEntry) : (s.withdrawOne e).book = (s.setBoatState e.boat .waiting).book :=
  book_toBerth e.origin book_berthWithdrawn

theorem queue_withdrawAll (s : State) : s.withdrawAll.queue = [] :=
  foldl_keeps (P := fun t => State.queue t = []) (fun t e ht => by
    show (t.withdrawOne e).queue = []
    rw [queue_of_book (book_withdrawOne t e), queue_setBoatState]
    exact ht) s.queue (s := s.withQueue []) rfl

/-- A boat without an entry keeps its record while the entries are withdrawn. -/
theorem boatR_withdrawAll {s : State} {b : Nat} (h : s.queued b = false) : s.withdrawAll.boatR b = s.boatR b := by
  refine foldl_keeps_mem (P := fun t => State.boatR t b = s.boatR b) s.queue (fun t e he ht => ?_) (s := s.withQueue []) rfl
  have hne : ¬ b = e.boat := fun hb => by
    rw [queued_iff.mpr ⟨e, he, hb.symm⟩] at h
    cases h
  show (t.withdrawOne e).boatR b = s.boatR b
  rw [boatR_of_boats (boats_of_book (book_withdrawOne t e)), boatR_setBoatState, if_neg hne]
  exact ht

/-- What `returnAll` does with one boat (R56, R73). -/
def State.returnOne (s : State) (b : Nat) : State :=
  match s.boatR b with
  | none => s
  | some r =>
    if r.state = .granted then ((s.returnReservations b).setBoatState b .waiting).toBerth r.zone State.berthReturned else s

theorem returnAll_eq (s : State) : s.returnAll = (List.range 24).foldl (fun t i => t.returnOne (i + 1)) s := rfl

theorem returnOne_granted {s : State} {b : Nat} {x : Boat} (hx : s.boatR b = some x) (hst : x.state = .granted) :
    s.returnOne b = ((s.returnReservations b).setBoatState b .waiting).toBerth x.zone State.berthReturned := by
  unfold State.returnOne
  rw [hx]
  exact if_pos hst

theorem returnOne_other {s : State} {b : Nat} (h : ∀ x, s.boatR b = some x → x.state ≠ .granted) : s.returnOne b = s := by
  unfold State.returnOne
  split
  · rfl
  · next x hx => exact if_neg (h x hx)

theorem boatR_returnOne (s : State) (b c : Nat) : (s.returnOne b).boatR c =
    if c = b then (s.boatR b).map (fun x => if x.state = .granted then { x with path := [], state := .waiting } else x) else s.boatR c := by
  by_cases hg : ∃ x, s.boatR b = some x ∧ x.state = .granted
  · obtain ⟨x, hx, hst⟩ := hg
    obtain ⟨-, -, hboat⟩ := returnReservations_granted hx hst
    rw [returnOne_granted hx hst, boatR_of_boats (boats_of_book (book_toBerthReturned _ x.zone)), boatR_setBoatState, hboat, hboat, if_pos rfl]
    split
    · simp [hx, hst]
    · rfl
  · rw [returnOne_other fun x hx hst => hg ⟨x, hx, hst⟩]
    split
    · next hc =>
      rw [hc]
      cases hx : s.boatR b with
      | none => rfl
      | some x => simp [show ¬ x.state = .granted from fun hst => hg ⟨x, hx, hst⟩]
    · rfl

theorem queue_returnOne (s : State) (b : Nat) : (s.returnOne b).queue = s.queue := by
  unfold State.returnOne
  split
  · rfl
  · split
    · rw [queue_of_book (book_toBerthReturned _ _), queue_setBoatState, queue_returnReservations]
    · rfl

theorem zs_toBerthReturned (s : State) (z : Nat) : (s.toBerth z State.berthReturned).zs = s.zs := by
  unfold State.toBerth State.berthReturned State.berthDerive
  split
  · rfl
  · split
    · rfl
    · dsimp only
      split
      · rfl
      · split <;> rfl

theorem reserved_returnOne_keeps {s : State} {b w : Nat} (h : (s.zst w).reserved = none) : ((s.returnOne b).zst w).reserved = none := by
  by_cases hg : ∃ x, s.boatR b = some x ∧ x.state = .granted
  · obtain ⟨x, hx, hst⟩ := hg
    rw [returnOne_granted hx hst]
    unfold State.zst at *
    rw [zs_toBerthReturned]
    show (((s.returnReservations b).setBoatState b .waiting).zst w).reserved = none
    unfold State.setBoatState
    rw [zst_modBoat]
    unfold State.returnReservations State.stopWatch
    rw [hx]
    dsimp only
    rw [if_neg (by simp [hst]), reserved_modZs _ _ _ (fun q => { q with watch := none }) fun _ => rfl, zst_modBoat]
    show (((x.path.foldl (fun s z => s.unreserve z) s).putRel b none).zst w).reserved = none
    unfold State.zst
    rw [putRel_zs]
    exact foldl_keeps (P := fun t => ((State.zst t w).reserved = none)) (fun t z ht => by
      rw [reserved_unreserve]
      split
      · rfl
      · exact ht) x.path h
  · rw [returnOne_other fun x hx hst => hg ⟨x, hx, hst⟩]
    exact h

theorem reserved_returnOne {s : State} {b w : Nat} {x : Boat} (hx : s.boatR b = some x) (hst : x.state = .granted) (hw : w ∈ x.path) :
    ((s.returnOne b).zst w).reserved = none := by
  have h := reserved_returnReservations hx hst hw
  rw [returnOne_granted hx hst]
  unfold State.zst at *
  rw [zs_toBerthReturned]
  show (((s.returnReservations b).setBoatState b .waiting).zst w).reserved = none
  unfold State.setBoatState
  rw [zst_modBoat]
  exact h

theorem queue_returnAll (s : State) : s.returnAll.queue = s.queue :=
  foldl_view State.queue (fun t i => queue_returnOne t (i + 1)) _ s

/-- No boat is GRANTED once all reservations are returned (R56). -/
theorem not_granted_returnAll {s : State} {b : Nat} {x : Boat} (hx : s.returnAll.boatR b = some x) : x.state ≠ .granted := by
  have hb := boatR_range _ hx
  have hfree : ∀ t : State, ∀ y, (t.returnOne b).boatR b = some y → y.state ≠ .granted := fun t y hy => by
    rw [boatR_returnOne, if_pos rfl] at hy
    obtain ⟨z, _, rfl⟩ := Option.map_eq_some_iff.mp hy
    split
    · exact fun h => nomatch h
    · assumption
  rw [returnAll_eq] at hx
  refine foldl_reaches (P := fun _ => True) (Q := fun t => ∀ y, State.boatR t b = some y → y.state ≠ .granted) (x := b - 1) (List.range 24)
    (List.mem_range.mpr (by omega)) (fun _ _ _ _ => trivial) (fun t _ => ?_) (fun t i _ ht => ?_) trivial x hx
  · rw [show b - 1 + 1 = b by omega]
    exact hfree t
  · by_cases hi : i + 1 = b
    · rw [hi]
      exact hfree t
    · intro y hy
      rw [boatR_returnOne, if_neg fun hb => hi hb.symm] at hy
      exact ht y hy

/-- The path of a GRANTED boat is returned (R55, R56). -/
theorem reserved_returnAll {s : State} {b w : Nat} {x : Boat} (hx : s.boatR b = some x) (hst : x.state = .granted) (hw : w ∈ x.path) :
    (s.returnAll.zst w).reserved = none := by
  have hb := boatR_range _ hx
  have hone : ∀ t : State, State.boatR t b = some x ∨ (t.zst w).reserved = none → ((t.returnOne b).zst w).reserved = none :=
    fun t ht => ht.elim (fun h => reserved_returnOne h hst hw) reserved_returnOne_keeps
  rw [returnAll_eq]
  refine foldl_reaches (P := fun t => State.boatR t b = some x ∨ (t.zst w).reserved = none) (Q := fun t => (State.zst t w).reserved = none)
    (x := b - 1) (List.range 24) (List.mem_range.mpr (by omega)) (fun t i _ ht => ?_) (fun t ht => ?_)
    (fun t i _ ht => reserved_returnOne_keeps ht) (.inl hx)
  · by_cases hi : i + 1 = b
    · rw [hi]
      exact .inr (hone t ht)
    · refine ht.imp (fun h => ?_) reserved_returnOne_keeps
      rw [boatR_returnOne, if_neg fun hb => hi hb.symm]
      exact h
  · rw [show b - 1 + 1 = b by omega]
    exact hone t ht

/-! ### The state that an entry to STOP leaves -/

section
variable (s : State)

theorem queue_enterStop : s.enterStop.queue = [] := by
  rw [enterStop_eq, queue_of_book ((halting_book _).safed rfl), queue_returnAll, queue_withdrawAll]

theorem not_granted_enterStop {b : Nat} {x : Boat} (hx : s.enterStop.boatR b = some x) : x.state ≠ .granted := by
  rw [enterStop_eq, boatR_of_boats (boats_of_book ((halting_book _).safed rfl))] at hx
  exact not_granted_returnAll hx

theorem reserved_enterStop {b w : Nat} {x : Boat} (hx : s.boatR b = some x) (hst : x.state = .granted) (hq : s.queued b = false)
    (hw : w ∈ x.path) : (s.enterStop.zst w).reserved = none := by
  have hx' : (s.modMc fun m => { m with holdPending := false }).withdrawAll.boatR b = some x := by
    rw [boatR_withdrawAll (s := s.modMc fun m => { m with holdPending := false }) hq]
    exact hx
  have hzs := (halting_zs _).safed (s := (s.modMc fun m => { m with holdPending := false }).withdrawAll.returnAll) rfl
  rw [enterStop_eq]
  unfold State.zst
  rw [hzs]
  exact reserved_returnAll hx' hst hw

theorem idle_enterStop {k : Nat} (hk : k < 2) : (s.enterStop.seqS k).state = .idle := idle_safed _ hk

end

/-- An actuator that the entry to STOP has to put into its safe value: a gate of a zone, a fin of a run, a booster of a section, or a
SHARED one (R114, R135, R142). -/
def State.toBeSafe (s : State) (a : Nat) (x : AuthEntry) : Prop :=
  (x.kind = .gate ∧ ∃ z e, s.zoneE z = some e ∧ e.gate = some a) ∨
  (x.kind = .fin ∧ ∃ r e i, s.runE r = some e ∧ i < e.stages ∧ (s.stageOf r i).fin = a) ∨
  (x.kind = .booster ∧ ∃ k e, s.launchE k = some e ∧ e.booster = a) ∨ x.owner = .shared

theorem commanded_enterStop {s : State} {a : Nat} {x : AuthEntry} (hx : s.authE a = some x) (h : s.toBeSafe a x) :
    State.Commanded s.tab a x.kind.safe s.enterStop := by
  have hT := halting_tab s.tab
  have hC : Halting (State.Commanded s.tab a x.kind.safe) := halting_commanded hx
  have htab : (s.modMc fun m => { m with holdPending := false }).withdrawAll.returnAll.tab = s.tab := by
    rw [tab_of_view (holdView_returnAll _), tab_of_view (holdView_withdrawAll _)]
    rfl
  rw [enterStop_eq]
  generalize (s.modMc fun m => { m with holdPending := false }).withdrawAll.returnAll = t at htab
  rcases h with ⟨hk, z, e, he, hg⟩ | ⟨hk, r, e, i, he, hi, hf⟩ | ⟨hk, k, e, he, hb⟩ | ho
  · exact hC.handShared (hC.restoreRuns (commanded_closeGates hx (hT.boostersToSafe htab) he hg hk))
  · refine hC.handShared ?_
    have hr := runE_range he
    have h0 := hT.closeGates (hT.boostersToSafe htab)
    unfold State.restoreRuns
    interval_cases r
    · exact hC.restoreRun 1 (commanded_restoreRun hx h0 he hi hf hk)
    · exact commanded_restoreRun hx (hT.restoreRun 0 h0) he hi hf hk
  · exact hC.handShared (hC.restoreRuns (hC.closeGates (commanded_boostersToSafe hx htab he hb hk)))
  · exact commanded_handShared hx (hT.restoreRuns (hT.closeGates (hT.boostersToSafe htab))) ho

/-! ### ESTOP -/

/-- The state in which STOP is entered for ESTOP: asserted, a check aborted, the mode changed and its notice sent (R141, R145). -/
def State.estopped (s : State) : State :=
  (((s.modMc fun m => { m with estop := true }).abortCheck.modMc fun m => { m with mode := .stop, stopOut := true }).notice
    (.modeChanged .stop s.mode .estop))

theorem abortCheck_eq (s : State) : ∃ f, s.abortCheck = s.modMc f ∧ (f s.mc).mode = s.mc.mode ∧ (f s.mc).check = none ∧
    (f s.mc).estop = s.mc.estop ∧ (f s.mc).layoutChecked = s.mc.layoutChecked := by
  unfold State.abortCheck
  split
  · next h => exact ⟨id, rfl, rfl, h, rfl, rfl⟩
  · exact ⟨_, rfl, rfl, rfl, rfl, rfl⟩

theorem estopOn_eq {s : State} (h : s.mode ≠ .stop) : s.estopOn = s.estopped.enterStop := by
  obtain ⟨f, hf, hm, -⟩ := abortCheck_eq (s.modMc fun m => { m with estop := true })
  have hmode : (s.modMc fun m => { m with estop := true }).abortCheck.mode = s.mode := by
    rw [hf]
    exact hm
  unfold State.estopOn State.goStop
  refine (if_neg h).trans ?_
  unfold State.changeMode State.enterMode State.estopped
  rw [hmode]
  rfl

/-- What a boat, a zone and the tables are asked for does not change until STOP is entered. -/
theorem estopped_leaves (s : State) : s.estopped.book = s.book ∧ s.estopped.tab = s.tab := by
  obtain ⟨f, hf, -⟩ := abortCheck_eq (s.modMc fun m => { m with estop := true })
  unfold State.estopped
  rw [hf]
  exact ⟨book_notice _ _, (tab_of_view (holdView_notice _ _)).trans rfl⟩

theorem mc_estopped (s : State) : s.estopped.mc.mode = .stop ∧ s.estopped.mc.stopOut = true ∧ s.estopped.mc.estop = true ∧
    s.estopped.mc.check = none ∧ s.estopped.mc.layoutChecked = s.mc.layoutChecked := by
  obtain ⟨f, hf, -, hcheck, hestop, hlayout⟩ := abortCheck_eq (s.modMc fun m => { m with estop := true })
  unfold State.estopped
  rw [hf, notice_mc]
  exact ⟨rfl, rfl, hestop, hcheck, hlayout⟩

theorem sent_estopped {s t : State} (hst : Steady s t) (hm : s.mask.getLsbD (Notice.modeChanged .stop t.mode .estop).kind = true) :
    Sent s (.modeChanged .stop t.mode .estop) t.estopped := by
  obtain ⟨f, hf, -⟩ := abortCheck_eq (t.modMc fun m => { m with estop := true })
  unfold State.estopped
  rw [hf]
  exact sent_notice (hst.congr rfl rfl rfl) hm

/-- Settles O19: the entry to STOP gives each part of it, and the end of the event, outside RUN and with no charge, keeps it. -/
theorem estopBringsStop : Obligations.EstopBringsStop := by
  refine ⟨fun t s hstop => ?_, fun t s hstop => ?_, fun t s => ?_⟩
  · obtain ⟨hbook, htab⟩ := estopped_leaves (s.at_ t)
    obtain ⟨hmode, hout, hestop, hcheck, hlayout⟩ := mc_estopped (s.at_ t)
    have hmc : (s.at_ t).estopped.enterStop.mc = { (s.at_ t).estopped.mc with holdPending := false } := mc_enterStop _
    have hrun : (s.at_ t).estopped.enterStop.mode ≠ .run := by
      unfold State.mode
      rw [hmc]
      show (s.at_ t).estopped.mc.mode ≠ .run
      rw [hmode]
      decide
    have hidle : ∀ k, k < 2 → ((s.at_ t).estopped.enterStop.seqS k).state ≠ .charging := fun k hk => by
      rw [idle_enterStop _ hk]
      decide
    have hkept := (base_book (s.at_ t).estopped.enterStop.book).event (fun _ h => h) (fun h => h)
      (f := fun _ => (s.at_ t).estopped.enterStop) (s := s.at_ t) hrun hidle rfl
    have hseqs := (still_seqs (s.at_ t).estopped.enterStop.seqs).toBase.event (fun _ h => h) (fun h => h)
      (f := fun _ => (s.at_ t).estopped.enterStop) (s := s.at_ t) hrun hidle rfl
    have hsafe : ∀ a x, s.authE a = some x → s.toBeSafe a x → x.kind ≠ .lamp → x.kind ≠ .lock →
        ((State.event (fun _ => (s.at_ t).estopped.enterStop) (s.at_ t)).actS a).commanded = some x.kind.safe := fun a x hx h hlamp hlock => by
      have hauth : (s.at_ t).estopped.authE a = some x := by unfold State.authE; rw [htab]; exact hx
      have hto : (s.at_ t).estopped.toBeSafe a x := by
        unfold State.toBeSafe State.zoneE State.runE State.stageOf State.stageE State.launchE
        rw [htab]
        exact h
      exact (State.Commanded.event (T := (s.at_ t).estopped.tab) hauth (f := fun _ => (s.at_ t).estopped.enterStop)
        (commanded_enterStop hauth hto) hrun hlamp hlock).2
    refine completes_command rfl _ (estopOn_eq (s := s.at_ t) hstop) ⟨?_, ?_, ?_, ?_, ?_, ?_, noticed_of_sent fun hm => ?_, ?_, fun b x hx => ?_,
      fun b x z hx hst hq hz => ?_, fun k hk => ?_, fun z e a x he hg hx hk => ?_, fun r e i x he hi hx hk => ?_,
      fun k e x he hx hk => ?_, fun a x hx ho hlamp hlock => ?_⟩
    · unfold State.mode
      rw [mc_event, hmc]
      exact hmode
    · rw [mc_event, hmc]
      exact hout
    · rw [mc_event, hmc]
      exact hestop
    · rw [mc_event, hmc]
    · rw [mc_event, hmc]
      exact hcheck
    · rw [mc_event, hmc]
      exact hlayout
    · exact (sent_calm s _).toMild.event ((sent_calm s _).enterStop (sent_estopped (steady_at s t) hm))
    · rw [queue_of_book hkept, queue_enterStop]
    · rw [boatR_of_boats (boats_of_book hkept)] at hx
      exact not_granted_enterStop _ hx
    · rw [reserved_event (f := fun _ => (s.at_ t).estopped.enterStop) hrun hidle]
      exact reserved_enterStop _ ((boatR_of_boats (boats_of_book hbook) b).trans hx) hst ((queued_of_queue (queue_of_book hbook) b).trans hq) hz
    · unfold State.seqS
      rw [hseqs]
      exact idle_enterStop _ hk
    · rw [hsafe a x hx (.inl ⟨hk, z, e, he, hg⟩) (by rw [hk]; decide) (by rw [hk]; decide), hk]
      rfl
    · rw [hsafe _ x hx (.inr (.inl ⟨hk, r, e, i, he, hi, rfl⟩)) (by rw [hk]; decide) (by rw [hk]; decide), hk]
      rfl
    · rw [hsafe _ x hx (.inr (.inr (.inl ⟨hk, k, e, he, rfl⟩))) (by rw [hk]; decide) (by rw [hk]; decide), hk]
      rfl
    · exact hsafe a x hx (.inr (.inr (.inr ho))) hlamp hlock
  · refine completes_command rfl _ (if_pos hstop : (s.at_ t).estopOn = _) ?_
    rw [mc_event]
    rfl
  · refine completes_command rfl _ (rfl : (s.at_ t).estopOff = _) ?_
    rw [mc_event]
    rfl

end Sys2Proof.Machine
end

section
/-! A launch from DONE to IDLE: measuring, result, cooldown, and a DONE without FIRE (R88 to R92): settles O41. -/

namespace Sys2Proof.Machine

/-! ### Sequencers through what follows an event -/

/-- A property of the sequencers alone is kept by every update but theirs. -/
theorem still_of_seqs {R : Vector Seq 2 → Prop} : Still fun s => R s.seqs := by
  have same : ∀ {s t : State}, R s.seqs → t.seqs = s.seqs → R t.seqs := fun hs h => by rw [h]; exact hs
  exact {
    startUp := fun hs => hs
    placeHeld := fun {s} hs => same hs ((still_seqs s.seqs).placeHeld rfl)
    buildNotice := fun {s} hs => same hs ((still_seqs s.seqs).buildNotice rfl)
    startDn := fun hs => hs
    placeLimit := fun _ _ _ hs => hs
    placeCommands := fun _ _ hs => hs
    queueNotice := fun _ _ hs => hs
    dropNotice := fun hs => hs
    handRaw := fun {s} a v _ hs => same hs (handRaw_seqs s a v)
    modEv := fun _ hs => hs
    putZs := fun _ _ _ hs => hs
    putBerth := fun _ _ _ hs => hs
    putNode := fun _ _ _ hs => hs
    modBoat := fun _ _ _ hs => same hs (by simp)
    putRel := fun _ _ hs => same hs (by simp)
    filterQueue := fun _ hs => hs }

/-- A sequencer that is neither IDLE nor CHARGING keeps its status: quiet updates start and abort charges, no more. -/
theorem quiet_working {k : Nat} {q : Seq} (hi : q.state ≠ .idle) (hc : q.state ≠ .charging) : Quiet fun s => s.seqS k = q where
  toStill := still_of_seqs (R := fun v => v[k]?.getD .idle = q)
  handAny {s} a v _ hs := by
    unfold State.seqS at *
    rw [handRaw_seqs]
    exact hs
  putSeq {s} j x hj _ hs := by
    rw [seqS_putSeq]
    split
    · next hk =>
      rw [← hk.1, hs] at hj
      exact (hj.elim hi hc).elim
    · exact hs

/-- The queue stays empty: only requests and undone grants add to it (R39, R52). -/
theorem quiet_queue_nil : Quiet fun s => s.queue = [] where
  startUp hs := hs
  placeHeld {s} hs := (queue_of_book (book_placeHeld s)).trans hs
  buildNotice {s} hs := (queue_of_book (book_buildNotice s)).trans hs
  startDn hs := hs
  placeLimit _ _ _ hs := hs
  placeCommands _ _ hs := hs
  queueNotice _ _ hs := hs
  dropNotice hs := hs
  handRaw _ _ _ hs := (queue_of_book (book_handRaw _ _ _)).trans hs
  handAny _ _ _ hs := (queue_of_book (book_handRaw _ _ _)).trans hs
  modEv _ hs := hs
  putZs _ _ _ hs := hs
  putBerth _ _ _ hs := hs
  putNode _ _ _ hs := hs
  modBoat _ _ _ hs := (modBoat_queue _ _ _).trans hs
  putRel _ _ hs := (putRel_queue _ _ _).trans hs
  filterQueue p hs := by
    rw [hs]
    rfl
  putSeq _ _ _ _ hs := hs

/-- The moment of the event stays. -/
theorem quiet_now (v : Nat) : Quiet fun s => s.now = v where
  toBase := base_now v
  handAny {s} a w _ hs := by
    have h : (s.handRaw a w).now = s.now := by
      unfold State.handRaw
      split
      · rfl
      · dsimp only
        split <;> rfl
    exact h.trans hs
  modBoat _ _ _ hs := (modBoat_now _ _ _).trans hs
  putRel _ _ hs := (putRel_now _ _ _).trans hs
  filterQueue _ hs := hs
  putSeq _ _ _ _ hs := hs

/-! ### An IDLE sequencer at the end of an event -/

/-- The sequencer is IDLE, or charges a launch that has been granted since (R45, R85). -/
def State.Granting (k : Nat) (s : State) : Prop := s.seqS k = .idle ∨ (s.seqS k).state = .charging

namespace State.Granting

variable {k : Nat} {s : State}

theorem ofSeqs {u : State} (hs : s.Granting k) (h : u.seqs = s.seqs) : u.Granting k := by
  unfold State.Granting State.seqS at *
  rw [h]
  exact hs

theorem putSeq {j : Nat} {q : Seq} (hq : q = .idle ∨ q.state = .charging) (hs : s.Granting k) : (s.putSeq j q).Granting k := by
  unfold State.Granting
  rw [seqS_putSeq]
  split
  · exact hq
  · exact hs

theorem launchAbort (j : Nat) (r : AbortReason) (hs : s.Granting k) : (s.launchAbort j r).Granting k := by
  rcases seqs_launchAbort s j r with h | h
  · exact hs.ofSeqs h
  · exact (hs.putSeq (.inl rfl)).ofSeqs h

theorem chargeStart (j b : Nat) (hs : s.Granting k) : (s.chargeStart j b).Granting k := by
  unfold State.chargeStart
  split
  · exact hs
  · next e he =>
    dsimp only
    have h1 := hs.putSeq (j := j) (q := { Seq.idle with state := .charging, boat := some b, band := ((s.boatR b).bind fun x => x.band).map (·.2) })
      (.inr rfl)
    split
    · exact h1.launchAbort j _
    · split
      · exact h1.launchAbort j _
      · refine (h1.putSeq (j := j) (.inr ?_)).ofSeqs (seqs_hand _ _ _)
        rw [seqS_put_state (launchE_range he)]

theorem openGate (e : QEntry) (z : ZoneEntry) (hs : s.Granting k) : (s.openGate e z).Granting k := by
  unfold State.openGate
  dsimp only
  split
  · exact hs.ofSeqs (putRel_seqs _ _ _)
  · exact hs.ofSeqs ((seqs_hand _ _ _).trans (putRel_seqs _ _ _))

theorem beginRelease (e : QEntry) (z : ZoneEntry) (hs : s.Granting k) : (s.beginRelease e z).Granting k := by
  unfold State.beginRelease
  split
  · dsimp only
    split
    · exact hs.ofSeqs (putRel_seqs _ _ _)
    · exact (hs.ofSeqs (putRel_seqs _ _ _)).chargeStart _ _
  · split
    · exact hs.ofSeqs ((seqs_hand _ _ _).trans (putRel_seqs _ _ _))
    · exact hs.openGate e z
  · exact hs.openGate e z
  · exact hs.openGate e z
  · exact hs.openGate e z
  · exact hs
  · exact hs

theorem grant (e : QEntry) (hs : s.Granting k) : (s.grant e).Granting k := by
  rw [grant_taken]
  have hberth : ((s.taken e).toBerth e.origin State.berthGranted).orders = s.orders :=
    (orders_toBerth (s.taken e) (f := State.berthGranted) (fun _ _ => rfl) e.origin).trans (orders_taken s e)
  have h1 : ((s.taken e).toBerth e.origin State.berthGranted).Granting k := hs.ofSeqs (seqs_of_orders hberth)
  split
  · exact h1
  · exact h1.beginRelease e _

theorem scans (n : Nat) {s : State} (hs : s.Granting k) : (State.scans n s).Granting k := by
  induction n generalizing s with
  | zero => exact hs
  | succ n ih =>
    unfold State.scans
    split
    · refine ih (foldl_keeps (P := State.Granting k) (fun t e ht => ?_) _ hs)
      split
      · exact ht.grant e
      · exact ht
    · exact hs

end State.Granting

/-- With nothing queued a scan grants nothing (R45). -/
theorem seqs_scans_nil (n : Nat) {s : State} (hq : s.queue = []) : (State.scans n s).seqs = s.seqs := by
  induction n generalizing s with
  | zero => rfl
  | succ n ih =>
    unfold State.scans
    split
    · have h : (s.modEv fun e => { e with scanDue := false }).scan = s.modEv fun e => { e with scanDue := false } := by
        unfold State.scan
        rw [show (s.modEv fun e => { e with scanDue := false }).queue = [] from hq]
        rfl
      rw [h]
      exact ih hq
    · rfl

/-- What comes before the scans leaves a sequencer alone that is not CHARGING (R63, R87, R150). -/
theorem seqS_before_scans {s0 s : State} {k : Nat} (hk : (s.seqS k).state ≠ .charging) :
    ((State.edges s0 s).evalUserHolds.abortInhibited).seqS k = s.seqS k := by
  have hseqs := (still_seqs s.seqs).evalUserHolds ((still_seqs s.seqs).edges (fun _ h => h) s0 rfl)
  refine foldl_keeps (P := fun t => State.seqS t k = s.seqS k) (fun t j ht => ?_) [0, 1] (by unfold State.seqS; rw [hseqs])
  split
  · rw [seqS_abortCharge _ _ _ _ (by rw [ht]; exact hk), ht]
  · exact ht

/-- What comes after the scans leaves the sequencers alone (R63, R154). -/
theorem seqs_after_scans (s : State) : s.settleBerths.driveLines.clearEv.seqs = s.seqs := by
  have h : s.settleBerths.seqs = s.seqs := (still_seqs s.seqs).settleBerths (s := s) rfl
  rw [clearEv_seqs, driveLines_seqs, h]

/-- An IDLE sequencer is IDLE after the event, unless a scan in RUN granted a queued launch (R45, R85). -/
theorem seqS_event_idle {f : State → State} {s : State} {k : Nat} (h : (f s).seqS k = .idle) :
    (State.event f s).seqS k = .idle ∨
      ((f s).mode = .run ∧ (f s).queue ≠ [] ∧ ((State.event f s).seqS k).state = .charging) := by
  have h1 := (seqS_before_scans (s0 := s) (s := f s) (k := k) (by rw [h]; decide)).trans h
  have hmc : ((State.edges s (f s)).evalUserHolds.abortInhibited).mc = (f s).mc :=
    (quiet_mc _).abortInhibited ((quiet_mc _).evalUserHolds ((quiet_mc _).edges (fun _ h => h) s rfl))
  have hqueue : (f s).queue = [] → ((State.edges s (f s)).evalUserHolds.abortInhibited).queue = [] := fun hq =>
    quiet_queue_nil.abortInhibited (quiet_queue_nil.evalUserHolds (quiet_queue_nil.edges (fun _ h => h) s hq))
  have hend : ∀ t : State, t.settleBerths.driveLines.clearEv.seqs = t.seqs := seqs_after_scans
  unfold State.event State.settle
  dsimp only
  generalize (State.edges s (f s)).evalUserHolds.abortInhibited = t at h1 hmc hqueue
  have hsame : ∀ n, (State.scans n t).seqs = t.seqs → (State.scans n t).settleBerths.driveLines.clearEv.seqS k = .idle := fun n hn => by
    unfold State.seqS at *
    rw [hend, hn, h1]
  by_cases hm : (f s).mode = .run
  · by_cases hq : (f s).queue = []
    · exact .inl (hsame _ (seqs_scans_nil _ (hqueue hq)))
    · have hgr : State.Granting k (State.scans (t.queue.length + 1) t).settleBerths.driveLines.clearEv :=
        (State.Granting.scans _ (.inl h1)).ofSeqs (hend _)
      exact hgr.imp id fun hc => ⟨hm, hq, hc⟩
  · refine .inl (hsame _ (seqs_of_bench (bench_scans _ ?_)))
    unfold State.mode at *
    rw [hmc]
    exact hm

/-! ### Cooldown -/

section
variable {s : State} {k : Nat} {e : LaunchEntry}

theorem seqS_cooldownStart (hk : k < 2) : (s.cooldownStart k e).seqS k =
    if e.cooldown = 0 then .idle else { s.seqS k with state := .cooldown, held := none, cooldown := some s.now } := by
  unfold State.cooldownStart State.modSeq
  split
  · exact seqS_put_state hk
  · exact seqS_put_state hk

theorem cooldownStart_leaves : (s.cooldownStart k e).mc = s.mc ∧ (s.cooldownStart k e).queue = s.queue := by
  unfold State.cooldownStart
  dsimp only
  split <;> exact ⟨rfl, rfl⟩

/-- A launch that has ended is in COOLDOWN after the event, or IDLE where there is none, or the section's next one (R45, R91). -/
theorem cooldownStart_event (hk : k < 2) (s0 : State) :
    (e.cooldown ≠ 0 → (State.event (fun _ => s.cooldownStart k e) s0).seqS k =
      { s.seqS k with state := .cooldown, held := none, cooldown := some s.now }) ∧
    (e.cooldown = 0 → (State.event (fun _ => s.cooldownStart k e) s0).seqS k = .idle ∨
      (s.mode = .run ∧ s.queue ≠ [] ∧ ((State.event (fun _ => s.cooldownStart k e) s0).seqS k).state = .charging)) := by
  have hseq := seqS_cooldownStart (s := s) (e := e) hk
  obtain ⟨hmc, hqueue⟩ := cooldownStart_leaves (s := s) (k := k) (e := e)
  refine ⟨fun hc => ?_, fun hc => ?_⟩
  · rw [if_neg hc] at hseq
    exact (quiet_working SeqState.noConfusion SeqState.noConfusion).eventEnd (fun _ h => h) (fun h => h) hseq
  · rw [if_pos hc] at hseq
    have h := seqS_event_idle (f := fun _ => s.cooldownStart k e) (s := s0) hseq
    unfold State.mode at *
    rw [hmc, hqueue] at h
    exact h

end

/-! ### DONE -/

/-- A section that begins MEASURING: its DONE timer stops, and the launch zone's watch starts where the boat still is (R34, R88). -/
def State.measuring (s : State) (k : Nat) (e : LaunchEntry) : State :=
  (s.modSeq k fun q => { q with state := .measuring, done := none }).launchReleased k e

section
variable {s : State} {k : Nat} {e : LaunchEntry}

/-- A watch that starts changes zones alone. -/
theorem launchReleased_eq (s : State) (k : Nat) (e : LaunchEntry) : ∃ v w, s.launchReleased k e = { s with zs := v, ev := w } := by
  unfold State.launchReleased State.startWatch
  split
  · split
    · exact ⟨_, _, rfl⟩
    · exact ⟨_, _, rfl⟩
  · exact ⟨_, _, rfl⟩

theorem seqS_measuring (hl : s.launchE k = some e) :
    (s.measuring k e).seqS k = { s.seqS k with state := .measuring, done := none } := by
  unfold State.measuring
  unfold State.seqS
  rw [seqs_launchReleased]
  exact seqS_modSeq_self hl _

theorem measuring_leaves (s : State) (k : Nat) (e : LaunchEntry) :
    (s.measuring k e).mc = s.mc ∧ (s.measuring k e).now = s.now ∧ (s.measuring k e).queue = s.queue ∧ (s.measuring k e).tab = s.tab ∧
      (s.measuring k e).boats = s.boats := by
  obtain ⟨v, w, h⟩ := launchReleased_eq (s.modSeq k fun q => { q with state := .measuring, done := none }) k e
  unfold State.measuring
  rw [h]
  exact ⟨rfl, rfl, rfl, rfl, rfl⟩

theorem steady_measuring {s0 : State} (h : Steady s0 s) : Steady s0 (s.measuring k e) := by
  obtain ⟨v, w, hv⟩ := launchReleased_eq (s.modSeq k fun q => { q with state := .measuring, done := none }) k e
  unfold State.measuring
  rw [hv]
  exact h.congr rfl rfl rfl

theorem pathOf_measuring (b : Nat) : (s.measuring k e).pathOf b = s.pathOf b := by
  obtain ⟨-, -, -, -, hboats⟩ := measuring_leaves s k e
  unfold State.pathOf
  rw [boatR_of_boats hboats]

theorem bandTarget_measuring (j i : Nat) : (s.measuring k e).bandTarget j i = s.bandTarget j i := by
  obtain ⟨-, -, -, htab, -⟩ := measuring_leaves s k e
  unfold State.bandTarget State.band State.bandE
  rw [htab]

theorem takeDone_firing {src num : Nat} (hk : s.boosterMatch src num = some k) (hl : s.launchE k = some e)
    (hq : (s.seqS k).state = .firing) : s.takeDone src num = (s.measuring k e).measure k e := by
  unfold State.takeDone
  rw [hk]
  dsimp only
  rw [hl]
  dsimp only
  rw [hq]
  rfl

theorem takeDone_charging {src num : Nat} (hk : s.boosterMatch src num = some k) (hl : s.launchE k = some e)
    (hq : (s.seqS k).state = .charging) : s.takeDone src num = s.uncommanded k e := by
  unfold State.takeDone
  rw [hk]
  dsimp only
  rw [hl]
  dsimp only
  rw [hq]

/-- With no speed held and path left the launch waits for either (R88). -/
theorem measure_waits (hh : (s.seqS k).held = none) (hp : s.pathOf ((s.seqS k).boat.getD 0) ≠ []) : s.measure k e = s := by
  unfold State.measure
  dsimp only
  rw [hh]
  exact if_neg hp

theorem measure_held {v : Nat} (hh : (s.seqS k).held = some v) : s.measure k e = s.launchSpeed k e v := by
  unfold State.measure
  dsimp only
  rw [hh]

theorem measure_arrived (hh : (s.seqS k).held = none) (hp : s.pathOf ((s.seqS k).boat.getD 0) = []) : s.measure k e = s.launchNone k e := by
  unfold State.measure
  dsimp only
  rw [hh]
  exact if_pos hp

end

/-! ### Results -/

/-- The notice of a launch that ends with a speed (R89). -/
def State.speedNotice (s : State) (k : Nat) (e : LaunchEntry) (v : Nat) : Notice :=
  .launchResult k ((s.seqS k).boat.getD 0) ((s.seqS k).band.getD 0) (s.bandTarget k ((s.seqS k).band.getD 0)) (some v)
    (classify (s.bandTarget k ((s.seqS k).band.getD 0)) e.tolerance v)

/-- The notice of a launch that ends without one (R90). -/
def State.arrivedNotice (s : State) (k : Nat) : Notice :=
  .launchResult k ((s.seqS k).boat.getD 0) ((s.seqS k).band.getD 0) (s.bandTarget k ((s.seqS k).band.getD 0)) none .none

/-- A launch that ends with a speed, before its cooldown: reported, and a request for HOLD where it was STRONG (R89). -/
def State.classified (s : State) (k : Nat) (e : LaunchEntry) (v : Nat) : State :=
  if classify (s.bandTarget k ((s.seqS k).band.getD 0)) e.tolerance v = .strong then (s.notice (s.speedNotice k e v)).askHold .launch
  else s.notice (s.speedNotice k e v)

section
variable {s : State} {k : Nat} {e : LaunchEntry} {v : Nat}

theorem launchSpeed_eq (s : State) (k : Nat) (e : LaunchEntry) (v : Nat) : s.launchSpeed k e v = (s.classified k e v).cooldownStart k e := rfl

theorem launchNone_eq (s : State) (k : Nat) (e : LaunchEntry) : s.launchNone k e = (s.notice (s.arrivedNotice k)).cooldownStart k e := rfl

theorem speedNotice_eq {b i : Nat} (hb : (s.seqS k).boat = some b) (hi : (s.seqS k).band = some i) : s.speedNotice k e v =
    .launchResult k b i (s.bandTarget k i) (some v) (classify (s.bandTarget k i) e.tolerance v) := by
  unfold State.speedNotice
  rw [hb, hi]
  rfl

theorem arrivedNotice_eq {b i : Nat} (hb : (s.seqS k).boat = some b) (hi : (s.seqS k).band = some i) : s.arrivedNotice k =
    .launchResult k b i (s.bandTarget k i) none .none := by
  unfold State.arrivedNotice
  rw [hb, hi]
  rfl

theorem Calm.classified {P : State → Prop} (h : Calm P) (hs : P (s.notice (s.speedNotice k e v))) : P (s.classified k e v) := by
  unfold State.classified
  split
  · exact h.askHold _ hs
  · exact hs

theorem seqS_classified (hq : (s.seqS k).state = .measuring) : (s.classified k e v).seqS k = s.seqS k := by
  have hn : (s.notice (s.speedNotice k e v)).seqS k = s.seqS k := by unfold State.seqS; rw [seqs_notice]
  unfold State.classified
  split
  · rw [seqS_askHold _ _ _ (by rw [hn, hq]; decide), hn]
  · exact hn

theorem now_classified : (s.classified k e v).now = s.now := by
  have hn : (s.notice (s.speedNotice k e v)).now = s.now := (quiet_now _).notice _ rfl
  unfold State.classified
  split
  · exact (quiet_now _).askHold (fun _ h => h) (fun _ h => h) _ hn
  · exact hn

theorem queue_classified (hq : s.queue = []) : (s.classified k e v).queue = [] := by
  have hn : (s.notice (s.speedNotice k e v)).queue = [] := quiet_queue_nil.notice _ hq
  unfold State.classified
  split
  · exact quiet_queue_nil.askHold (fun _ h => h) (fun _ h => h) _ hn
  · exact hn

theorem mode_classified (hm : (s.classified k e v).mode = .run) : s.mode = .run := by
  unfold State.classified at hm
  split at hm
  · exact absurd hm (mode_askHold_ne_run _ _)
  · unfold State.mode at *
    rwa [notice_mc] at hm

theorem holdTaken_classified {s0 u : State} (h0 : s.mc = s0.mc) (hu : u.mc = (s.classified k e v).mc)
    (hc : classify (s.bandTarget k ((s.seqS k).band.getD 0)) e.tolerance v = .strong) : s0.holdTaken u := by
  unfold State.classified at hu
  rw [if_pos hc] at hu
  exact holdTaken_of_askHold ((notice_mc _ _).trans h0) hu

/-- What a launch that ends in MEASURING with a speed leaves at the end of the event (R89, R91). -/
theorem launchSpeed_event (hk : k < 2) (hq : (s.seqS k).state = .measuring) (s0 : State) :
    (e.cooldown ≠ 0 → (State.event (fun _ => s.launchSpeed k e v) s0).seqS k =
      { s.seqS k with state := .cooldown, held := none, cooldown := some s.now }) ∧
    (e.cooldown = 0 → (State.event (fun _ => s.launchSpeed k e v) s0).seqS k = .idle ∨
      (s.mode = .run ∧ s.queue ≠ [] ∧ ((State.event (fun _ => s.launchSpeed k e v) s0).seqS k).state = .charging)) := by
  obtain ⟨hcool, hzero⟩ := cooldownStart_event (s := s.classified k e v) (e := e) hk s0
  rw [seqS_classified hq, now_classified] at hcool
  exact ⟨hcool, fun hc => (hzero hc).imp id fun ⟨hm, hn, hch⟩ => ⟨mode_classified hm, fun h => hn (queue_classified h), hch⟩⟩

theorem sent_launchSpeed {s0 : State} (hq : (s.seqS k).state = .measuring) (hs : Steady s0 s)
    (hm : s0.mask.getLsbD (s.speedNotice k e v).kind = true) : Sent s0 (s.speedNotice k e v) (s.launchSpeed k e v) := by
  have h := sent_calm s0 (s.speedNotice k e v)
  rw [launchSpeed_eq]
  exact h.toModal.cooldownStart k e (by rw [seqS_classified hq, hq]; decide) (h.classified (sent_notice hs hm))

/-- What a launch that ends without a speed leaves at the end of the event (R90, R91). -/
theorem launchNone_event (hk : k < 2) (s0 : State) :
    (e.cooldown ≠ 0 → (State.event (fun _ => s.launchNone k e) s0).seqS k =
      { s.seqS k with state := .cooldown, held := none, cooldown := some s.now }) ∧
    (e.cooldown = 0 → (State.event (fun _ => s.launchNone k e) s0).seqS k = .idle ∨
      (s.mode = .run ∧ s.queue ≠ [] ∧ ((State.event (fun _ => s.launchNone k e) s0).seqS k).state = .charging)) := by
  have h := cooldownStart_event (s := s.notice (s.arrivedNotice k)) (e := e) hk s0
  unfold State.mode State.seqS at *
  rw [notice_mc, seqs_notice, (quiet_now s.now).notice _ rfl, queue_of_book (book_notice _ _)] at h
  exact h

theorem sent_launchNone {s0 : State} (hq : (s.seqS k).state = .measuring) (hs : Steady s0 s)
    (hm : s0.mask.getLsbD (s.arrivedNotice k).kind = true) : Sent s0 (s.arrivedNotice k) (s.launchNone k e) := by
  have hn : (s.notice (s.arrivedNotice k)).seqS k = s.seqS k := by unfold State.seqS; rw [seqs_notice]
  rw [launchNone_eq]
  exact (sent_calm s0 _).toModal.cooldownStart k e (by rw [hn, hq]; decide) (sent_notice hs hm)

end

/-! ### DONE in CHARGING -/

section
variable {s : State} {k : Nat} {e : LaunchEntry}

/-- A charging section that fires by itself: MEASURING and its booster SAFE (R92). -/
def State.unfired (s : State) (k : Nat) (e : LaunchEntry) : State :=
  (s.modSeq k fun q => { q with state := .measuring, charge := none }).hand e.booster .boosterSafe

theorem uncommanded_eq (s : State) (k : Nat) (e : LaunchEntry) : s.uncommanded k e =
    (((s.unfired k e).notice (.boosterFault k ((s.seqS k).boat.getD 0) .uncommanded)).askHold .launch).launchReleased k e := rfl

theorem seqS_unfired (hl : s.launchE k = some e) : (s.unfired k e).seqS k = { s.seqS k with state := .measuring, charge := none } := by
  unfold State.unfired
  unfold State.seqS
  rw [seqs_hand]
  exact seqS_modSeq_self hl _

theorem mc_unfired (s : State) (k : Nat) (e : LaunchEntry) : (s.unfired k e).mc = s.mc :=
  (quiet_mc s.mc).handRest (s := s.modSeq k fun q => { q with state := .measuring, charge := none }) e.booster .boosterSafe rfl rfl

theorem mc_uncommanded (s : State) (k : Nat) (e : LaunchEntry) : (s.uncommanded k e).mc =
    (((s.unfired k e).notice (.boosterFault k ((s.seqS k).boat.getD 0) .uncommanded)).askHold .launch).mc := by
  obtain ⟨v, w, h⟩ := launchReleased_eq
    (((s.unfired k e).notice (.boosterFault k ((s.seqS k).boat.getD 0) .uncommanded)).askHold .launch) k e
  rw [uncommanded_eq, h]

theorem seqS_uncommanded (hl : s.launchE k = some e) :
    (s.uncommanded k e).seqS k = { s.seqS k with state := .measuring, charge := none } := by
  have hn : ((s.unfired k e).notice (.boosterFault k ((s.seqS k).boat.getD 0) .uncommanded)).seqS k =
      { s.seqS k with state := .measuring, charge := none } := by
    rw [← seqS_unfired hl]
    unfold State.seqS
    rw [seqs_notice]
  have hask := seqS_askHold _ .launch k (show (((s.unfired k e).notice
    (.boosterFault k ((s.seqS k).boat.getD 0) .uncommanded)).seqS k).state ≠ .charging by rw [hn]; exact SeqState.noConfusion)
  rw [← hn, ← hask, uncommanded_eq]
  unfold State.seqS
  rw [seqs_launchReleased]

theorem sent_uncommanded {s0 : State} (hs : Steady s0 s)
    (hm : s0.mask.getLsbD (Notice.boosterFault k ((s.seqS k).boat.getD 0) .uncommanded).kind = true) (hq : (s.seqS k).state = .charging) :
    Sent s0 (.boosterFault k ((s.seqS k).boat.getD 0) .uncommanded) (s.uncommanded k e) := by
  have h := sent_calm s0 (.boosterFault k ((s.seqS k).boat.getD 0) .uncommanded)
  have h0 := steady_calm s0
  have h1 : Steady s0 (s.unfired k e) := h0.handRest _ _ rfl (h0.toModal.modSeq k _ (.inr (by rw [hq]; decide)) hs)
  exact h.toModal.launchReleased k e (h.askHold _ (sent_notice h1 hm))

theorem commanded_uncommanded {a : AuthEntry} (ha : s.authE e.booster = some a) (hk : a.kind = .booster) :
    State.Commanded s.tab e.booster a.kind.safe (s.uncommanded k e) := by
  have hsafe : ActValue.boosterSafe = a.kind.safe := by rw [hk]; rfl
  have h1 : State.Commanded s.tab e.booster a.kind.safe (s.unfired k e) := by
    unfold State.unfired
    rw [hsafe]
    exact commanded_handSafe ha rfl
  have h2 := ((halting_commanded ha).notice (.boosterFault k ((s.seqS k).boat.getD 0) .uncommanded) h1).askHold ha .launch
  obtain ⟨v, w, h⟩ := launchReleased_eq
    (((s.unfired k e).notice (.boosterFault k ((s.seqS k).boat.getD 0) .uncommanded)).askHold .launch) k e
  rw [uncommanded_eq, h]
  exact h2.congr rfl rfl

end

/-! ### Classification -/

theorem classify_weak_iff (target tolerance v : Nat) : classify target tolerance v = .weak ↔ v < target * (100 - tolerance) / 100 := by
  unfold classify
  split
  · next h => exact iff_of_true rfl h
  · next h =>
    refine iff_of_false ?_ h
    split <;> exact LaunchResult.noConfusion

theorem classify_strong_iff (target tolerance v : Nat) : classify target tolerance v = .strong ↔
    ¬ v < target * (100 - tolerance) / 100 ∧ target * (100 + tolerance) / 100 < v := by
  unfold classify
  split
  · next h => exact iff_of_false LaunchResult.noConfusion fun hc => hc.1 h
  · next h =>
    split
    · next h2 => exact iff_of_true rfl ⟨h, h2⟩
    · next h2 => exact iff_of_false LaunchResult.noConfusion fun hc => h2 hc.2

/-- Settles O41: what DONE makes of the section, and that the end of the event keeps it, a grant into an IDLE section apart. -/
theorem boosterDoneEndsFiring : Obligations.BoosterDoneEndsFiring := by
  refine ⟨fun t src num k s hk hq hh hp hb => ?_, fun t src num k e b i v s hk hl hq hb hi hh => ?_,
    fun t src num k e b i s hk hl hq hb hi hh hp => ?_, fun t src num k b s hk hq hb => ?_,
    fun target tolerance v => ⟨classify_weak_iff _ _ _, classify_strong_iff _ _ _⟩⟩
  · obtain ⟨e, hl⟩ := boosterMatch_defined hk
    obtain ⟨b, hb⟩ := Option.ne_none_iff_exists'.mp hb
    have hseq := seqS_measuring (s := s.at_ t) hl
    have hboat : (((s.at_ t).measuring k e).seqS k).boat = some b := by rw [hseq]; exact hb
    refine completes_command rfl _ (takeDone_firing (s := s.at_ t) hk hl hq) ?_
    rw [measure_waits (by rw [hseq]; exact hh) (by rw [hboat, pathOf_measuring]; exact hp b hb)]
    exact (quiet_working SeqState.noConfusion SeqState.noConfusion).eventEnd (fun _ h => h) (fun h => h) hseq
  · have hseq := seqS_measuring (s := s.at_ t) hl
    obtain ⟨hmc, hnow, hqueue, -⟩ := measuring_leaves (s.at_ t) k e
    have hboat : (((s.at_ t).measuring k e).seqS k).boat = some b := by rw [hseq]; exact hb
    have hband : (((s.at_ t).measuring k e).seqS k).band = some i := by rw [hseq]; exact hi
    have hmeas : (((s.at_ t).measuring k e).seqS k).state = .measuring := by rw [hseq]
    have hn := speedNotice_eq (e := e) (v := v) hboat hband
    have htarget : ((s.at_ t).measuring k e).bandTarget k i = s.bandTarget k i := bandTarget_measuring k i
    have hlast := launchSpeed_event (e := e) (v := v) (launchE_range hl) hmeas (s.at_ t)
    refine completes_command rfl _ ((takeDone_firing (s := s.at_ t) hk hl hq).trans (measure_held (by rw [hseq]; exact hh)))
      ⟨noticed_of_sent fun hm => ?_, fun hc => ?_, fun hc => ?_, fun hc => ?_⟩
    · rw [← htarget, ← hn] at hm ⊢
      exact (sent_calm s _).toMild.event (sent_launchSpeed hmeas (steady_measuring (steady_at s t)) hm)
    · refine holdTaken_classified hmc ((mc_event _ _).trans ?_) (by rw [hband]; exact htarget.symm ▸ hc)
      exact cooldownStart_leaves.1
    · rw [hlast.1 hc, hnow]
      exact ⟨rfl, rfl, rfl⟩
    · have h := hlast.2 hc
      unfold State.mode at h
      rw [hmc, hqueue] at h
      exact h
  · have hseq := seqS_measuring (s := s.at_ t) hl
    obtain ⟨hmc, hnow, hqueue, -⟩ := measuring_leaves (s.at_ t) k e
    have hboat : (((s.at_ t).measuring k e).seqS k).boat = some b := by rw [hseq]; exact hb
    have hband : (((s.at_ t).measuring k e).seqS k).band = some i := by rw [hseq]; exact hi
    have hmeas : (((s.at_ t).measuring k e).seqS k).state = .measuring := by rw [hseq]
    have htarget : ((s.at_ t).measuring k e).bandTarget k i = s.bandTarget k i := bandTarget_measuring k i
    have hlast := launchNone_event (s := (s.at_ t).measuring k e) (e := e) (launchE_range hl) (s.at_ t)
    refine completes_command rfl _ ((takeDone_firing (s := s.at_ t) hk hl hq).trans
      (measure_arrived (by rw [hseq]; exact hh) (by rw [hboat, pathOf_measuring]; exact hp)))
      ⟨noticed_of_sent fun hm => ?_, fun hc => ?_, fun hc => ?_⟩
    · rw [← htarget, ← arrivedNotice_eq hboat hband] at hm ⊢
      exact (sent_calm s _).toMild.event (sent_launchNone hmeas (steady_measuring (steady_at s t)) hm)
    · rw [hlast.1 hc, hnow]
      exact ⟨rfl, rfl⟩
    · have h := hlast.2 hc
      unfold State.mode at h
      rw [hmc, hqueue] at h
      exact h
  · obtain ⟨e, hl⟩ := boosterMatch_defined hk
    have hseq := seqS_uncommanded (s := s.at_ t) hl
    have hboat : (s.at_ t).seqS k = s.seqS k := rfl
    have hmc := mc_uncommanded (s.at_ t) k e
    refine completes_command rfl _ (takeDone_charging (s := s.at_ t) hk hl hq) ⟨?_, ?_, noticed_of_sent fun hm => ?_, fun e' a he ha hkind => ?_⟩
    · have h := (quiet_working SeqState.noConfusion SeqState.noConfusion).eventEnd (fun _ h => h) (fun h => h)
        (f := fun _ => (s.at_ t).uncommanded k e) (s := s.at_ t) hseq
      rw [h]
    · refine holdTaken_of_askHold ?_ ((mc_event _ _).trans hmc)
      exact (notice_mc _ _).trans (mc_unfired _ _ _)
    · have h := sent_uncommanded (s := s.at_ t) (k := k) (e := e) (steady_at s t)
      rw [hboat, hb] at h
      exact (sent_calm s _).toMild.event (h hm hq)
    · cases hl.symm.trans he
      have hrun : ((s.at_ t).uncommanded k e).mode ≠ .run := by
        unfold State.mode
        rw [hmc]
        exact mode_askHold_ne_run _ _
      have h := State.Commanded.event (T := s.tab) (a := e.booster) (x := a) ha (f := fun _ => (s.at_ t).uncommanded k e) (s := s.at_ t)
        (commanded_uncommanded (s := s.at_ t) ha hkind) hrun (by rw [hkind]; decide) (by rw [hkind]; decide)
      rw [hkind] at h
      exact h.2

end Sys2Proof.Machine
end

section
/-! A trap's speed: its limit, the boat that it is recorded for, and the launch that it ends (R89, R99, R100): settles O32. -/

namespace Sys2Proof.Machine

/-! ### What a TRAP record's request for HOLD and its launches keep -/

/-- The property is kept by quiet updates, by requests for HOLD, and by whatever the sequencers become. -/
structure Launching (P : State → Prop) : Prop extends Quiet P where
  startPulse : ∀ {s} u, P s → P (s.startPulse u)
  askHold : ∀ {s} b, P s → P (s.askHold b)
  anySeq : ∀ {s} k q, P s → P (s.putSeq k q)

namespace Launching

variable {P : State → Prop} (h : Launching P) {s : State}
include h

theorem pulse (g : Gen) (hs : P s) : P (s.pulse g) := h.toQuiet.pulse h.startPulse g hs

theorem limitCheck (who : Option Nat) (i : Nat) (e : TrapEntry) (v : Nat) (hs : P s) : P (s.limitCheck who i e v) := by
  unfold State.limitCheck
  split
  · exact hs
  · split
    · exact h.askHold _ (h.notice _ hs)
    · exact hs

theorem cooldownStart (k : Nat) (e : LaunchEntry) (hs : P s) : P (s.cooldownStart k e) := by
  unfold State.cooldownStart
  dsimp only
  split
  · exact h.scanWanted (h.anySeq _ _ (h.anySeq _ _ hs))
  · exact h.anySeq _ _ hs

theorem takeSpeed (k v : Nat) (hs : P s) : P (s.takeSpeed k v) := by
  unfold State.takeSpeed
  split
  · exact hs
  · split
    · exact h.anySeq _ _ hs
    · rw [launchSpeed_eq]
      refine h.cooldownStart _ _ ?_
      unfold State.classified
      split
      · exact h.askHold _ (h.notice _ hs)
      · exact h.notice _ hs
    · exact hs
    · exact hs
    · exact hs

theorem toLaunches (i v : Nat) (hs : P s) : P (s.toLaunches i v) := by
  unfold State.toLaunches
  refine foldl_keeps (P := P) (fun t k ht => ?_) _ hs
  split
  · exact h.takeSpeed k v ht
  · exact ht

end Launching

theorem quiet_of_mc {R : ModeCtl → Prop} : Quiet fun s => R s.mc := by
  have same : ∀ {s t : State}, R s.mc → t.mc = s.mc → R t.mc := fun hs h => by rw [h]; exact hs
  exact {
    startUp := fun hs => hs
    placeHeld := fun {s} hs => same hs (placeHeld_mc s)
    buildNotice := fun {s} hs => same hs (buildNotice_mc s)
    startDn := fun hs => hs
    placeLimit := fun _ _ _ hs => hs
    placeCommands := fun _ _ hs => hs
    queueNotice := fun _ _ hs => hs
    dropNotice := fun hs => hs
    handRaw := fun {s} a v _ hs => same hs (handRaw_mc s a v)
    handAny := fun {s} a v _ hs => same hs (handRaw_mc s a v)
    modEv := fun _ hs => hs
    putZs := fun _ _ _ hs => hs
    putBerth := fun _ _ _ hs => hs
    putNode := fun _ _ _ hs => hs
    modBoat := fun _ _ _ hs => same hs (modBoat_mc _ _ _)
    putRel := fun _ _ hs => same hs (putRel_mc _ _ _)
    filterQueue := fun _ hs => hs
    putSeq := fun _ _ _ _ hs => hs }

/-- A request for HOLD never brings RUN (R139). -/
theorem launching_notRun : Launching fun s => s.mode ≠ .run where
  toQuiet := quiet_of_mc (R := fun m => m.mode ≠ .run)
  startPulse _ hs := hs
  askHold _ _ := mode_askHold_ne_run _ _
  anySeq _ _ hs := hs

/-- A request for HOLD that has been taken is not lifted by another (R139). -/
theorem holdTaken_askHold {s u : State} (h : s.holdTaken u) (b : Block) : s.holdTaken (u.askHold b) := by
  unfold State.holdTaken State.mode at *
  rw [mc_askHold]
  unfold State.mode
  cases hm : s.mc.mode <;> simp [hm] at h ⊢ <;> simp [h]

theorem launching_holdTaken (s : State) : Launching s.holdTaken where
  toQuiet := quiet_of_mc (R := fun m => s.holdTaken { s with mc := m })
  startPulse _ hs := hs
  askHold b hs := holdTaken_askHold hs b
  anySeq _ _ hs := hs

/-- Where mode control's record does not count, nor what the sequencers are. -/
theorem Quiet.toLaunching {P : State → Prop} (h : Quiet P) (hm : ∀ {s} f, P s → P (s.modMc f)) (hp : ∀ {s} u, P s → P (s.startPulse u))
    (hq : ∀ {s} k q, P s → P (s.putSeq k q)) : Launching P where
  toQuiet := h
  startPulse := hp
  askHold b hs := h.askHold hm hp b hs
  anySeq := hq

theorem launching_queue_nil : Launching fun s => s.queue = [] :=
  quiet_queue_nil.toLaunching (fun _ h => h) (fun _ h => h) fun _ _ h => h

theorem launching_now (v : Nat) : Launching fun s => s.now = v :=
  (quiet_now v).toLaunching (fun _ h => h) (fun _ h => h) fun _ _ h => h

theorem launching_tab (v : Tables) : Launching fun s => s.tab = v :=
  Quiet.toLaunching {
    toStill := still_tab v
    handAny := fun a w _ hs => (handRaw_tab _ a w).trans hs
    putSeq := fun _ _ _ _ hs => hs } (fun _ h => h) (fun _ h => h) fun _ _ h => h

/-- A property of the boats that soft changes of their records keep. -/
theorem launching_of_boats {P : State → Prop} (same : ∀ {s t : State}, P s → t.boats = s.boats → P t)
    (hS : ∀ {s : State} c f, (∀ x : Boat, x.Soft (f x)) → P s → P (s.modBoat c f)) : Launching P :=
  (quiet_of_boats same hS).toLaunching (fun _ h => same h rfl) (fun _ h => same h rfl) fun _ _ h => same h rfl

/-- A boat stays in the register with its last speed: an abort changes state and path (R33, R87). -/
theorem launching_lastSpeed (b : Nat) (W : Option (Nat × Nat) → Prop) :
    Launching fun s => ∃ y, s.boatR b = some y ∧ W y.lastSpeed := by
  refine launching_of_boats (fun hs h => by rw [boatR_of_boats h]; exact hs) fun {s} c f hf hs => ?_
  obtain ⟨y, hy, hl⟩ := hs
  have hsoft : (f y).lastSpeed = y.lastSpeed := by
    have h : { f y with state := y.state, path := y.path } = y := hf y
    calc (f y).lastSpeed = ({ f y with state := y.state, path := y.path } : Boat).lastSpeed := rfl
      _ = y.lastSpeed := by rw [h]
  rw [boatR_modBoat]
  split
  · next hc => exact ⟨f y, by rw [← hc, hy]; rfl, hsoft.symm ▸ hl⟩
  · exact ⟨y, hy, hl⟩

/-! ### The report's boat, and the launches that take its speed -/

section
variable {s : State}

/-- The state of a matched report before its speed is handed on: the pulse and the speed limit (R99, R100). -/
def State.limited (s : State) (i : Nat) (e : TrapEntry) (v : Nat) : State := (s.pulse (.trapDone i)).limitCheck (s.trapBoat e.zone) i e v

theorem takeTrap_matched {src pair interval n i : Nat} {e : TrapEntry} (hp : pair ≤ 1) (hn : s.nodeOfAddress src = some n)
    (ht : s.trapOf n pair = some (i, e)) (h0 : 0 < interval) : s.takeTrap src pair interval =
      (s.limited i e (speedOf e.spacing interval)).handSpeed (s.trapBoat e.zone) i e (speedOf e.spacing interval) := by
  unfold State.takeTrap
  rw [if_neg (Nat.not_lt.mpr hp), hn, Option.bind_some, ht]
  exact if_neg (Nat.pos_iff_ne_zero.mp h0)

theorem Launching.limited {P : State → Prop} (h : Launching P) (i : Nat) (e : TrapEntry) (v : Nat) (hs : P s) : P (s.limited i e v) :=
  h.limitCheck _ i e v (h.pulse _ hs)

/-- A sequencer that is not CHARGING gives nothing to the pulse and the request for HOLD (R94, R143). -/
theorem seqS_limited {k : Nat} (hk : (s.seqS k).state ≠ .charging) (i : Nat) (e : TrapEntry) (v : Nat) :
    (s.limited i e v).seqS k = s.seqS k := by
  have h1 := seqS_pulse s (.trapDone i) k hk
  unfold State.limited State.limitCheck
  split
  · exact h1
  · split
    · have h2 : ∀ n, ((s.pulse (.trapDone i)).notice n).seqS k = s.seqS k := fun n => by rw [← h1]; unfold State.seqS; rw [seqs_notice]
      rw [seqS_askHold _ _ _ (by rw [h2]; exact hk), h2]
    · exact h1

theorem recordSpeed_leaves (w : Option Nat) (v i : Nat) : (s.recordSpeed w v i).seqs = s.seqs ∧ (s.recordSpeed w v i).mc = s.mc ∧
    (s.recordSpeed w v i).now = s.now ∧ (s.recordSpeed w v i).queue = s.queue ∧ (s.recordSpeed w v i).tab = s.tab := by
  unfold State.recordSpeed
  split
  · exact ⟨rfl, rfl, rfl, rfl, rfl⟩
  · simp

theorem boatR_recordSpeed {b : Nat} {x : Boat} (hx : s.boatR b = some x) (v i : Nat) :
    (s.recordSpeed (some b) v i).boatR b = some { x with lastSpeed := some (v, i) } := by
  show (s.modBoat b fun x => { x with lastSpeed := some (v, i) }).boatR b = _
  rw [boatR_modBoat, if_pos rfl, hx]
  rfl

theorem handSpeed_unbraked {e : TrapEntry} (he : s.brakeOf e = none) (w : Option Nat) (i v : Nat) :
    s.handSpeed w i e v = if e.use = .launch then (s.recordSpeed w v i).toLaunches i v else s.recordSpeed w v i := by
  unfold State.handSpeed
  rw [he]

theorem brakeOf_of_tab {u : State} (h : u.tab = s.tab) (e : TrapEntry) : u.brakeOf e = s.brakeOf e := by
  unfold State.brakeOf State.runE
  rw [h]

theorem brakeOf_other {e : TrapEntry} (he : e.use ≠ .brake) : s.brakeOf e = none := by
  unfold State.brakeOf
  split
  · contradiction
  · rfl

/-- Another section's sequencer takes no part in a launch's end. -/
theorem seqS_takeSpeed_other {j k : Nat} (hjk : j ≠ k) (hk : (s.seqS k).state ≠ .charging) (v : Nat) :
    (s.takeSpeed j v).seqS k = s.seqS k := by
  have hput : ∀ {t : State} {q : Seq}, (t.putSeq j q).seqS k = t.seqS k := fun {t} {q} => by
    rw [seqS_putSeq, if_neg fun h => hjk h.1.symm]
  unfold State.takeSpeed
  split
  · rfl
  · split
    · exact hput
    · rw [launchSpeed_eq]
      have hcool : ∀ {t : State} {e : LaunchEntry}, (t.cooldownStart j e).seqS k = t.seqS k := fun {t} {e} => by
        unfold State.cooldownStart
        dsimp only
        split
        · exact hput.trans hput
        · exact hput
      have hn : ∀ n, (s.notice n).seqS k = s.seqS k := fun n => by unfold State.seqS; rw [seqs_notice]
      rw [hcool]
      unfold State.classified
      split
      · rw [seqS_askHold _ _ _ (by rw [hn]; exact hk), hn]
      · exact hn _
    · rfl
    · rfl
    · rfl

end

/-- One section takes the speed of its launch trap (R100). -/
def State.toLaunch (s : State) (k i v : Nat) : State := if (s.launchE k).any fun e => e.trap == i then s.takeSpeed k v else s

theorem toLaunches_eq (s : State) (i v : Nat) : s.toLaunches i v = (s.toLaunch 0 i v).toLaunch 1 i v := rfl

theorem Launching.toLaunch {P : State → Prop} (h : Launching P) {s : State} (k i v : Nat) (hs : P s) : P (s.toLaunch k i v) := by
  unfold State.toLaunch
  split
  · exact h.takeSpeed k v hs
  · exact hs

theorem Modal.toLaunch {P : State → Prop} (h : Modal P) {s : State} (k i v : Nat) (hs : P s) : P (s.toLaunch k i v) := by
  unfold State.toLaunch
  split
  · exact h.takeSpeed k v hs
  · exact hs

theorem seqS_toLaunch_other {s : State} {j k : Nat} (hjk : j ≠ k) (hk : (s.seqS k).state ≠ .charging) (i v : Nat) :
    (s.toLaunch j i v).seqS k = s.seqS k := by
  unfold State.toLaunch
  split
  · exact seqS_takeSpeed_other hjk hk v
  · rfl

theorem launchE_of_tab {s u : State} (h : u.tab = s.tab) (k : Nat) : u.launchE k = s.launchE k := by
  unfold State.launchE
  rw [h]

section
variable {s : State} {k i : Nat} {l : LaunchEntry} (hl : s.launchE k = some l) (ht : l.trap = i)
include hl

include ht in
theorem toLaunch_self (v : Nat) : s.toLaunch k i v = s.takeSpeed k v := by
  unfold State.toLaunch
  rw [hl, if_pos (by simp [ht])]

include ht in
/-- The section takes the speed before or after the other one (R100). -/
theorem toLaunches_order (v : Nat) : ∃ j, j ≠ k ∧
    (s.toLaunches i v = (s.takeSpeed k v).toLaunch j i v ∨ s.toLaunches i v = (s.toLaunch j i v).takeSpeed k v) := by
  have hk := launchE_range hl
  have htab : (s.toLaunch 0 i v).tab = s.tab := (launching_tab s.tab).toLaunch 0 i v rfl
  rw [toLaunches_eq]
  interval_cases k
  · exact ⟨1, by decide, .inl (by rw [toLaunch_self hl ht])⟩
  · exact ⟨0, by decide, .inr (toLaunch_self ((launchE_of_tab htab 1).trans hl) ht v)⟩

theorem takeSpeed_firing (hq : (s.seqS k).state = .firing) (v : Nat) : s.takeSpeed k v = s.modSeq k fun q => { q with held := some v } := by
  unfold State.takeSpeed
  rw [hl]
  dsimp only
  rw [hq]

theorem takeSpeed_measuring (hq : (s.seqS k).state = .measuring) (v : Nat) : s.takeSpeed k v = s.launchSpeed k l v := by
  unfold State.takeSpeed
  rw [hl]
  dsimp only
  rw [hq]

theorem seqS_takeSpeed_measuring (hq : (s.seqS k).state = .measuring) (v : Nat) : (s.takeSpeed k v).seqS k =
    if l.cooldown = 0 then .idle else { s.seqS k with state := .cooldown, held := none, cooldown := some s.now } := by
  rw [takeSpeed_measuring hl hq, launchSpeed_eq, seqS_cooldownStart (launchE_range hl), seqS_classified hq, now_classified]

include ht in
theorem seqS_toLaunches_firing (hq : (s.seqS k).state = .firing) (v : Nat) :
    (s.toLaunches i v).seqS k = { s.seqS k with held := some v } := by
  have hne : (s.seqS k).state ≠ .charging := by rw [hq]; decide
  obtain ⟨j, hjk, h | h⟩ := toLaunches_order hl ht v
  · have hself : (s.takeSpeed k v).seqS k = { s.seqS k with held := some v } := by
      rw [takeSpeed_firing hl hq]
      exact seqS_modSeq_self hl _
    rw [h, seqS_toLaunch_other hjk (by rw [hself]; exact hne), hself]
  · have hother := seqS_toLaunch_other hjk hne i v
    have hl' := (launchE_of_tab ((launching_tab s.tab).toLaunch j i v rfl) k).trans hl
    rw [h, takeSpeed_firing hl' (by rw [hother]; exact hq), seqS_modSeq_self hl', hother]

include ht in
theorem seqS_toLaunches_measuring (hq : (s.seqS k).state = .measuring) (v : Nat) : (s.toLaunches i v).seqS k =
    if l.cooldown = 0 then .idle else { s.seqS k with state := .cooldown, held := none, cooldown := some s.now } := by
  have hne : (s.seqS k).state ≠ .charging := by rw [hq]; decide
  obtain ⟨j, hjk, h | h⟩ := toLaunches_order hl ht v
  · have hself := seqS_takeSpeed_measuring hl hq v
    rw [h, seqS_toLaunch_other hjk (by rw [hself]; split <;> exact SeqState.noConfusion), hself]
  · have hother := seqS_toLaunch_other hjk hne i v
    have hl' := (launchE_of_tab ((launching_tab s.tab).toLaunch j i v rfl) k).trans hl
    rw [h, seqS_takeSpeed_measuring hl' (by rw [hother]; exact hq), hother, (launching_now s.now).toLaunch j i v rfl]

include ht in
theorem sent_toLaunches {s0 : State} {b m : Nat} (hq : (s.seqS k).state = .measuring) (hb : (s.seqS k).boat = some b)
    (hm : (s.seqS k).band = some m) (hs : Steady s0 s) (v : Nat)
    (hmask : s0.mask.getLsbD (Notice.launchResult k b m (s.bandTarget k m) (some v) (classify (s.bandTarget k m) l.tolerance v)).kind = true) :
    Sent s0 (.launchResult k b m (s.bandTarget k m) (some v) (classify (s.bandTarget k m) l.tolerance v)) (s.toLaunches i v) := by
  have hne : (s.seqS k).state ≠ .charging := by rw [hq]; decide
  have hcalm := (sent_calm s0 (.launchResult k b m (s.bandTarget k m) (some v) (classify (s.bandTarget k m) l.tolerance v))).toModal
  obtain ⟨j, hjk, h | h⟩ := toLaunches_order hl ht v
  · rw [h]
    refine hcalm.toLaunch j i v ?_
    rw [takeSpeed_measuring hl hq, ← speedNotice_eq hb hm] at *
    exact sent_launchSpeed hq hs hmask
  · have hother := seqS_toLaunch_other hjk hne i v
    have htab : (s.toLaunch j i v).tab = s.tab := (launching_tab s.tab).toLaunch j i v rfl
    have hl' := (launchE_of_tab htab k).trans hl
    have htarget : (s.toLaunch j i v).bandTarget k m = s.bandTarget k m := by
      unfold State.bandTarget State.band State.bandE
      rw [htab]
    have hq' : ((s.toLaunch j i v).seqS k).state = .measuring := by rw [hother]; exact hq
    rw [h, takeSpeed_measuring hl' hq']
    rw [← htarget, ← speedNotice_eq (by rw [hother]; exact hb) (by rw [hother]; exact hm)] at hmask ⊢
    exact sent_launchSpeed hq' ((steady_calm s0).toModal.toLaunch j i v hs) hmask

end

/-! ### Requests for HOLD through a report that is handed on -/

theorem holdTaken_ofMc {s u v : State} (h : s.holdTaken u) (hv : v.mc = u.mc) : s.holdTaken v := by
  unfold State.holdTaken State.mode at *
  rw [hv]
  exact h

theorem mc_setRun (s : State) (r : Nat) (e : RunEntry) (b k : Nat) : (s.setRun r e b k).mc = s.mc := mc_of_view (holdView_setRun s r e b k)

/-- Nothing that a report brings lifts a request for HOLD (R107, R110). -/
theorem holdTaken_handSpeed {s t : State} (h : s.holdTaken t) (w : Option Nat) (i : Nat) (e : TrapEntry) (v : Nat) :
    s.holdTaken (t.handSpeed w i e v) := by
  have hrec : s.holdTaken (t.recordSpeed w v i) := holdTaken_ofMc h (recordSpeed_leaves w v i).2.1
  unfold State.handSpeed
  split
  · unfold State.brakeReport
    split
    · refine holdTaken_askHold (holdTaken_ofMc h ?_) _
      rw [notice_mc, mc_of_view (holdView_raiseFault _ _ _)]
    · dsimp only
      split
      · exact hrec
      · have hsel : ∀ {u : State} {c d : Bool} {n m p : Notice} {r : Nat} {q : RunEntry} {b k : Nat} {g : Gen}, s.holdTaken u →
            s.holdTaken (((((u.noticeIf c n).noticeIf d m).setRun r q b k).notice p).pulse g) := fun hu =>
          holdTaken_ofMc hu (by rw [mc_pulse, notice_mc, mc_setRun, noticeIf_mc, noticeIf_mc])
        unfold State.select State.holdIf
        dsimp only
        split
        · exact holdTaken_askHold (hsel hrec) _
        · exact hsel hrec
  · dsimp only
    split
    · exact (launching_holdTaken s).toLaunches i v hrec
    · exact hrec

/-! ### A report with a speed -/

section
variable {s : State} {i v : Nat} {e : TrapEntry} {w : Option Nat}

/-- What a launch trap's speed is handed on from (R100). -/
def State.reported (s : State) (i : Nat) (e : TrapEntry) (v : Nat) : State := (s.limited i e v).recordSpeed (s.trapBoat e.zone) v i

theorem handSpeed_launch (he : e.use = .launch) :
    (s.limited i e v).handSpeed (s.trapBoat e.zone) i e v = (s.reported i e v).toLaunches i v := by
  rw [handSpeed_unbraked (brakeOf_other (by rw [he]; decide)), if_pos he]
  rfl

theorem seqS_reported {k : Nat} (hk : (s.seqS k).state ≠ .charging) : (s.reported i e v).seqS k = s.seqS k := by
  obtain ⟨hseqs, -⟩ := recordSpeed_leaves (s := s.limited i e v) (s.trapBoat e.zone) v i
  rw [← seqS_limited hk i e v]
  unfold State.reported State.seqS
  rw [hseqs]

theorem tab_reported : (s.reported i e v).tab = s.tab := by
  obtain ⟨-, -, -, -, htab⟩ := recordSpeed_leaves (s := s.limited i e v) (s.trapBoat e.zone) v i
  exact htab.trans ((launching_tab s.tab).limited i e v rfl)

theorem now_reported : (s.reported i e v).now = s.now := by
  obtain ⟨-, -, hnow, -⟩ := recordSpeed_leaves (s := s.limited i e v) (s.trapBoat e.zone) v i
  exact hnow.trans ((launching_now s.now).limited i e v rfl)

theorem mode_reported_toLaunches (h : ((s.reported i e v).toLaunches i v).mode = .run) : s.mode = .run := by
  by_contra hm
  obtain ⟨-, hmc, -⟩ := recordSpeed_leaves (s := s.limited i e v) (s.trapBoat e.zone) v i
  have h1 : (s.reported i e v).mode ≠ .run := by
    unfold State.reported State.mode
    rw [hmc]
    exact launching_notRun.limited i e v hm
  exact launching_notRun.toLaunches i v h1 h

theorem queue_reported_toLaunches (h : s.queue = []) : ((s.reported i e v).toLaunches i v).queue = [] := by
  obtain ⟨-, -, -, hqueue, -⟩ := recordSpeed_leaves (s := s.limited i e v) (s.trapBoat e.zone) v i
  exact launching_queue_nil.toLaunches i v (hqueue.trans (launching_queue_nil.limited i e v h))

theorem steady_reported {s0 : State} (h : Steady s0 s) : Steady s0 (s.reported i e v) := by
  have hm := (steady_calm s0).toModal
  exact hm.recordSpeed _ v i (hm.limitCheck _ i e v (hm.pulse _ h))

/-- The report's boat has the speed at the end of the event (R100). -/
theorem lastSpeed_event {b : Nat} {x : Boat} (he : s.brakeOf e = none) (hw : s.trapBoat e.zone = some b) (hx : s.boatR b = some x) (s0 : State) :
    ∃ y, (State.event (fun _ => (s.limited i e v).handSpeed (s.trapBoat e.zone) i e v) s0).boatR b = some y ∧ y.lastSpeed = some (v, i) := by
  have hkeep := launching_lastSpeed b fun l => l = some (v, i)
  obtain ⟨y, hy, -⟩ := (launching_lastSpeed b fun _ => True).limited i e v (s := s) ⟨x, hx, trivial⟩
  have hrec : ∃ y, ((s.limited i e v).recordSpeed (s.trapBoat e.zone) v i).boatR b = some y ∧ y.lastSpeed = some (v, i) := by
    rw [hw, boatR_recordSpeed hy]
    exact ⟨_, rfl, rfl⟩
  refine hkeep.eventEnd hkeep.startPulse (fun h => h) ?_
  rw [handSpeed_unbraked (brakeOf_of_tab ((launching_tab s.tab).limited i e v rfl) e ▸ he)]
  split
  · exact hkeep.toLaunches i v hrec
  · exact hrec

theorem trapBoat_occupant {z b : Nat} (h : s.occupant z = some b) : s.trapBoat z = some b := by
  unfold State.trapBoat
  rw [h]

theorem trapBoat_reserved {z : Nat} (h : s.occupant z = none) : s.trapBoat z = (s.zst z).reserved := by
  unfold State.trapBoat
  rw [h]

/-- A speed over the limit is reported and asks for HOLD (R99). -/
theorem limited_over {z : ZoneEntry} {limit : Nat} (hz : s.zoneE e.zone = some z) (hl : z.speedLimit = some limit) (hv : limit < v) :
    s.limited i e v = ((s.pulse (.trapDone i)).notice (.overspeedLimit i e.zone (s.trapBoat e.zone) v limit)).askHold .trap := by
  have htab : (s.pulse (.trapDone i)).tab = s.tab := (launching_tab s.tab).pulse _ rfl
  have hz' : (s.pulse (.trapDone i)).zoneE e.zone = some z := by unfold State.zoneE at *; rw [htab]; exact hz
  unfold State.limited State.limitCheck
  rw [hz', Option.bind_some, hl]
  exact if_pos hv

theorem limited_within (h : ∀ z limit, s.zoneE e.zone = some z → z.speedLimit = some limit → v ≤ limit) :
    s.limited i e v = s.pulse (.trapDone i) := by
  have htab : (s.pulse (.trapDone i)).tab = s.tab := (launching_tab s.tab).pulse _ rfl
  unfold State.limited State.limitCheck
  split
  · rfl
  · next limit hb =>
    obtain ⟨z, hz, hl⟩ := Option.bind_eq_some_iff.mp hb
    refine if_neg (Nat.not_lt.mpr (h z limit ?_ hl))
    unfold State.zoneE at *
    rwa [htab] at hz

/-- A CHECK trap's report within the limit leaves mode control alone (R100). -/
theorem mc_handSpeed_check (he : e.use = .check) (h : ∀ z limit, s.zoneE e.zone = some z → z.speedLimit = some limit → v ≤ limit) :
    ((s.limited i e v).handSpeed w i e v).mc = s.mc := by
  obtain ⟨-, hmc, -⟩ := recordSpeed_leaves (s := s.limited i e v) w v i
  rw [handSpeed_unbraked (brakeOf_other (by rw [he]; decide)), if_neg (by rw [he]; decide), hmc, limited_within h, mc_pulse]

theorem holdTaken_over {s0 : State} {z : ZoneEntry} {limit : Nat} (h0 : s.mc = s0.mc) (hz : s.zoneE e.zone = some z)
    (hl : z.speedLimit = some limit) (hv : limit < v) : s0.holdTaken ((s.limited i e v).handSpeed w i e v) := by
  refine holdTaken_handSpeed ?_ w i e v
  rw [limited_over hz hl hv]
  refine holdTaken_of_askHold ?_ rfl
  rw [notice_mc, mc_pulse]
  exact h0

theorem sent_over {s0 : State} {z : ZoneEntry} {limit : Nat} (h0 : Steady s0 s) (hz : s.zoneE e.zone = some z)
    (hl : z.speedLimit = some limit) (hv : limit < v)
    (hm : s0.mask.getLsbD (Notice.overspeedLimit i e.zone (s.trapBoat e.zone) v limit).kind = true) :
    Sent s0 (.overspeedLimit i e.zone (s.trapBoat e.zone) v limit) ((s.limited i e v).handSpeed w i e v) := by
  have hsent := sent_calm s0 (.overspeedLimit i e.zone (s.trapBoat e.zone) v limit)
  refine hsent.toModal.handSpeed _ i e v ?_
  rw [limited_over hz hl hv]
  exact hsent.askHold _ (sent_notice ((steady_calm s0).toModal.pulse _ h0) hm)

/-- A launch in FIRING holds the speed to the end of the event (R89). -/
theorem firing_event {k : Nat} {l : LaunchEntry} (hl : s.launchE k = some l) (hi : l.trap = i) (hq : (s.seqS k).state = .firing) (s0 : State) :
    (State.event (fun _ => (s.reported i e v).toLaunches i v) s0).seqS k = { s.seqS k with held := some v } := by
  have hrep : (s.reported i e v).seqS k = s.seqS k := seqS_reported (by rw [hq]; decide)
  have hl' := (launchE_of_tab (tab_reported (i := i) (e := e) (v := v)) k).trans hl
  have h := seqS_toLaunches_firing hl' hi (by rw [hrep]; exact hq) v
  rw [hrep] at h
  exact (quiet_working (by rw [hq]; decide) (by rw [hq]; decide)).eventEnd (fun _ h => h) (fun h => h) h

/-- A launch in MEASURING ends with the speed (R89, R91). -/
theorem measuring_event {k : Nat} {l : LaunchEntry} (hl : s.launchE k = some l) (hi : l.trap = i) (hq : (s.seqS k).state = .measuring)
    (s0 : State) : (l.cooldown ≠ 0 → (State.event (fun _ => (s.reported i e v).toLaunches i v) s0).seqS k =
        { s.seqS k with state := .cooldown, held := none, cooldown := some s.now }) ∧
      (l.cooldown = 0 → (State.event (fun _ => (s.reported i e v).toLaunches i v) s0).seqS k = .idle ∨
        (s.mode = .run ∧ s.queue ≠ [] ∧ ((State.event (fun _ => (s.reported i e v).toLaunches i v) s0).seqS k).state = .charging)) := by
  have hrep : (s.reported i e v).seqS k = s.seqS k := seqS_reported (by rw [hq]; decide)
  have hl' := (launchE_of_tab (tab_reported (i := i) (e := e) (v := v)) k).trans hl
  have h := seqS_toLaunches_measuring hl' hi (by rw [hrep]; exact hq) v
  rw [hrep, now_reported] at h
  refine ⟨fun hc => ?_, fun hc => ?_⟩
  · rw [if_neg hc] at h
    exact (quiet_working SeqState.noConfusion SeqState.noConfusion).eventEnd (fun _ h => h) (fun h => h) h
  · rw [if_pos hc] at h
    exact (seqS_event_idle (f := fun _ => (s.reported i e v).toLaunches i v) (s := s0) h).imp id fun ⟨hm, hn, hch⟩ =>
      ⟨mode_reported_toLaunches hm, fun he => hn (queue_reported_toLaunches he), hch⟩

theorem sent_reported {s0 : State} {k b m : Nat} {l : LaunchEntry} (hl : s.launchE k = some l) (hi : l.trap = i)
    (hq : (s.seqS k).state = .measuring) (hb : (s.seqS k).boat = some b) (hm : (s.seqS k).band = some m) (hs : Steady s0 s)
    (hmask : s0.mask.getLsbD (Notice.launchResult k b m (s.bandTarget k m) (some v) (classify (s.bandTarget k m) l.tolerance v)).kind = true) :
    Sent s0 (.launchResult k b m (s.bandTarget k m) (some v) (classify (s.bandTarget k m) l.tolerance v))
      ((s.reported i e v).toLaunches i v) := by
  have hrep : (s.reported i e v).seqS k = s.seqS k := seqS_reported (by rw [hq]; decide)
  have htab := tab_reported (s := s) (i := i) (e := e) (v := v)
  have htarget : (s.reported i e v).bandTarget k m = s.bandTarget k m := by
    unfold State.bandTarget State.band State.bandE
    rw [htab]
  rw [← htarget] at hmask ⊢
  exact sent_toLaunches ((launchE_of_tab htab k).trans hl) hi (by rw [hrep]; exact hq) (by rw [hrep]; exact hb) (by rw [hrep]; exact hm)
    (steady_reported hs) v hmask

end

/-- Settles O32: the limit and the record of the speed, and the launches that take it, to the end of the event. -/
theorem trapSpeedIsHandedOn : Obligations.TrapSpeedIsHandedOn := by
  intro t src pair interval n i e s hp hn ht h0
  refine completes_command rfl _ (takeTrap_matched (s := s.at_ t) hp hn ht h0) ?_
  generalize speedOf e.spacing interval = v
  refine ⟨fun b x hr ho hx => ?_, fun b x hr ho hb hx => ?_, fun z limit hz hl hv => ⟨?_, noticed_of_sent fun hm => ?_⟩,
    fun hlim huse => ?_, fun k l huse hl hi hq => ?_, fun k l b j huse hl hi hq hb hj => ⟨noticed_of_sent fun hm => ?_, ?_⟩⟩
  · exact lastSpeed_event (s := s.at_ t) hr (trapBoat_occupant ho) hx _
  · exact lastSpeed_event (s := s.at_ t) hr ((trapBoat_reserved ho).trans hb) hx _
  · exact holdTaken_ofMc (holdTaken_over (s := s.at_ t) rfl hz hl hv) (mc_event _ _)
  · exact (sent_calm s _).toMild.event (sent_over (s := s.at_ t) (steady_at s t) hz hl hv hm)
  · rw [mc_event]
    exact mc_handSpeed_check (s := s.at_ t) huse hlim
  · rw [handSpeed_launch huse, firing_event (s := s.at_ t) hl hi hq]
    exact ⟨hq, rfl⟩
  · rw [handSpeed_launch huse]
    exact (sent_calm s _).toMild.event (sent_reported (s := s.at_ t) hl hi hq hb hj (steady_at s t) hm)
  · obtain ⟨hcool, hzero⟩ := measuring_event (s := s.at_ t) (e := e) (v := v) hl hi hq (s.at_ t)
    rw [handSpeed_launch huse]
    refine ⟨fun hc => ?_, hzero⟩
    rw [hcool hc]
    exact ⟨rfl, rfl⟩

end Sys2Proof.Machine
end

section
/-! The grant arbiter (R45 to R51): which entries can be granted, what a grant changes and what it leaves alone, and the release that it
begins: settles O5. -/

namespace Sys2Proof.Machine

/-! ### Which entry is granted (R45, R46) -/

theorem zoneFree_iff (s : State) (z : Nat) : s.zoneFree z = true ↔ s.occupant z = none ∧ (s.zst z).reserved = none ∧
    (s.zst z).nodeHold = false ∧ (s.zst z).userHold = false ∧ (s.zst z).fault = none := by
  unfold State.zoneFree ZoneStatus.isFree State.occupant
  simp only [Bool.and_eq_true, Option.isNone_iff_eq_none, Bool.not_eq_true', and_assoc]

theorem launchReady_iff (s : State) (o : Nat) : s.launchReady o = true ↔
    ∀ e k, s.zoneE o = some e → e.kind = .launch → e.sec = some k → (s.seqS k).state = .idle := by
  unfold State.launchReady
  split
  · next h => exact iff_of_true rfl fun e _ he => by rw [h] at he; cases he
  · next e h =>
    split
    · next k hk hs =>
      refine ⟨fun hi f j hf _ hj => ?_, fun hall => beq_iff_eq.mpr (hall e k h hk hs)⟩
      cases h.symm.trans hf
      cases hs.symm.trans hj
      exact beq_iff_eq.mp hi
    · next hno =>
      refine iff_of_true rfl fun f k hf hk hs => ?_
      cases h.symm.trans hf
      exact (hno k hk hs).elim

theorem grantable_iff (s : State) (q : QEntry) : s.grantable q = true ↔ s.mode = .run ∧ (∀ z ∈ q.path, s.zoneFree z = true) ∧
    s.launchReady q.origin = true := by
  unfold State.grantable
  simp only [Bool.and_eq_true, beq_iff_eq, List.all_eq_true, and_assoc]

/-- One pass passes over, oldest first, what cannot be granted (R45, R46). -/
theorem scan_first {s : State} {before rest : List QEntry} {q : QEntry} (h : s.queue = before ++ q :: rest)
    (hb : ∀ x ∈ before, s.grantable x = false) (hq : s.grantable q = true) :
    s.scan = rest.foldl (fun t x => if t.grantable x then t.grant x else t) (s.grant q) := by
  have hpass : before.foldl (fun t x => if t.grantable x then t.grant x else t) s = s :=
    foldl_keeps_mem (P := (· = s)) _ (fun t x hx ht => by rw [ht, if_neg (by rw [hb x hx]; decide)]) rfl
  unfold State.scan
  rw [h, List.foldl_append, hpass, List.foldl_cons, if_pos hq]

/-! ### What a grant leaves alone -/

theorem zst_reserve (s : State) (b : Nat) (p : List Nat) (z : Nat) :
    (s.reserve b p).zst z = if z ∈ p ∧ z < 64 then { s.zst z with reserved := some b } else s.zst z := by
  induction p generalizing s with
  | nil => simp [State.reserve]
  | cons y p ih =>
    have h : s.reserve b (y :: p) = (s.modZs y fun q => { q with reserved := some b }).reserve b p := rfl
    rw [h, ih, zst_modZs]
    by_cases hz : z = y
    · subst hz
      by_cases h64 : z < 64 <;> simp [h64]
    · simp [hz]

/-- What a grant does not speak of: what notices are made of and where they stand, the moment, and the pulses of the command. -/
structure Outer where
  addr : Nat
  mask : BitVec 22
  counters : Vector Nat 21
  up : PortState
  notices : List Notice
  now : Nat
  pulsed : List Nat

def State.outer (s : State) : Outer := ⟨s.addr, s.mask, s.counters, s.up, s.notices, s.now, s.ev.pulsed⟩

theorem Steady.ofOuter {s u v : State} (h : Steady s u) (hv : v.outer = u.outer) : Steady s v :=
  h.congr (congrArg Outer.addr hv) (congrArg Outer.mask hv) (congrArg Outer.counters hv)

theorem now_of_outer {s u : State} (h : u.outer = s.outer) : u.now = s.now := congrArg Outer.now h

section
variable (s : State)

theorem outer_hand (a : Nat) (v : ActValue) : (s.hand a v).outer = s.outer := by
  have hraw : (s.handRaw a v).outer = s.outer := by
    unfold State.handRaw
    split
    · rfl
    · dsimp only
      split <;> rfl
  exact (pumpDn_view State.outer (fun _ => rfl) (fun _ _ _ => rfl) (fun _ _ => rfl) _).trans hraw

theorem outer_putRel (b : Nat) (x : Option Release) : (s.putRel b x).outer = s.outer := by simp [State.outer]

theorem outer_modBoat (b : Nat) (f : Boat → Boat) : (s.modBoat b f).outer = s.outer := by simp [State.outer]

theorem outer_taken (q : QEntry) : (s.taken q).outer = s.outer := by
  have h : (s.reserve q.boat q.path).outer = s.outer :=
    foldl_view (f := fun s z => s.modZs z fun x => { x with reserved := some q.boat }) State.outer (fun _ _ => rfl) q.path s
  exact (outer_modBoat _ _ _).trans h

/-- The state of a grant before its release begins: the path is taken and the berth has been told (R47, R72). -/
def State.told (s : State) (q : QEntry) : State := (s.taken q).toBerth q.origin State.berthGranted

theorem toldGranted_view {β : Type} (v : State → β) (hv : ∀ (t : State) b f, v (t.setBerth b f) = v t) (q : QEntry) :
    v (s.told q) = v (s.taken q) := by
  unfold State.told State.toBerth
  split
  · rfl
  · exact hv _ _ _

theorem orders_told (q : QEntry) : (s.told q).orders = s.orders :=
  (toldGranted_view s State.orders (fun _ _ _ => rfl) q).trans (orders_taken s q)

theorem outer_told (q : QEntry) : (s.told q).outer = s.outer :=
  (toldGranted_view s State.outer (fun _ _ _ => rfl) q).trans (outer_taken s q)

theorem holdView_taken (q : QEntry) : (s.taken q).holdView = s.holdView := by
  unfold State.taken
  rw [holdView_modBoat]
  exact holdView_reserve s q.boat q.path

theorem holdView_told (q : QEntry) : (s.told q).holdView = s.holdView :=
  (toldGranted_view s State.holdView (fun _ _ _ => rfl) q).trans (holdView_taken s q)

theorem book_told (q : QEntry) : (s.told q).book = (s.taken q).book := toldGranted_view s State.book (fun _ _ _ => rfl) q

theorem zst_told (q : QEntry) (z : Nat) :
    (s.told q).zst z = if z ∈ q.path ∧ z < 64 then { s.zst z with reserved := some q.boat } else s.zst z := by
  have hzs : (s.told q).zs = (s.reserve q.boat q.path).zs :=
    (toldGranted_view s State.zs (fun _ _ _ => rfl) q).trans (modBoat_zs _ _ _)
  rw [← zst_reserve]
  unfold State.zst
  rw [hzs]

theorem grant_told {q : QEntry} {e : ZoneEntry} (he : s.zoneE q.origin = some e) : s.grant q = (s.told q).beginRelease q e := by
  have hz : (s.told q).zoneE q.origin = some e := (zoneE_of_view (holdView_told s q) q.origin).trans he
  rw [grant_taken]
  unfold State.told at *
  rw [hz]

end

section
variable {s : State} {q : QEntry} {e : ZoneEntry} {x : Boat}

theorem boatR_told (hx : s.boatR q.boat = some x) : (s.told q).boatR q.boat = some { x with path := q.path, state := .granted } := by
  rw [boatR_of_boats (boats_of_book (book_told s q)), boatR_taken, if_pos rfl, hx]
  rfl

theorem queue_told : (s.told q).queue = s.queue.filter fun y => y.boat != q.boat :=
  (queue_of_book (book_told s q)).trans (queue_taken s q)

theorem berthOfZone_of_tab {u : State} (h : u.tab = s.tab) (z : Nat) : u.berthOfZone z = s.berthOfZone z := by
  unfold State.berthOfZone State.zoneE State.berthE
  rw [h]

theorem berthOfZone_defined {z b : Nat} {f : BerthEntry} (h : s.berthOfZone z = some (b, f)) : s.berthE b = some f := by
  unfold State.berthOfZone at h
  split at h
  · cases h
  · split at h
    · cases h
    · next c _ =>
      obtain ⟨g, hg, hp⟩ := Option.map_eq_some_iff.mp h
      cases hp
      exact hg

/-- A REQUESTED berth is RELEASED by the grant, lit and locked (R72). -/
theorem berthS_told {b : Nat} {f : BerthEntry} (hb : s.berthOfZone q.origin = some (b, f)) (hst : (s.berthS b).state = .requested) :
    (s.told q).berthS b = { s.berthS b with state := .released, lamp := .on, lock := .lock } := by
  have hberths : (s.taken q).berthS b = s.berthS b := by
    have h : (s.taken q).berths = s.berths := (modBoat_berths _ _ _).trans
      (foldl_view (f := fun s z => s.modZs z fun x => { x with reserved := some q.boat }) State.berths (fun _ _ => rfl) q.path s)
    unfold State.berthS
    rw [h]
  unfold State.told State.toBerth
  rw [berthOfZone_of_tab (tab_of_orders (orders_taken s q)), hb]
  show ((s.taken q).berthGranted b).berthS b = _
  unfold State.berthGranted
  rw [berthS_setBerth, if_pos ⟨rfl, berthE_range (berthOfZone_defined hb)⟩, hberths, if_pos hst]

/-- What neither a release record nor a command to an actuator changes, no release but a launch's changes (R48, R49, R51). -/
theorem beginRelease_view {β : Type} (v : State → β) (hrel : ∀ (t : State) b r, v (t.putRel b r) = v t)
    (hhand : ∀ (t : State) a w, v (t.hand a w) = v t) (he : e.kind ≠ .launch) (t : State) : v (t.beginRelease q e) = v t := by
  have hgate : v (t.openGate q e) = v t := by
    unfold State.openGate
    dsimp only
    split
    · exact hrel _ _ _
    · exact (hhand _ _ _).trans (hrel _ _ _)
  unfold State.beginRelease
  split
  · contradiction
  · split
    · exact (hhand _ _ _).trans (hrel _ _ _)
    · exact hgate
  · exact hgate
  · exact hgate
  · exact hgate
  · rfl
  · rfl

theorem beginRelease_gate (he : e.kind = .berth ∨ e.kind = .queue ∨ e.kind = .brakeRun) (t : State) : t.beginRelease q e = t.openGate q e := by
  unfold State.beginRelease
  rcases he with he | he | he <;> rw [he]

theorem release_openGate {t : State} (hq : 1 ≤ q.boat ∧ q.boat ≤ 24) : (t.openGate q e).release q.boat = some ⟨q, .gate⟩ := by
  have hrel : (t.putRel q.boat (some ⟨q, .gate⟩)).release q.boat = some ⟨q, .gate⟩ := by rw [release_putRel, if_pos ⟨rfl, hq⟩]
  unfold State.openGate
  dsimp only
  split
  · exact hrel
  · rw [release_of_rel (rel_of_book (book_hand _ _ _))]
    exact hrel

/-- A value of its kind and range that is handed to an actuator is its own, unconfirmed (R128). -/
theorem actS_hand_taken {t : State} {a : Nat} {y : AuthEntry} {v : ActValue} (hy : t.authE a = some y) (hk : v.kind = y.kind)
    (hr : v.inRange = true) : (t.hand a v).actS a = ⟨some v, false⟩ := by
  rw [actS_hand, if_pos ⟨rfl, (handTaken_iff t a v).mpr ⟨y, hy, hk, hr⟩⟩]

theorem authE_of_tab {u : State} (h : u.tab = s.tab) (a : Nat) : u.authE a = s.authE a := by
  unfold State.authE
  rw [h]

theorem actS_openGate {t : State} {a : Nat} {y : AuthEntry} (hg : e.gate = some a) (hy : t.authE a = some y) (hk : y.kind = .gate) :
    (t.openGate q e).actS a = ⟨some .gateOpen, false⟩ := by
  unfold State.openGate
  rw [hg]
  exact actS_hand_taken ((authE_of_tab (putRel_tab t _ _) a).trans hy) hk.symm rfl

/-! ### A switch is thrown (R51) -/

theorem beginRelease_throw {a : Nat} (he : e.kind = .transfer) (ha : e.switch = some a) (t : State) :
    t.beginRelease q e = (t.putRel q.boat (some ⟨q, .throw a⟩)).hand a (e.throwValue q.path) := by
  unfold State.beginRelease
  rw [he]
  dsimp only
  rw [ha]

theorem throwValue_kind (p : List Nat) : (e.throwValue p).kind = .switch ∧ (e.throwValue p).inRange = true := by
  unfold ZoneEntry.throwValue
  split <;> exact ⟨rfl, rfl⟩

theorem throwValue_alt {z : Nat} {p : List Nat} (ha : e.alt = some z) (hp : p.head? = some z) : e.throwValue p = .switchAlt := by
  unfold ZoneEntry.throwValue
  rw [ha, if_pos ⟨rfl, hp⟩]

theorem throwValue_main {p : List Nat} (h : ∀ z, e.alt = some z → p.head? ≠ some z) : e.throwValue p = .switchMain := by
  unfold ZoneEntry.throwValue
  refine if_neg fun ⟨hs, hp⟩ => ?_
  obtain ⟨z, hz⟩ := Option.isSome_iff_exists.mp hs
  exact h z hz (hp.trans hz)

end

/-! ### A launch is charged, or aborted at once (R50, R85) -/

/-- A sequencer that charges for a boat, before its target is known (R85). -/
def Seq.charged (b : Nat) (band : Option Nat) : Seq := { Seq.idle with state := .charging, boat := some b, band := band }

theorem beginRelease_launch {q : QEntry} {e : ZoneEntry} {k : Nat} (he : e.kind = .launch) (hk : e.sec = some k) (t : State) :
    t.beginRelease q e = (t.putRel q.boat (some ⟨q, .launch⟩)).chargeStart k q.boat := by
  unfold State.beginRelease
  rw [he]
  dsimp only
  rw [hk]

section
variable {s : State} {k b i : Nat} {l : LaunchEntry} {x : Boat} {y : AuthEntry} (hl : s.launchE k = some l) (hx : s.boatR b = some x)
include hl

theorem boosterActive_iff : s.boosterActive k = true ↔ ∃ y, s.authE l.booster = some y ∧ s.nodeActive y.node = true := by
  unfold State.boosterActive State.boosterNode State.actNode
  rw [hl, Option.bind_some, Option.any_eq_true]
  refine ⟨fun ⟨n, hn, ha⟩ => ?_, fun ⟨y, hy, ha⟩ => ⟨y.node, by rw [hy]; rfl, ha⟩⟩
  obtain ⟨y, hy, rfl⟩ := Option.map_eq_some_iff.mp hn
  exact ⟨y, hy, ha⟩

theorem sentTarget_eq {n : NodeEntry} (hy : s.authE l.booster = some y) (hn : s.nodeE y.node = some n) :
    s.sentTarget k i = min (s.bandTarget k i) n.limit1 := by
  have hb : (s.boosterNode k).bind s.nodeE = some n := by
    unfold State.boosterNode State.actNode
    rw [hl, Option.bind_some, hy]
    exact hn
  unfold State.sentTarget
  rw [hb]

include hx

/-- With no inhibit and its node ACTIVE the section charges with the smaller of its target and the node's limit (R85). -/
theorem chargeStart_charges {m : Nat} {n : NodeEntry} (hband : x.band = some (m, i)) (hi : s.inhibited k = false)
    (hy : s.authE l.booster = some y) (ha : s.nodeActive y.node = true) (hn : s.nodeE y.node = some n) :
    s.chargeStart k b = ((s.putSeq k (Seq.charged b (some i))).modSeq k fun q =>
        { q with target := some (min (s.bandTarget k i) n.limit1), charge := some s.now }).hand l.booster
      (.boosterRequest (min (s.bandTarget k i) n.limit1)) := by
  have hb : ((s.boatR b).bind fun x => x.band).map (·.2) = some i := by rw [hx, Option.bind_some, hband]; rfl
  unfold State.chargeStart
  rw [hl]
  dsimp only
  rw [if_neg (by rw [hi]; decide), if_neg (by rw [(boosterActive_iff hl).mpr ⟨y, hy, ha⟩]; decide), hb, Option.getD_some, sentTarget_eq hl hy hn]
  rfl

omit hx in
/-- An inhibited section, or one whose booster's node is not ACTIVE, aborts the launch at once (R85, R87, R93). -/
theorem chargeStart_aborts (h : s.inhibited k = true ∨ ∀ y, s.authE l.booster = some y → s.nodeActive y.node = false) :
    s.chargeStart k b = (s.putSeq k (Seq.charged b (((s.boatR b).bind fun x => x.band).map (·.2)))).launchAbort k
      (if s.inhibited k then .inhibited else .nodeLost) := by
  unfold State.chargeStart
  rw [hl]
  dsimp only
  by_cases hi : s.inhibited k = true
  · rw [if_pos hi, if_pos hi]
    rfl
  · have hno : s.boosterActive k = false := by
      rw [← Bool.not_eq_true, boosterActive_iff hl]
      rintro ⟨y, hy, ha⟩
      rw [(h.resolve_left hi) y hy] at ha
      cases ha
    rw [if_neg hi, if_neg hi, hno]
    rfl

end

/-! ### A launch that is aborted with its boat still GRANTED (R73, R87) -/

/-- What an abort leaves before its notice: the booster SAFE, the reservations returned and the berth told (R73, R87). -/
def State.abortedTo (s : State) (k b : Nat) (l : LaunchEntry) : State :=
  ((((s.putSeq k .idle).hand l.booster .boosterSafe).returnReservations b).setBoatState b .waiting).toBerth l.zone State.berthReturned

section
variable {s : State} {k b : Nat} {l : LaunchEntry} {x : Boat}

theorem boatR_safed (c : Nat) : ((s.putSeq k .idle).hand l.booster .boosterSafe).boatR c = s.boatR c :=
  boatR_of_boats (boats_hand _ _ _) c

theorem launchAbort_granted (hl : s.launchE k = some l) (hb : (s.seqS k).boat = some b) (hx : s.boatR b = some x) (hst : x.state = .granted)
    (r : AbortReason) : s.launchAbort k r = (s.abortedTo k b l).notice (.launchAborted k b r) := by
  unfold State.launchAbort
  rw [hl, hb]
  dsimp only
  rw [boatR_safed, hx, if_pos (by simp [hst])]
  rfl

/-- A charge that is aborted in the state it has just been begun in. -/
theorem launchAbort_charged {c : Seq} (hl : s.launchE k = some l) (hb : c.boat = some b) (hx : s.boatR b = some x)
    (hst : x.state = .granted) (r : AbortReason) :
    (s.putSeq k c).launchAbort k r = ((s.putSeq k c).abortedTo k b l).notice (.launchAborted k b r) :=
  launchAbort_granted (s := s.putSeq k c) hl (by rw [seqS_put_state (launchE_range hl)]; exact hb) hx hst r

theorem seqS_abortedTo (hk : k < 2) : (s.abortedTo k b l).seqS k = .idle := by
  have ho : (s.abortedTo k b l).orders = ((s.putSeq k .idle).hand l.booster .boosterSafe).orders := by
    unfold State.abortedTo
    rw [orders_toBerth _ orders_berthReturned, orders_setBoatState, orders_returnReservations]
  unfold State.seqS
  rw [seqs_of_orders ho, seqs_hand]
  exact seqS_put_state hk

theorem boatR_abortedTo (hx : s.boatR b = some x) (hst : x.state = .granted) :
    (s.abortedTo k b l).boatR b = some { x with path := [], state := .waiting } := by
  obtain ⟨-, -, hboat⟩ := returnReservations_granted (s := (s.putSeq k .idle).hand l.booster .boosterSafe) ((boatR_safed b).trans hx) hst
  unfold State.abortedTo
  rw [boatR_of_boats (boats_of_book (book_toBerthReturned _ _)), boatR_setBoatState, if_pos rfl, hboat, if_pos rfl]
  rfl

theorem reserved_abortedTo (hx : s.boatR b = some x) (hst : x.state = .granted) {z : Nat} (hz : z ∈ x.path) :
    ((s.abortedTo k b l).zst z).reserved = none := by
  have h := reserved_returnReservations (s := (s.putSeq k .idle).hand l.booster .boosterSafe) ((boatR_safed b).trans hx) hst hz
  unfold State.abortedTo State.zst at *
  rw [zs_toBerthReturned]
  unfold State.setBoatState
  rw [modBoat_zs]
  exact h

theorem steady_abortedTo {s0 : State} (h : Steady s0 s) : Steady s0 (s.abortedTo k b l) := by
  have hm := (steady_calm s0).toModal
  exact Base.toBerth _ hm.berthReturned (hm.setBoatState b _ (hm.returnReservations b (hm.handRest _ _ rfl (hm.looseSeq k _ (.inl rfl) h))))

theorem berths_returnReservations (s : State) (b : Nat) : (s.returnReservations b).berths = s.berths := by
  unfold State.returnReservations
  split
  · rfl
  · split
    · rfl
    · next x _ _ =>
      have h : (x.path.foldl (fun s z => s.unreserve z) s).berths = s.berths :=
        foldl_view (f := fun s z => s.unreserve z) State.berths (fun _ _ => rfl) x.path s
      show ((((x.path.foldl (fun s z => s.unreserve z) s).putRel b none).modBoat b fun r => { r with path := [] })).berths = s.berths
      rw [modBoat_berths, putRel_berths, h]

theorem actS_of_orders {u : State} (h : u.orders = s.orders) (a : Nat) : u.actS a = s.actS a := by
  have hacts : u.acts = s.acts := congrArg Orders.acts h
  unfold State.actS
  rw [hacts]

theorem lockConfirmed_of_act {u : State} {f : BerthEntry} (h : u.actS f.lock = s.actS f.lock) : u.lockConfirmed f = s.lockConfirmed f := by
  unfold State.lockConfirmed
  rw [h]

/-- A RELEASED berth whose boat's reservations are returned is SECURED or OCCUPIED as latch and lock say (R73). -/
theorem berthS_berthReturned {f : BerthEntry} (hb : s.berthE b = some f) (hst : (s.berthS b).state = .released)
    (ho : (s.occupant f.zone).isSome = true) (hp : (s.berthS b).presence = true) :
    (((s.berthReturned b).berthS b).state = if (s.berthS b).latch = true ∧ s.lockConfirmed f = true then .secured else .occupied) ∧
      ((s.berthS b).latch = true → s.lockConfirmed f = true → ((s.berthReturned b).berthS b).lamp = .blink) := by
  have hb6 := berthE_range hb
  have hpresent : ((s.occupant f.zone).isNone || !(s.berthS b).presence) = false := by
    rw [hp, Option.isNone_eq_false_iff.mpr ho]
    rfl
  unfold State.berthReturned
  rw [hb]
  dsimp only
  rw [if_neg (by simp [hst])]
  by_cases hc : (s.berthS b).latch = true ∧ s.lockConfirmed f = true
  · rw [if_pos (by simp [hc]), if_pos hc, berthS_setBerth, if_pos ⟨rfl, hb6⟩]
    exact ⟨rfl, fun _ _ => rfl⟩
  · have hcb : ((s.berthS b).latch && s.lockConfirmed f) = false := by rw [← Bool.not_eq_true, Bool.and_eq_true]; exact hc
    rw [if_neg (by rw [hcb]; decide), if_neg hc, berthDerive_eq hb, berthS_setBerth, if_pos ⟨rfl, hb6⟩]
    unfold State.derived
    rw [if_neg (by rw [hpresent]; decide), if_neg (by rw [hcb]; decide)]
    exact ⟨rfl, fun h1 h2 => (hc ⟨h1, h2⟩).elim⟩

/-- The berth of an aborted launch is SECURED or OCCUPIED as latch and lock say (R73, R87). -/
theorem berthS_abortedTo {c : Nat} {f : BerthEntry} (hb : s.berthOfZone l.zone = some (c, f)) (hst : (s.berthS c).state = .released)
    (hne : f.lock ≠ l.booster) (ho : (s.occupant f.zone).isSome = true) (hp : (s.berthS c).presence = true) :
    (((s.abortedTo k b l).berthS c).state = if (s.berthS c).latch = true ∧ s.lockConfirmed f = true then .secured else .occupied) ∧
      ((s.berthS c).latch = true → s.lockConfirmed f = true → ((s.abortedTo k b l).berthS c).lamp = .blink) := by
  have horders : ((((s.putSeq k .idle).hand l.booster .boosterSafe).returnReservations b).setBoatState b .waiting).orders =
      ((s.putSeq k .idle).hand l.booster .boosterSafe).orders := (orders_setBoatState _ _ _).trans (orders_returnReservations _ _)
  have hberth : ((((s.putSeq k .idle).hand l.booster .boosterSafe).returnReservations b).setBoatState b .waiting).berthS c = s.berthS c := by
    have h : ((((s.putSeq k .idle).hand l.booster .boosterSafe).returnReservations b).setBoatState b .waiting).berths = s.berths :=
      (modBoat_berths _ _ _).trans ((berths_returnReservations _ b).trans (berths_hand _ _ _))
    unfold State.berthS
    rw [h]
  have hview : ((((s.putSeq k .idle).hand l.booster .boosterSafe).returnReservations b).setBoatState b .waiting).holdView = s.holdView := by
    rw [holdView_setBoatState, holdView_returnReservations, holdView_hand]
    rfl
  have hact : ((((s.putSeq k .idle).hand l.booster .boosterSafe).returnReservations b).setBoatState b .waiting).actS f.lock = s.actS f.lock := by
    have h : ((s.putSeq k .idle).hand l.booster .boosterSafe).actS f.lock = s.actS f.lock := by
      rw [actS_hand, if_neg fun hc => hne hc.1]
      rfl
    rw [← h]
    exact actS_of_orders horders _
  unfold State.abortedTo
  generalize (((s.putSeq k .idle).hand l.booster .boosterSafe).returnReservations b).setBoatState b .waiting = v at *
  have h := berthS_berthReturned (s := v) (b := c) (f := f) ((berthE_of_tab (tab_of_view hview) c).trans (berthOfZone_defined hb))
    (by rw [hberth]; exact hst) (by rw [occupant_of_view hview]; exact ho) (by rw [hberth]; exact hp)
  rw [hberth, lockConfirmed_of_act hact] at h
  unfold State.toBerth
  rw [berthOfZone_of_tab (tab_of_view hview), hb]
  exact h

end

/-! ### A grant of a launch (R50, R85) -/

/-- A grant's state as its launch section is told (R50). -/
def State.launching (s : State) (q : QEntry) : State := (s.told q).putRel q.boat (some ⟨q, .launch⟩)

section
variable {s : State} {q : QEntry} {e : ZoneEntry} {x : Boat} {k : Nat}

theorem grant_launch (hz : s.zoneE q.origin = some e) (he : e.kind = .launch) (hk : e.sec = some k) :
    s.grant q = (s.launching q).chargeStart k q.boat := by
  rw [grant_told s hz, beginRelease_launch he hk]
  rfl

theorem orders_launching (s : State) (q : QEntry) : (s.launching q).orders = s.orders := (orders_putRel _ _ _).trans (orders_told s q)

theorem tab_launching (s : State) (q : QEntry) : (s.launching q).tab = s.tab := tab_of_orders (orders_launching s q)

theorem outer_launching (s : State) (q : QEntry) : (s.launching q).outer = s.outer := (outer_putRel _ _ _).trans (outer_told s q)

theorem holdView_launching (s : State) (q : QEntry) : (s.launching q).holdView = s.holdView := (holdView_putRel _ _ _).trans (holdView_told s q)

theorem zst_launching (s : State) (q : QEntry) (z : Nat) :
    (s.launching q).zst z = if z ∈ q.path ∧ z < 64 then { s.zst z with reserved := some q.boat } else s.zst z := by
  rw [← zst_told]
  unfold State.launching State.zst
  rw [putRel_zs]

theorem boatR_launching (hx : s.boatR q.boat = some x) : (s.launching q).boatR q.boat = some { x with path := q.path, state := .granted } := by
  rw [← boatR_told hx]
  exact boatR_of_boats (putRel_boats _ _ _) _

theorem queue_launching (s : State) (q : QEntry) : (s.launching q).queue = s.queue.filter fun y => y.boat != q.boat :=
  (putRel_queue _ _ _).trans queue_told

theorem release_launching (hq : 1 ≤ q.boat ∧ q.boat ≤ 24) : (s.launching q).release q.boat = some ⟨q, .launch⟩ := by
  unfold State.launching
  rw [release_putRel, if_pos ⟨rfl, hq⟩]

theorem berthS_launching {b : Nat} {f : BerthEntry} (hb : s.berthOfZone q.origin = some (b, f)) (hst : (s.berthS b).state = .requested) :
    (s.launching q).berthS b = { s.berthS b with state := .released, lamp := .on, lock := .lock } := by
  rw [← berthS_told hb hst]
  unfold State.launching State.berthS
  rw [putRel_berths]

/-- An inhibit is a matter of levels and pulses (R157). -/
theorem inhibited_of_view {u : State} (hv : u.holdView = s.holdView) (hp : u.ev.pulsed = s.ev.pulsed) (k : Nat) : u.inhibited k = s.inhibited k := by
  have hpulsed : ∀ w, u.userPulsed w = s.userPulsed w := fun w => by
    unfold State.userPulsed
    rw [userE_of_view hv, hp]
  unfold State.inhibited
  simp only [userE_of_view hv, userLevel_of_view hv, hpulsed]

theorem inhibited_launching (s : State) (q : QEntry) (k : Nat) : (s.launching q).inhibited k = s.inhibited k :=
  inhibited_of_view (holdView_launching s q) (congrArg Outer.pulsed (outer_launching s q)) k

theorem nodeE_of_tab {u : State} (h : u.tab = s.tab) (n : Nat) : u.nodeE n = s.nodeE n := by
  unfold State.nodeE
  rw [h]

theorem bandTarget_of_tab {u : State} (h : u.tab = s.tab) (k i : Nat) : u.bandTarget k i = s.bandTarget k i := by
  unfold State.bandTarget State.band State.bandE
  rw [h]

variable {l : LaunchEntry} (hz : s.zoneE q.origin = some e) (he : e.kind = .launch) (hk : e.sec = some k) (hl : s.launchE k = some l)
  (hx : s.boatR q.boat = some x)
include hz he hk hl hx

theorem grant_charges {m i : Nat} {y : AuthEntry} {n : NodeEntry} (hband : x.band = some (m, i)) (hi : s.inhibited k = false)
    (hy : s.authE l.booster = some y) (ha : s.nodeActive y.node = true) (hn : s.nodeE y.node = some n) :
    s.grant q = (((s.launching q).putSeq k (Seq.charged q.boat (some i))).modSeq k fun r =>
        { r with target := some (min (s.bandTarget k i) n.limit1), charge := some s.now }).hand l.booster
      (.boosterRequest (min (s.bandTarget k i) n.limit1)) := by
  have htab := tab_launching s q
  rw [grant_launch hz he hk, chargeStart_charges ((launchE_of_tab htab k).trans hl) (boatR_launching hx) hband
    ((inhibited_launching s q k).trans hi) ((authE_of_tab htab _).trans hy) ((nodeActive_of_view (holdView_launching s q) _).trans ha)
    ((nodeE_of_tab htab _).trans hn), bandTarget_of_tab htab, now_of_outer (outer_launching s q)]

theorem seqS_grant_charges {m i : Nat} {y : AuthEntry} {n : NodeEntry} (hband : x.band = some (m, i)) (hi : s.inhibited k = false)
    (hy : s.authE l.booster = some y) (ha : s.nodeActive y.node = true) (hn : s.nodeE y.node = some n) :
    (s.grant q).seqS k = ⟨.charging, some q.boat, some i, some (min (s.bandTarget k i) n.limit1), none, some s.now, none, none⟩ := by
  have hput := seqS_put_state (s := s.launching q) (q := Seq.charged q.boat (some i)) (launchE_range hl)
  have hl' : ((s.launching q).putSeq k (Seq.charged q.boat (some i))).launchE k = some l := (launchE_of_tab (tab_launching s q) k).trans hl
  rw [grant_charges hz he hk hl hx hband hi hy ha hn]
  unfold State.seqS at hput ⊢
  rw [seqs_hand]
  refine (seqS_modSeq_self hl' _).trans ?_
  unfold State.seqS
  rw [hput]
  rfl

theorem grant_aborts (h : s.inhibited k = true ∨ ∀ y, s.authE l.booster = some y → s.nodeActive y.node = false) :
    s.grant q = (((s.launching q).putSeq k (Seq.charged q.boat (x.band.map (·.2)))).abortedTo k q.boat l).notice
      (.launchAborted k q.boat (if s.inhibited k then .inhibited else .nodeLost)) := by
  have htab := tab_launching s q
  have hx' := boatR_launching hx
  have hl' := (launchE_of_tab htab k).trans hl
  have hno : (s.launching q).inhibited k = true ∨
      ∀ y, (s.launching q).authE l.booster = some y → (s.launching q).nodeActive y.node = false := by
    rw [inhibited_launching, authE_of_tab htab]
    exact h.imp id fun h y hy => (nodeActive_of_view (holdView_launching s q) _).trans (h y hy)
  rw [grant_launch hz he hk, chargeStart_aborts hl' hno, inhibited_launching, hx', Option.bind_some]
  exact launchAbort_charged hl' rfl hx' rfl _

end

/-! ### The scan that ends an event (R45) -/

/-- With nothing queued the scans that are due change nothing but what is set aside. -/
theorem scans_nil (n : Nat) {s : State} (hq : s.queue = []) : ∃ f, State.scans n s = s.modEv f := by
  induction n generalizing s with
  | zero => exact ⟨id, rfl⟩
  | succ n ih =>
    unfold State.scans
    split
    · have h : (s.modEv fun e => { e with scanDue := false }).scan = s.modEv fun e => { e with scanDue := false } := by
        unfold State.scan
        rw [show (s.modEv fun e => { e with scanDue := false }).queue = [] from hq]
        rfl
      rw [h]
      obtain ⟨f, hf⟩ := ih (s := s.modEv fun e => { e with scanDue := false }) hq
      exact ⟨fun e => f { e with scanDue := false }, hf⟩
    · exact ⟨id, rfl⟩

theorem scans_due {s : State} (h : s.ev.scanDue = true) (n : Nat) :
    State.scans (n + 1) s = State.scans n ((s.modEv fun e => { e with scanDue := false }).scan) := if_pos h

section
variable {s v : State} {q : QEntry} (hq : s.quiet) (hv : v.holdView = s.holdView) (hc : ∀ k, k < 2 → (v.seqS k).state ≠ .charging)
include hq hv hc

/-- An event that changes no level and no hold and finds nothing charging ends with its scans, its berths settled. -/
theorem event_scanning (n : Nat) : State.event (fun _ => v) (s.at_ n) = (State.scans (v.queue.length + 1) v).settleBerths.driveLines.clearEv := by
  obtain ⟨-, hs, -⟩ := hq
  have hv' : v.holdView = (s.at_ n).holdView := hv.trans (holdView_at s n).symm
  unfold State.event State.settle
  dsimp only
  rw [edges_of_levels (genLevel_of_view hv'), evalUserHolds_sound (holdsSound_of_view hv hs), abortInhibited_idle hc]

variable (hdue : v.ev.scanDue = true) (hqueue : v.queue = [q])
include hdue hqueue

/-- The only entry is granted where it can be (R45, R46). -/
theorem event_grants (hg : v.grantable q = true) (n : Nat) : ∃ f, State.event (fun _ => v) (s.at_ n) =
    (((v.modEv fun e => { e with scanDue := false }).grant q).modEv f).settleBerths.driveLines.clearEv := by
  have hscan : (v.modEv fun e => { e with scanDue := false }).scan = (v.modEv fun e => { e with scanDue := false }).grant q :=
    scan_first (before := []) (rest := []) hqueue (fun _ h => nomatch h) hg
  have hnil : ((v.modEv fun e => { e with scanDue := false }).grant q).queue = [] := by
    rw [queue_grant, show (v.modEv fun e => { e with scanDue := false }).queue = [q] from hqueue]
    simp
  obtain ⟨f, hf⟩ := scans_nil 1 hnil
  refine ⟨f, ?_⟩
  rw [event_scanning hq hv hc, scans_due hdue, hscan, hqueue, ← hf]
  rfl

/-- The only entry stays where it cannot be granted (R45). -/
theorem event_blocked (hg : v.grantable q = false) (n : Nat) : State.event (fun _ => v) (s.at_ n) =
    (v.modEv fun e => { e with scanDue := false }).settleBerths.driveLines.clearEv := by
  have hscan : (v.modEv fun e => { e with scanDue := false }).scan = v.modEv fun e => { e with scanDue := false } := by
    unfold State.scan
    rw [show (v.modEv fun e => { e with scanDue := false }).queue = [q] from hqueue]
    exact if_neg (by rw [show (v.modEv fun e => { e with scanDue := false }).grantable q = false from hg]; decide)
  have hdone : State.scans [q].length (v.modEv fun e => { e with scanDue := false }) = v.modEv fun e => { e with scanDue := false } :=
    if_neg Bool.false_ne_true
  rw [event_scanning hq hv hc, scans_due hdue, hscan, hqueue, hdone]

end

theorem ended_view (s : State) : s.driveLines.clearEv.book = s.book ∧ s.driveLines.clearEv.zs = s.zs ∧ s.driveLines.clearEv.seqs = s.seqs :=
  ⟨rfl, rfl, rfl⟩

/-- What follows the scans leaves the boats, the queue, the releases, the zones and the sequencers alone. -/
theorem ended_leaves (s : State) (f : Ev → Ev) :
    (s.modEv f).settleBerths.driveLines.clearEv.book = s.book ∧ (s.modEv f).settleBerths.driveLines.clearEv.zs = s.zs ∧
      (s.modEv f).settleBerths.driveLines.clearEv.seqs = s.seqs := by
  have hbook : (s.modEv f).settleBerths.book = s.book := (base_book s.book).settleBerths (s := s.modEv f) rfl
  have hzs : (s.modEv f).settleBerths.zs = s.zs := zs_settleBerths (s.modEv f)
  have hseqs : (s.modEv f).settleBerths.seqs = s.seqs := (still_seqs s.seqs).settleBerths (s := s.modEv f) rfl
  obtain ⟨h1, h2, h3⟩ := ended_view (s.modEv f).settleBerths
  exact ⟨h1.trans hbook, h2.trans hzs, h3.trans hseqs⟩

/-- A section whose cooldown has ended, as the scan that follows finds it (R91). -/
def State.cooled (s : State) (t k : Nat) : State := (((s.at_ t).putSeq k .idle).scanWanted).modEv fun e => { e with scanDue := false }

/-- A cooldown that has run ends: the section is IDLE and a scan is due (R91). -/
theorem cooldownExpiry_due {s : State} {k start : Nat} {l : LaunchEntry} (hl : s.launchE k = some l) (hq : (s.seqS k).state = .cooldown)
    (hc : (s.seqS k).cooldown = some start) (hd : start + l.cooldown ≤ s.now) : s.cooldownExpiry k = (s.putSeq k .idle).scanWanted := by
  unfold State.cooldownExpiry
  rw [hl]
  exact if_pos ⟨hq, by rw [hc]; exact due_some hd⟩

/-- The end of a cooldown in RUN grants the one entry that waits (R45, R91). -/
theorem cooldownExpiry_grants {s : State} {t k start : Nat} {l : LaunchEntry} {q : QEntry} (hq : s.quiet) (hm : s.mode = .run)
    (hl : s.launchE k = some l) (hst : (s.seqS k).state = .cooldown) (hc : (s.seqS k).cooldown = some start)
    (hd : start + l.cooldown ≤ max s.now t) (hqueue : s.queue = [q]) (hfree : ∀ z ∈ q.path, s.zoneFree z = true)
    (hready : (s.cooled t k).launchReady q.origin = true) {Q : State → Prop}
    (hQ : ∀ f, Q (((s.cooled t k).grant q).modEv f).settleBerths.driveLines.clearEv) : Completes (.cooldownExpiry t k) s Q := by
  have hidle : ∀ j, j < 2 → ((((s.at_ t).putSeq k .idle).scanWanted).seqS j).state ≠ .charging := fun j hj => by
    show (((s.at_ t).putSeq k .idle).seqS j).state ≠ .charging
    rw [seqS_putSeq]
    split
    · exact SeqState.noConfusion
    · exact hq.2.2 j hj
  have hview : (((s.at_ t).putSeq k .idle).scanWanted).holdView = s.holdView := holdView_cooldownEnd (s := s.at_ t) k
  have hg : (((s.at_ t).putSeq k .idle).scanWanted).grantable q = true := (grantable_iff _ q).mpr ⟨hm, hfree, hready⟩
  obtain ⟨f, hf⟩ := event_grants hq hview hidle rfl hqueue hg t
  refine completes_command rfl _ (cooldownExpiry_due (s := s.at_ t) hl hst hc hd) ?_
  rw [hf]
  exact hQ f

section
variable {s : State} {q : QEntry} {e : ZoneEntry} {x : Boat}

/-- A grant whose release is no launch's (R47 to R51). -/
theorem grant_leaves (hz : s.zoneE q.origin = some e) (he : e.kind ≠ .launch) :
    (s.grant q).zs = (s.told q).zs ∧ (s.grant q).queue = (s.told q).queue ∧ (s.grant q).boats = (s.told q).boats ∧
      (s.grant q).outer = (s.told q).outer ∧ (s.grant q).berths = (s.told q).berths ∧ (s.grant q).seqs = (s.told q).seqs := by
  rw [grant_told s hz]
  exact ⟨beginRelease_view State.zs putRel_zs zs_hand he _,
    beginRelease_view State.queue putRel_queue (fun t a w => queue_of_book (book_hand t a w)) he _,
    beginRelease_view State.boats putRel_boats boats_hand he _, beginRelease_view State.outer outer_putRel outer_hand he _,
    beginRelease_view State.berths putRel_berths berths_hand he _, beginRelease_view State.seqs putRel_seqs seqs_hand he _⟩

theorem zst_grant (hz : s.zoneE q.origin = some e) (he : e.kind ≠ .launch) (z : Nat) :
    (s.grant q).zst z = if z ∈ q.path ∧ z < 64 then { s.zst z with reserved := some q.boat } else s.zst z := by
  obtain ⟨hzs, -⟩ := grant_leaves hz he
  rw [← zst_told]
  unfold State.zst
  rw [hzs]

theorem boatR_grant (hz : s.zoneE q.origin = some e) (he : e.kind ≠ .launch) (hx : s.boatR q.boat = some x) :
    (s.grant q).boatR q.boat = some { x with path := q.path, state := .granted } := by
  obtain ⟨-, -, hboats, -⟩ := grant_leaves hz he
  rw [boatR_of_boats hboats, boatR_told hx]

theorem berthS_grant (hz : s.zoneE q.origin = some e) (he : e.kind ≠ .launch) {b : Nat} {f : BerthEntry}
    (hb : s.berthOfZone q.origin = some (b, f)) (hst : (s.berthS b).state = .requested) :
    (s.grant q).berthS b = { s.berthS b with state := .released, lamp := .on, lock := .lock } := by
  obtain ⟨-, -, -, -, hberths, -⟩ := grant_leaves hz he
  rw [← berthS_told hb hst]
  unfold State.berthS
  rw [hberths]

theorem grant_gate (hz : s.zoneE q.origin = some e) (he : e.kind = .berth ∨ e.kind = .queue ∨ e.kind = .brakeRun) :
    s.grant q = (s.told q).openGate q e := by
  rw [grant_told s hz, beginRelease_gate he]

theorem release_grant_gate (hz : s.zoneE q.origin = some e) (he : e.kind = .berth ∨ e.kind = .queue ∨ e.kind = .brakeRun)
    (hx : s.boatR q.boat = some x) : (s.grant q).release q.boat = some ⟨q, .gate⟩ := by
  rw [grant_gate hz he]
  exact release_openGate (boatR_range s hx)

theorem actS_grant_gate (hz : s.zoneE q.origin = some e) (he : e.kind = .berth ∨ e.kind = .queue ∨ e.kind = .brakeRun) {a : Nat}
    {y : AuthEntry} (hg : e.gate = some a) (hy : s.authE a = some y) (hk : y.kind = .gate) :
    (s.grant q).actS a = ⟨some .gateOpen, false⟩ := by
  rw [grant_gate hz he]
  exact actS_openGate hg ((authE_of_tab (tab_of_orders (orders_told s q)) a).trans hy) hk

theorem not_launch_of_gate (he : e.kind = .berth ∨ e.kind = .queue ∨ e.kind = .brakeRun) : e.kind ≠ .launch := by
  rcases he with he | he | he <;> rw [he] <;> decide

theorem grant_throw {a : Nat} (hz : s.zoneE q.origin = some e) (he : e.kind = .transfer) (ha : e.switch = some a) :
    s.grant q = ((s.told q).putRel q.boat (some ⟨q, .throw a⟩)).hand a (e.throwValue q.path) := by
  rw [grant_told s hz, beginRelease_throw he ha]

/-- What a switch throw commands, and what it leaves alone (R51). -/
theorem actS_grant_throw {a : Nat} {y : AuthEntry} (hz : s.zoneE q.origin = some e) (he : e.kind = .transfer) (ha : e.switch = some a)
    (hy : s.authE a = some y) (hk : y.kind = .switch) :
    (s.grant q).actS a = ⟨some (e.throwValue q.path), false⟩ ∧ ∀ g, g ≠ a → (s.grant q).actS g = s.actS g := by
  have ho : ((s.told q).putRel q.boat (some ⟨q, .throw a⟩)).orders = s.orders := (orders_putRel _ _ _).trans (orders_told s q)
  obtain ⟨hkind, hrange⟩ := throwValue_kind (e := e) q.path
  rw [grant_throw hz he ha]
  refine ⟨actS_hand_taken ((authE_of_tab (tab_of_orders ho) a).trans hy) (hkind.trans hk.symm) hrange, fun g hg => ?_⟩
  rw [actS_hand, if_neg fun hc => hg hc.1, actS_of_orders ho]

end

/-- What a throw's grant leaves (R51). -/
theorem grant_throws {s : State} {q : QEntry} {e : ZoneEntry} {x : Boat} {a : Nat} {y : AuthEntry} (hz : s.zoneE q.origin = some e)
    (he : e.kind = .transfer) (ha : e.switch = some a) (hx : s.boatR q.boat = some x) (hy : s.authE a = some y) (hk : y.kind = .switch) :
    (s.grant q).release q.boat = some ⟨q, .throw a⟩ ∧
    ((∃ z, e.alt = some z ∧ q.path.head? = some z) → (s.grant q).actS a = ⟨some .switchAlt, false⟩) ∧
    ((∀ z, e.alt = some z → q.path.head? ≠ some z) → (s.grant q).actS a = ⟨some .switchMain, false⟩) ∧
    ∀ g, e.gate = some g → g ≠ a → (s.grant q).actS g = s.actS g := by
  obtain ⟨hact, hother⟩ := actS_grant_throw hz he ha hy hk
  refine ⟨?_, fun ⟨z, hz, hp⟩ => ?_, fun hno => ?_, fun g _ hg => hother g hg⟩
  · rw [grant_throw hz he ha, release_of_rel (rel_of_book (book_hand _ _ _)), release_putRel, if_pos ⟨rfl, boatR_range s hx⟩]
  · rw [hact, throwValue_alt hz hp]
  · rw [hact, throwValue_main hno]

section
variable {s : State} {q : QEntry} {e : ZoneEntry} {x : Boat} {k : Nat} {l : LaunchEntry} (hz : s.zoneE q.origin = some e)
  (he : e.kind = .launch) (hs : e.sec = some k) (hl : s.launchE k = some l) (hx : s.boatR q.boat = some x)
include hz he hs hl hx

/-- A launch that charges: its command, its release, its path and its berth (R47, R50, R72, R85). -/
theorem grant_charging {m i : Nat} {y : AuthEntry} {n : NodeEntry} (hband : x.band = some (m, i)) (hi : s.inhibited k = false)
    (hy : s.authE l.booster = some y) (hk : y.kind = .booster) (ha : s.nodeActive y.node = true) (hn : s.nodeE y.node = some n)
    (hr : min (s.bandTarget k i) n.limit1 ≤ 15000) :
    (s.grant q).seqS k = ⟨.charging, some q.boat, some i, some (min (s.bandTarget k i) n.limit1), none, some s.now, none, none⟩ ∧
    (s.grant q).actS l.booster = ⟨some (.boosterRequest (min (s.bandTarget k i) n.limit1)), false⟩ ∧
    (s.grant q).release q.boat = some ⟨q, .launch⟩ ∧ (∀ z ∈ q.path, z < 64 → ((s.grant q).zst z).reserved = some q.boat) ∧
    (s.grant q).boatR q.boat = some { x with path := q.path, state := .granted } ∧
    (s.grant q).queue = s.queue.filter (fun y => y.boat != q.boat) ∧
    ∀ b f, s.berthOfZone q.origin = some (b, f) → (s.berthS b).state = .requested →
      ((s.grant q).berthS b).state = .released ∧ ((s.grant q).berthS b).lamp = .on ∧ ((s.grant q).berthS b).lock = .lock := by
  have hgrant := grant_charges hz he hs hl hx hband hi hy ha hn
  have hbook : (s.grant q).book = (s.launching q).book := by rw [hgrant]; exact book_hand _ _ _
  refine ⟨seqS_grant_charges hz he hs hl hx hband hi hy ha hn, ?_, ?_, fun z hzp h64 => ?_, ?_, ?_, fun b f hb hst => ?_⟩
  · rw [hgrant]
    exact actS_hand_taken ((authE_of_tab (tab_launching s q) _).trans hy) hk.symm (decide_eq_true hr)
  · rw [release_of_rel (rel_of_book hbook)]
    exact release_launching (boatR_range s hx)
  · have hzst : (s.grant q).zst z = (s.launching q).zst z := by
      unfold State.zst
      rw [hgrant, zs_hand]
      rfl
    rw [hzst, zst_launching, if_pos ⟨hzp, h64⟩]
  · rw [boatR_of_boats (boats_of_book hbook), boatR_launching hx]
  · rw [queue_of_book hbook, queue_launching]
  · have hberth : (s.grant q).berthS b = (s.launching q).berthS b := by
      rw [hgrant, berthS_hand]
      rfl
    rw [hberth, berthS_launching hb hst]
    exact ⟨rfl, rfl, rfl⟩

/-- A launch that is aborted at once leaves its boat WAITING, its path free and its berth as latch and lock say (R72, R73, R85, R87). -/
theorem grant_aborting (h : s.inhibited k = true ∨ ∀ y, s.authE l.booster = some y → s.nodeActive y.node = false) :
    ((s.grant q).seqS k).state = .idle ∧ (∀ z ∈ q.path, ((s.grant q).zst z).reserved = none) ∧
    (∃ y, (s.grant q).boatR q.boat = some y ∧ y.state = .waiting ∧ y.path = []) ∧
    s.noticed (s.grant q) (.launchAborted k q.boat (if s.inhibited k then .inhibited else .nodeLost)) ∧
    ∀ b f, l.zone = q.origin → s.berthOfZone q.origin = some (b, f) → (s.berthS b).state = .requested → f.lock ≠ l.booster →
      s.occupant f.zone = some q.boat → (s.berthS b).presence = true →
      ((s.grant q).berthS b).state = (if (s.berthS b).latch = true ∧ s.lockConfirmed f = true then .secured else .occupied) ∧
      ((s.berthS b).latch = true → s.lockConfirmed f = true → ((s.grant q).berthS b).lamp = .blink) := by
  have hgrant := grant_aborts hz he hs hl hx h
  have hx' : ((s.launching q).putSeq k (Seq.charged q.boat (x.band.map (·.2)))).boatR q.boat =
      some { x with path := q.path, state := .granted } := boatR_launching hx
  rw [hgrant]
  refine ⟨?_, fun z hzp => ?_, ⟨_, (boatR_of_boats (boats_of_book (book_notice _ _)) _).trans (boatR_abortedTo hx' rfl), rfl, rfl⟩,
    noticed_of_sent fun hm => sent_notice (steady_abortedTo ((Steady.refl s).ofOuter (outer_launching s q))) hm,
    fun b f hlz hb hst hne ho hp => ?_⟩
  · have hseqs : ∀ u : State, ∀ m, (u.notice m).seqS k = u.seqS k := fun u m => by unfold State.seqS; rw [seqs_notice]
    rw [hseqs, seqS_abortedTo (launchE_range hl)]
    rfl
  · rw [zst_notice]
    exact reserved_abortedTo hx' rfl hzp
  · have hberth : ((s.launching q).putSeq k (Seq.charged q.boat (x.band.map (·.2)))).berthS b =
        { s.berthS b with state := .released, lamp := .on, lock := .lock } := berthS_launching hb hst
    have hconf : ((s.launching q).putSeq k (Seq.charged q.boat (x.band.map (·.2)))).lockConfirmed f = s.lockConfirmed f :=
      lockConfirmed_of_act (actS_of_orders (orders_launching s q) _)
    have hend := berthS_abortedTo (s := (s.launching q).putSeq k (Seq.charged q.boat (x.band.map (·.2)))) (k := k) (b := q.boat) (l := l)
      (c := b) (f := f) (by rw [hlz]; exact (berthOfZone_of_tab (tab_launching s q) _).trans hb) (by rw [hberth]) hne
      (by
        rw [show ((s.launching q).putSeq k (Seq.charged q.boat (x.band.map (·.2)))).occupant f.zone = s.occupant f.zone from
          occupant_of_view (holdView_launching s q) _, ho]
        rfl) (by rw [hberth]; exact hp)
    rw [hberth, hconf] at hend
    rw [berthS_of_bench (bench_notice _ _)]
    exact hend

end

section
variable {s : State} {t k start : Nat} {l : LaunchEntry} {q : QEntry} {e : ZoneEntry} {x : Boat} (hq : s.quiet) (hm : s.mode = .run)
  (hl : s.launchE k = some l) (hst : (s.seqS k).state = .cooldown) (hc : (s.seqS k).cooldown = some start)
  (hd : start + l.cooldown ≤ max s.now t) (hqueue : s.queue = [q]) (hfree : ∀ z ∈ q.path, s.zoneFree z = true)
  (hz : s.zoneE q.origin = some e) (hx : s.boatR q.boat = some x)
include hq hm hl hst hc hd hqueue hfree hz hx

/-- The end of a cooldown opens the gate of the entry that waits (R45, R48, R91). -/
theorem completes_cooldown_gate (he : e.kind = .berth ∨ e.kind = .queue ∨ e.kind = .brakeRun) :
    Completes (.cooldownExpiry t k) s fun u => u.seqS k = .idle ∧ u.queue = [] ∧
      (∀ z ∈ q.path, z < 64 → (u.zst z).reserved = some q.boat) ∧ u.release q.boat = some ⟨q, .gate⟩ ∧
      u.boatR q.boat = some { x with path := q.path, state := .granted } := by
  have hz' : (s.cooled t k).zoneE q.origin = some e := hz
  have hk := not_launch_of_gate he
  refine cooldownExpiry_grants hq hm hl hst hc hd hqueue hfree ((launchReady_iff _ _).mpr fun f _ hf hfk => ?_) fun f => ?_
  · cases hz'.symm.trans hf
    exact (hk hfk).elim
  · obtain ⟨hbook, hzs, hseqs⟩ := ended_leaves ((s.cooled t k).grant q) f
    obtain ⟨-, hqueue', -, -, -, hseqs'⟩ := grant_leaves hz' hk
    refine ⟨?_, ?_, fun z hzp h64 => ?_, ?_, ?_⟩
    · unfold State.seqS
      rw [hseqs, hseqs', seqs_of_orders (orders_told _ _)]
      exact seqS_put_state (s := s.at_ t) (launchE_range hl)
    · rw [queue_of_book hbook, hqueue', queue_told, show (s.cooled t k).queue = [q] from hqueue]
      simp
    · have hzst := zst_grant hz' hk z
      unfold State.zst at hzst ⊢
      rw [hzs, hzst, if_pos ⟨hzp, h64⟩]
    · rw [release_of_rel (rel_of_book hbook)]
      exact release_grant_gate hz' he hx
    · rw [boatR_of_boats (boats_of_book hbook)]
      exact boatR_grant hz' hk hx

/-- The end of a cooldown begins the next launch of the section (R45, R85, R91). -/
theorem completes_cooldown_launch {m i : Nat} {y : AuthEntry} {n : NodeEntry} (he : e.kind = .launch) (hs : e.sec = some k)
    (hband : x.band = some (m, i)) (hi : s.inhibited k = false) (hy : s.authE l.booster = some y) (ha : s.nodeActive y.node = true)
    (hn : s.nodeE y.node = some n) :
    Completes (.cooldownExpiry t k) s fun u => u.queue = [] ∧ u.release q.boat = some ⟨q, .launch⟩ ∧
      u.seqS k = ⟨.charging, some q.boat, some i, some (min (s.bandTarget k i) n.limit1), none, some (max s.now t), none, none⟩ := by
  have hz' : (s.cooled t k).zoneE q.origin = some e := hz
  have hidle : (s.cooled t k).seqS k = .idle := seqS_put_state (s := s.at_ t) (launchE_range hl)
  refine cooldownExpiry_grants hq hm hl hst hc hd hqueue hfree ((launchReady_iff _ _).mpr fun f j hf _ hj => ?_) fun f => ?_
  · cases hz'.symm.trans hf
    cases hs.symm.trans hj
    rw [hidle]
    rfl
  · obtain ⟨hbook, -, hseqs⟩ := ended_leaves ((s.cooled t k).grant q) f
    have hgrant := grant_charges (s := s.cooled t k) hz' he hs hl hx hband hi hy ha hn
    have hseq := seqS_grant_charges (s := s.cooled t k) hz' he hs hl hx hband hi hy ha hn
    have hbook' : ((s.cooled t k).grant q).book = ((s.cooled t k).launching q).book := by rw [hgrant]; exact book_hand _ _ _
    refine ⟨?_, ?_, ?_⟩
    · rw [queue_of_book hbook, queue_of_book hbook', queue_launching, show (s.cooled t k).queue = [q] from hqueue]
      simp
    · rw [release_of_rel (rel_of_book hbook), release_of_rel (rel_of_book hbook')]
      exact release_launching (boatR_range s hx)
    · unfold State.seqS at hseq ⊢
      rw [hseqs, hseq]
      rfl

end

/-- Settles O5: a grant is its path taken, its berth told and its release begun; the scan that ends an event makes it. -/
theorem grantRule : Obligations.GrantRule := by
  refine ⟨fun q s => ?_, fun s hm => scan_idle hm, fun before q rest s hq hb hg => scan_first hq hb hg,
    fun q e x s hz he hx => ?_, fun q e x s hz he hx => ⟨release_grant_gate hz he hx, fun a y hg hy hk => actS_grant_gate hz he hg hy hk⟩,
    fun q e x a y s hz he ha hx hy hk => grant_throws hz he ha hx hy hk,
    fun q e k l x m i y n s hz he hs hl hx hband hi hy hk ha hn hr => grant_charging hz he hs hl hx hband hi hy hk ha hn hr,
    fun q e k l x s hz he hs hl hx h => grant_aborting hz he hs hl hx h,
    fun t k l start q e x s hq hm hl hst hc hd hqueue hfree hz he hx =>
      completes_cooldown_gate hq hm hl hst hc hd hqueue hfree hz hx he,
    fun t k l start q e x m i y n s hq hm hl hst hc hd hqueue hfree hz he hs hx hband hi hy ha hn =>
      completes_cooldown_launch hq hm hl hst hc hd hqueue hfree hz hx he hs hband hi hy ha hn⟩
  · rw [grantable_iff, launchReady_iff]
    simp only [zoneFree_iff]
  · obtain ⟨-, hqueue, -, houter, -⟩ := grant_leaves hz he
    have ho := houter.trans (outer_told s q)
    refine ⟨zst_grant hz he, hqueue.trans queue_told, boatR_grant hz he hx, congrArg Outer.notices ho, congrArg Outer.up ho,
      fun b f hb hst => ?_⟩
    rw [berthS_grant hz he hb hst]
    exact ⟨rfl, rfl, rfl⟩

end Sys2Proof.Machine
end

section
/-! A press of a berth's button (R68 to R70): the request it makes, in HOLD, in RUN and where none is taken, and the presses that wait or
are discarded: settles O38. -/

namespace Sys2Proof.Machine

/-! ### The press's pulse, where nothing is charging (R64, R151) -/

/-- What a pulse leaves alone besides the bench and the book. -/
structure Spot where
  reqSeq : Nat
  inputs : Vector (BitVec 4) 48
  pulsed : List Nat

def State.spot (s : State) : Spot := ⟨s.reqSeq, s.inputs, s.ev.pulsed⟩

theorem spot_placeHeld (s : State) : s.placeHeld.spot = s.spot := by
  unfold State.placeHeld
  split
  · rfl
  · split <;> rfl

theorem spot_buildNotice (s : State) : s.buildNotice.spot = s.spot := by
  unfold State.buildNotice
  split <;> rfl

theorem spot_startUp (s : State) : s.startUp.spot = s.spot := rfl

theorem spot_fillUp (s : State) : s.fillUp.spot = s.spot := by
  unfold State.fillUp
  rw [spot_buildNotice, spot_buildNotice, spot_placeHeld]

theorem spot_pumpUp (s : State) : s.pumpUp.spot = s.spot := by
  unfold State.pumpUp
  rw [spot_fillUp, spot_startUp, spot_fillUp, spot_startUp]

theorem spot_notice (s : State) (n : Notice) : (s.notice n).spot = s.spot := by
  unfold State.notice
  split
  · rfl
  · split
    · rw [spot_pumpUp]
      rfl
    · rfl

/-- Between `s` and `t` a pulse has been delivered that aborts no charge (R153 to R157). -/
structure State.Pulsed (s t : State) : Prop where
  bench : t.bench = s.bench
  book : t.book = s.book
  reqSeq : t.reqSeq = s.reqSeq
  inputs : t.inputs = s.inputs
  occupant : ∀ z, t.occupant z = s.occupant z
  pulsed : ∀ c ∈ s.ev.pulsed, c ∈ t.ev.pulsed

namespace State.Pulsed

variable {s t : State} (h : s.Pulsed t)
include h

theorem notice (n : Notice) : s.Pulsed (t.notice n) where
  bench := (bench_notice t n).trans h.bench
  book := (book_notice t n).trans h.book
  reqSeq := (congrArg Spot.reqSeq (spot_notice t n)).trans h.reqSeq
  inputs := (congrArg Spot.inputs (spot_notice t n)).trans h.inputs
  occupant z := by
    rw [← h.occupant z]
    unfold State.occupant
    rw [zst_notice]
  pulsed c hc := by
    rw [show (t.notice n).ev.pulsed = t.ev.pulsed from congrArg Spot.pulsed (spot_notice t n)]
    exact h.pulsed c hc

theorem setLatch (z : Nat) : s.Pulsed (t.setLatch z) := by
  unfold State.setLatch
  split
  · exact h
  · refine ⟨h.bench, h.book, h.reqSeq, h.inputs, fun w => ?_, h.pulsed⟩
    rw [← h.occupant w]
    unfold State.occupant
    rw [zst_modZs]
    split
    · next hc => rw [hc.1]
    · rfl

theorem startPulse (u : Nat) : s.Pulsed (t.startPulse u) := ⟨h.bench, h.book, h.reqSeq, h.inputs, h.occupant, h.pulsed⟩

theorem arrive (u c : Nat) (a : Arrival) (src : Source) : s.Pulsed (t.arrive u c a src) := by
  unfold State.arrive
  dsimp only
  split
  · exact h
  · split
    · split
      · exact h
      · exact h.startPulse u
    · split
      · split
        · exact h
        · exact h.setLatch _
      · split
        · split
          · exact (h.notice _).notice _
          · exact h.notice _
        · exact h

theorem deliverPulse (c : Nat) (src : Source) : s.Pulsed (t.deliverPulse c src) := by
  have h0 : s.Pulsed (t.modEv fun e => { e with pulsed := c :: e.pulsed }) :=
    ⟨h.bench, h.book, h.reqSeq, h.inputs, h.occupant, fun d hd => List.mem_cons_of_mem _ (h.pulsed d hd)⟩
  refine foldl_keeps (P := s.Pulsed) (fun v u hv => ?_) _ h0
  split
  · exact hv.arrive u c _ src
  · exact hv

end State.Pulsed

/-- With no charge in progress no pulse aborts one (R93). -/
theorem inhibitPulse_idle {s : State} (hc : ∀ k, k < 2 → (s.seqS k).state ≠ .charging) (c : Nat) : s.inhibitPulse c = s := by
  have hall : ∀ k, (s.seqS k).state ≠ .charging := fun k => by
    by_cases hk : k < 2
    · exact hc k hk
    · unfold State.seqS
      rw [Vector.getElem?_eq_none (by omega)]
      exact SeqState.noConfusion
  unfold State.inhibitPulse
  refine foldl_keeps (P := (· = s)) (fun t u ht => ?_) _ rfl
  rw [ht]
  split
  · exact if_neg (hall _)
  · rfl

theorem pulsed_pulse {s : State} (hc : ∀ k, k < 2 → (s.seqS k).state ≠ .charging) (g : Gen) : s.Pulsed (s.pulse g) := by
  unfold State.pulse
  refine foldl_keeps (P := s.Pulsed) (fun t c ht => ?_) _ ⟨rfl, rfl, rfl, rfl, fun _ => rfl, fun _ h => h⟩
  split
  · have hd := ht.deliverPulse c .generated
    unfold State.pulseChan
    rw [inhibitPulse_idle (idle_of_orders (orders_of_bench hd.bench) hc)]
    exact hd
  · exact ht

/-- A generator that no channel selects pulses nothing (R151). -/
theorem pulse_unheard {s : State} {g : Gen} (h : ∀ c, s.chanE c ≠ some g) : s.pulse g = s := by
  unfold State.pulse
  refine foldl_keeps (P := (· = s)) (fun t c ht => ?_) _ rfl
  rw [ht, if_neg (h c)]

/-! ### A press that is taken (R68 to R70) -/

theorem takeBerth_press {s : State} {src b : Nat} {e : BerthEntry} (h : s.berthOfSource src = some (b, e)) :
    s.takeBerth src (s.berthS b).presence (s.berthS b).latch true = (s.touch b).pressEdge b e := by
  unfold State.takeBerth
  rw [h]
  dsimp only
  rw [if_pos rfl, if_pos rfl]
  exact congrArg (fun t : State => t.pressEdge b e) (if_pos rfl)

section
variable {s : State} {b n : Nat} {e : BerthEntry} {x : Boat}

theorem pressEdge_taken (hst : (s.berthS b).state = .secured) (hc : (s.pulse (.berthButton b)).lockConfirmed e = true) :
    s.pressEdge b e = (s.pulse (.berthButton b)).takePress b e := by
  unfold State.pressEdge
  dsimp only
  rw [hst]
  exact if_pos hc

theorem takePress_request (ho : s.occupant e.zone = some n) (hr : e.role ≠ .pad) : s.takePress b e = s.pressRequest b n := by
  unfold State.takePress
  rw [ho]
  exact if_neg hr

theorem takePress_pad (ho : s.occupant e.zone = some n) (hr : e.role = .pad) : s.takePress b e = s.padPress b n e := by
  unfold State.takePress
  rw [ho]
  exact if_pos hr

theorem padPress_error {k : Nat} {reason : RefuseReason} (hk : s.sectionOfZone e.zone = some k) (hl : (s.launchE k).isSome = true)
    (hx : s.boatR n = some x) (hp : s.preCheck k x = .error reason) :
    s.padPress b n e = (s.notice (.launchRefused k n reason)).berthBlink b := by
  unfold State.padPress
  rw [hk, hx]
  dsimp only
  rw [if_neg (by rw [Option.isNone_eq_false_iff.mpr hl]; decide), hp]

theorem padPress_ok {k i : Nat} (hk : s.sectionOfZone e.zone = some k) (hl : (s.launchE k).isSome = true)
    (hx : s.boatR n = some x) (hp : s.preCheck k x = .ok i) :
    s.padPress b n e = (s.modBoat n fun x => { x with band := some (k, i) }).pressRequest b n := by
  unfold State.padPress
  rw [hk, hx]
  dsimp only
  rw [if_neg (by rw [Option.isNone_eq_false_iff.mpr hl]; decide), hp]

theorem pressRequest_walk_error {reason : PathReason} (hx : s.boatR n = some x) (hm : s.mode = .run ∨ s.mode = .hold)
    (hst : x.state = .waiting) (hz : s.stoppable x.zone = true) (hw : s.walk x.zone x.route = .error reason) :
    s.pressRequest b n = (s.notice (.path n x.zone reason)).berthBlink b := by
  unfold State.pressRequest
  rw [request_walk_error hx hm hst hz hw]
  rfl

theorem pressRequest_walk_ok {path : List Nat} (hx : s.boatR n = some x) (hm : s.mode = .run ∨ s.mode = .hold)
    (hst : x.state = .waiting) (hz : s.stoppable x.zone = true) (hw : s.walk x.zone x.route = .ok path) :
    s.pressRequest b n = (s.enqueue n x.zone path).setBerth b fun q => { q with state := .requested, lamp := .blink } := by
  unfold State.pressRequest
  rw [request_walk_ok hx hm hst hz hw]
  rfl

theorem zs_enqueue (s : State) (n o : Nat) (p : List Nat) : (s.enqueue n o p).zs = s.zs := by
  unfold State.enqueue State.scanWanted State.setBoatState
  show (State.modBoat _ n _).zs = s.zs
  rw [modBoat_zs]

theorem boatR_pressRequest {path : List Nat} (hx : s.boatR n = some x) (hm : s.mode = .run ∨ s.mode = .hold)
    (hst : x.state = .waiting) (hz : s.stoppable x.zone = true) (hw : s.walk x.zone x.route = .ok path) :
    (s.pressRequest b n).boatR n = some { x with state := .requested } := by
  obtain ⟨-, hboat, -⟩ := enqueue_effect hx x.zone path
  rw [pressRequest_walk_ok hx hm hst hz hw, boatR_of_boats (setBerth_boats _ _ _), hboat]

/-- Where requests are not taken a press is answered by the lamp (R42, R69). -/
theorem takePress_refused (hm : s.mode = .config ∨ s.mode = .checking ∨ s.mode = .stop) :
    ∃ v : State, s.takePress b e = v.berthBlink b ∧ v.queue = s.queue ∧ v.berths = s.berths := by
  have hpress : ∀ t : State, t.mc = s.mc → ∀ m, t.pressRequest b m = t.berthBlink b := fun t ht m => by
    have hmode : t.mode = .config ∨ t.mode = .checking ∨ t.mode = .stop := by
      unfold State.mode at *
      rw [ht]
      exact hm
    unfold State.pressRequest
    rw [request_refused (.inr hmode)]
    rfl
  unfold State.takePress
  split
  · exact ⟨s, rfl, rfl, rfl⟩
  · next m _ =>
    split
    · unfold State.padPress
      split
      · split
        · exact ⟨s, rfl, rfl, rfl⟩
        · split
          · exact ⟨_, rfl, queue_of_book (book_notice _ _), berths_of_bench (bench_notice _ _)⟩
          · exact ⟨_, hpress _ (modBoat_mc _ _ _) m, modBoat_queue _ _ _, modBoat_berths _ _ _⟩
      · exact ⟨s, rfl, rfl, rfl⟩
    · exact ⟨s, hpress s rfl m, rfl, rfl⟩

theorem berthS_berthBlink (hb : b < 6) : (s.berthBlink b).berthS b = { s.berthS b with lamp := .blink } := by
  unfold State.berthBlink
  rw [berthS_setBerth, if_pos ⟨rfl, hb⟩]

end

/-- Outside RUN with nothing charging, the end of an event keeps queue and boats, and of a berth all but its completed flags. -/
theorem press_settles {w s0 : State} (hm : w.mode ≠ .run) (hc : ∀ k, k < 2 → (w.seqS k).state ≠ .charging) {R : BerthStatus → Prop} {b : Nat}
    (hlamp : ∀ p, R p → R { p with lampDone := false }) (hlock : ∀ p, R p → R { p with lockDone := false }) (h : R (w.berthS b)) :
    (State.event (fun _ => w) s0).book = w.book ∧ R ((State.event (fun _ => w) s0).berthS b) := by
  obtain ⟨d, hd, hend⟩ := event_settles (f := fun _ => w) (s := s0) hm hc
  refine ⟨(base_book w.book).event (fun _ h => h) (fun h => h) (f := fun _ => w) (s := s0) hm hc rfl, ?_⟩
  rw [hend, berthS_ended]
  exact settleBerths_status hlamp hlock (by rw [berthS_of_bench hd]; exact h)

/-! ### The moment of the press -/

/-- The state in which a press is treated: the record is taken and its pulse delivered (R64). -/
def State.pressAt (s : State) (t b : Nat) : State := ((s.at_ t).touch b).pulse (.berthButton b)

theorem nodes_of_bench {s u : State} (h : u.bench = s.bench) : u.nodes = s.nodes := congrArg Bench.nodes h

/-- What a press finds as it was before its record. -/
structure State.AtPress (s p : State) : Prop where
  orders : p.orders = s.orders
  berths : p.berths = s.berths
  nodes : p.nodes = s.nodes
  book : p.book = s.book
  reqSeq : p.reqSeq = s.reqSeq
  inputs : p.inputs = s.inputs
  occupant : ∀ z, p.occupant z = s.occupant z
  pulsed : ∀ c ∈ s.ev.pulsed, c ∈ p.ev.pulsed

theorem atPress_taken (s : State) (t b : Nat) : s.AtPress ((s.at_ t).touch b) :=
  ⟨rfl, rfl, rfl, rfl, rfl, rfl, fun _ => rfl, fun _ h => h⟩

theorem State.AtPress.pulse {s p : State} (h : s.AtPress p) (hc : ∀ k, k < 2 → (p.seqS k).state ≠ .charging) (g : Gen) :
    s.AtPress (p.pulse g) := by
  have hp := pulsed_pulse hc g
  exact ⟨(orders_of_bench hp.bench).trans h.orders, (berths_of_bench hp.bench).trans h.berths, (nodes_of_bench hp.bench).trans h.nodes,
    hp.book.trans h.book, hp.reqSeq.trans h.reqSeq, hp.inputs.trans h.inputs, fun z => (hp.occupant z).trans (h.occupant z),
    fun c hc => hp.pulsed c (h.pulsed c hc)⟩

theorem atPress_pressAt {s : State} (hc : ∀ k, k < 2 → (s.seqS k).state ≠ .charging) (t b : Nat) : s.AtPress (s.pressAt t b) :=
  (atPress_taken s t b).pulse hc _

namespace State.AtPress

variable {s p : State} (h : s.AtPress p)
include h

theorem tab : p.tab = s.tab := tab_of_orders h.orders
theorem mode : p.mode = s.mode := mode_of_orders h.orders
theorem boatR (n : Nat) : p.boatR n = s.boatR n := boatR_of_boats (boats_of_book h.book) n
theorem queue : p.queue = s.queue := queue_of_book h.book
theorem berthS (b : Nat) : p.berthS b = s.berthS b := by unfold State.berthS; rw [h.berths]
theorem lockConfirmed (e : BerthEntry) : p.lockConfirmed e = s.lockConfirmed e := lockConfirmed_of_act (actS_of_orders h.orders _)
theorem sectionOfZone (z : Nat) : p.sectionOfZone z = s.sectionOfZone z := by
  unfold State.sectionOfZone State.zoneE
  rw [h.tab]
theorem nodeActive (n : Nat) : p.nodeActive n = s.nodeActive n := by
  unfold State.nodeActive State.nodeS
  rw [h.nodes]

/-- An inhibit that stands is not lifted by a pulse (R157). -/
theorem inhibited {k : Nat} (hk : s.inhibited k = true) : p.inhibited k = true := by
  have hlevel : ∀ g, p.genLevel g = s.genLevel g := genLevel_congr (mc_of_orders h.orders) h.inputs
    (fun n => by unfold State.nodeS; rw [h.nodes]) h.occupant
  have huser : ∀ u, p.userE u = s.userE u := fun u => by unfold State.userE; rw [h.tab]
  have hchan : ∀ c, p.chanE c = s.chanE c := fun c => by unfold State.chanE; rw [h.tab]
  unfold State.inhibited at *
  obtain ⟨u, hu, hp⟩ := List.any_eq_true.mp hk
  obtain ⟨hparam, hon⟩ := Bool.and_eq_true_iff.mp hp
  refine List.any_eq_true.mpr ⟨u, hu, Bool.and_eq_true_iff.mpr ⟨by rw [huser]; exact hparam, Bool.or_eq_true_iff.mpr ?_⟩⟩
  unfold State.userLevel State.userPulsed State.chanLevel at *
  simp only [huser, hchan, hlevel]
  refine (Bool.or_eq_true_iff.mp hon).imp id fun hpulsed => ?_
  split
  · next h0 => rw [h0] at hpulsed; exact hpulsed
  · next c h1 =>
    rw [h1] at hpulsed
    exact List.contains_iff_mem.mpr (h.pulsed c (List.contains_iff_mem.mp hpulsed))

theorem predictBand (k i w : Nat) : p.predictBand k i w = s.predictBand k i w := by
  have hstage : ∀ r j, p.stageOf r j = s.stageOf r j := fun r j => by unfold State.stageOf State.stageE; rw [h.tab]
  have hav : ∀ x, p.available x = s.available x := fun x => by
    unfold State.available State.actNode State.authE
    rw [h.tab]
    simp only [h.nodeActive]
  unfold State.predictBand State.predict State.capacity State.launchE State.band State.bandE State.runE
  simp only [h.tab, hstage, hav]

/-- A pre-check that fails still fails, for the same reason (R83). -/
theorem preCheck_error {k : Nat} {x : Boat} {reason : RefuseReason} (hp : s.preCheck k x = .error reason) : p.preCheck k x = .error reason := by
  have hclass : p.clsE x.cls = s.clsE x.cls := by unfold State.clsE; rw [h.tab]
  have hband : ∀ w, p.bandFor k w = s.bandFor k w := fun w => by unfold State.bandFor State.band State.bandE; rw [h.tab]
  unfold State.preCheck at *
  simp only [hclass, hband, h.predictBand]
  split
  · next hw => rw [hw] at hp; exact hp
  · next w hw =>
    rw [hw] at hp
    dsimp only at hp
    split
    · next hi => rw [if_pos hi] at hp; exact hp
    · next hi =>
      rw [if_neg hi] at hp
      split
      · next hb => rw [hb] at hp; exact hp
      · next i hb =>
        rw [hb] at hp
        dsimp only at hp
        split
        · next hpr => rw [if_pos hpr] at hp; exact hp
        · next hpr =>
          rw [if_neg hpr] at hp
          split at hp
          · next hin => rw [if_pos (h.inhibited hin)]; exact hp
          · cases hp

end State.AtPress

section
variable {s : State} {t src b n : Nat} {e : BerthEntry} {x : Boat} (hb : s.berthOfSource src = some (b, e))
include hb

/-- A press that is taken has the effect of `takePress` (R68). -/
theorem completes_press (hst : (s.berthS b).state = .secured) (hconf : (s.pressAt t b).lockConfirmed e = true) {Q : State → Prop}
    (hQ : Q (State.event (fun _ => (s.pressAt t b).takePress b e) (s.at_ t))) :
    Completes (.berth t src (s.berthS b).presence (s.berthS b).latch true) s Q :=
  completes_command rfl _ ((takeBerth_press (s := s.at_ t) hb).trans (pressEdge_taken (s := (s.at_ t).touch b) hst hconf)) hQ

end

section
variable {s : State} {t src b n : Nat} {e : BerthEntry} {x : Boat} (hb : s.berthOfSource src = some (b, e))
  (hst : (s.berthS b).state = .secured) (hconf : s.lockConfirmed e = true) (hc : ∀ k, k < 2 → (s.seqS k).state ≠ .charging)
include hb hst hconf hc

/-- Outside RUN with nothing charging, what a press that is taken leaves of queue, boats and its berth (R68, R69). -/
theorem completes_press_outside {w : State} (hm : s.mode ≠ .run) (hw : (s.pressAt t b).takePress b e = w) {Q : State → Prop}
    (hQ : ∀ u : State, u = State.event (fun _ => w) (s.at_ t) → u.book = w.book → (u.berthS b).state = (w.berthS b).state →
      (u.berthS b).lamp = (w.berthS b).lamp → Q u) : Completes (.berth t src (s.berthS b).presence (s.berthS b).latch true) s Q := by
  have h := atPress_pressAt hc t b
  have ho : w.orders = s.orders := by rw [← hw]; exact (orders_takePress _ b e).trans h.orders
  obtain ⟨hbook, hstate, hlamp⟩ := press_settles (w := w) (s0 := s.at_ t) (b := b) (by rw [mode_of_orders ho]; exact hm) (idle_of_orders ho hc)
    (R := fun p => p.state = (w.berthS b).state ∧ p.lamp = (w.berthS b).lamp) (fun _ hp => hp) (fun _ hp => hp) ⟨rfl, rfl⟩
  refine completes_press hb hst ((h.lockConfirmed e).trans hconf) ?_
  rw [hw]
  exact hQ _ rfl hbook hstate hlamp

/-- A press in HOLD whose request is accepted (R41, R43, R69). -/
theorem completes_press_accepted {path : List Nat} (hm : s.mode = .hold) (hr : e.role ≠ .pad) (ho : s.occupant e.zone = some n)
    (hx : s.boatR n = some x) (hxst : x.state = .waiting) (hz : s.stoppable x.zone = true) (hw : s.walk x.zone x.route = .ok path) :
    Completes (.berth t src (s.berthS b).presence (s.berthS b).latch true) s fun u =>
      u.queue = s.queue ++ [⟨n, x.zone, path, s.reqSeq⟩] ∧ (u.berthS b).state = .requested ∧
      (u.berthS b).lamp = .blink ∧ ∃ y, u.boatR n = some y ∧ y.state = .requested := by
  have h := atPress_pressAt hc t b
  have hb6 := berthE_range (berthOfSource_defined hb)
  have hx' := (h.boatR n).trans hx
  have hm' : (s.pressAt t b).mode = .run ∨ (s.pressAt t b).mode = .hold := .inr (h.mode.trans hm)
  have hz' := (stoppable_of_tab h.tab _).trans hz
  have hw' := (walk_of_tab h.tab _ _).trans hw
  obtain ⟨hberth, hqueue⟩ := pressRequest_accepted hb6 hx' hm' hxst hz' hw'
  refine completes_press_outside hb hst hconf hc (by rw [hm]; decide) (takePress_request ((h.occupant _).trans ho) hr)
    fun u _ hbook hstate hlamp => ⟨?_, ?_, ?_, { x with state := .requested }, ?_, rfl⟩
  · rw [queue_of_book hbook, hqueue, h.queue, h.reqSeq]
  · rw [hstate, hberth]
  · rw [hlamp, hberth]
  · exact (boatR_of_boats (boats_of_book hbook) n).trans (boatR_pressRequest hx' hm' hxst hz' hw')

/-- A press in HOLD that is answered by a notice and the lamp (R42, R69, R70). -/
theorem completes_press_noticed {m : Notice} (hm : s.mode = .hold)
    (hw : (s.pressAt t b).takePress b e = ((s.pressAt t b).notice m).berthBlink b) :
    Completes (.berth t src (s.berthS b).presence (s.berthS b).latch true) s fun u =>
      u.queue = s.queue ∧ (u.berthS b).state = .secured ∧ (u.berthS b).lamp = .blink ∧ s.noticed u m := by
  have h := atPress_pressAt hc t b
  have hb6 := berthE_range (berthOfSource_defined hb)
  have hberth : ((s.pressAt t b).notice m).berthS b = s.berthS b := (berthS_of_bench (bench_notice _ m) b).trans (h.berthS b)
  refine completes_press_outside hb hst hconf hc (by rw [hm]; decide) hw
    fun u hu hbook hstate hlamp => ⟨?_, ?_, ?_, noticed_of_sent fun hmask => ?_⟩
  · exact (queue_of_book hbook).trans ((queue_of_book (book_notice _ m)).trans h.queue)
  · rw [hstate, berthS_berthBlink hb6, hberth]
    exact hst
  · rw [hlamp, berthS_berthBlink hb6]
  · have hsteady : Steady s (s.pressAt t b) := (steady_calm s).toModal.pulse _ ((steady_at s t).congr rfl rfl rfl)
    rw [hu]
    exact (sent_calm s m).toMild.event ((sent_calm s m).toModal.setBerth b _ (sent_notice hsteady hmask))

/-- A press at a PAD in HOLD whose pre-checks pass: its band is recorded with the request (R70, R83). -/
theorem completes_press_pad {k i : Nat} {path : List Nat} (hm : s.mode = .hold) (hr : e.role = .pad) (ho : s.occupant e.zone = some n)
    (hx : s.boatR n = some x) (hk : s.sectionOfZone e.zone = some k) (hl : (s.launchE k).isSome = true) (hp : s.preCheck k x = .ok i)
    (hno : ∀ c, s.chanE c ≠ some (.berthButton b)) (hxst : x.state = .waiting) (hz : s.stoppable x.zone = true)
    (hw : s.walk x.zone x.route = .ok path) :
    Completes (.berth t src (s.berthS b).presence (s.berthS b).latch true) s fun u =>
      u.queue = s.queue ++ [⟨n, x.zone, path, s.reqSeq⟩] ∧ (u.berthS b).state = .requested ∧ (u.berthS b).lamp = .blink ∧
      u.boatR n = some { x with state := .requested, band := some (k, i) } := by
  have hat : s.pressAt t b = (s.at_ t).touch b := pulse_unheard hno
  have hb6 := berthE_range (berthOfSource_defined hb)
  have hboat : ((s.pressAt t b).modBoat n fun x => { x with band := some (k, i) }).boatR n = some { x with band := some (k, i) } := by
    rw [boatR_modBoat, if_pos rfl, hat, show ((s.at_ t).touch b).boatR n = some x from hx]
    rfl
  have htab : ((s.pressAt t b).modBoat n fun x => { x with band := some (k, i) }).tab = s.tab := by
    rw [modBoat_tab, hat]
    rfl
  have hm' : ((s.pressAt t b).modBoat n fun x => { x with band := some (k, i) }).mode = .hold := by
    unfold State.mode
    rw [modBoat_mc, hat]
    exact hm
  have hpress : (s.pressAt t b).takePress b e = ((s.pressAt t b).modBoat n fun x => { x with band := some (k, i) }).pressRequest b n := by
    rw [hat, takePress_pad (show ((s.at_ t).touch b).occupant e.zone = some n from ho) hr]
    exact padPress_ok (s := (s.at_ t).touch b) hk hl hx hp
  have hz' := (stoppable_of_tab htab x.zone).trans hz
  have hw' := (walk_of_tab htab x.zone x.route).trans hw
  obtain ⟨hberth, hqueue⟩ := pressRequest_accepted (b := b) hb6 hboat (.inr hm') hxst hz' hw'
  refine completes_press_outside hb hst hconf hc (by rw [hm]; decide) hpress fun u _ hbook hstate hlamp => ⟨?_, ?_, ?_, ?_⟩
  · rw [queue_of_book hbook, hqueue, modBoat_queue, modBoat_reqSeq, hat]
    rfl
  · rw [hstate, hberth]
  · rw [hlamp, hberth]
  · exact (boatR_of_boats (boats_of_book hbook) n).trans (boatR_pressRequest hboat (.inr hm') hxst hz' hw')

/-- A press where no requests are taken (R42, R69). -/
theorem completes_press_refused (hm : s.mode = .config ∨ s.mode = .checking ∨ s.mode = .stop) :
    Completes (.berth t src (s.berthS b).presence (s.berthS b).latch true) s fun u =>
      u.queue = s.queue ∧ (u.berthS b).state = .secured ∧ (u.berthS b).lamp = .blink := by
  have h := atPress_pressAt hc t b
  have hb6 := berthE_range (berthOfSource_defined hb)
  obtain ⟨v, hv, hqueue, hberths⟩ := takePress_refused (s := s.pressAt t b) (b := b) (e := e) (by rw [h.mode]; exact hm)
  refine completes_press_outside hb hst hconf hc (by rcases hm with hm | hm | hm <;> rw [hm] <;> decide) hv
    fun u _ hbook hstate hlamp => ⟨?_, ?_, ?_⟩
  · exact (queue_of_book hbook).trans (hqueue.trans h.queue)
  · have hberth : v.berthS b = s.berthS b := by
      rw [← h.berthS b]
      unfold State.berthS
      rw [hberths]
    rw [hstate, berthS_berthBlink hb6, hberth]
    exact hst
  · rw [hlamp, berthS_berthBlink hb6]

end

/-! ### A press in RUN (R45, R72) -/

/-- Settling keeps the values of actuators that are neither lamps nor locks. -/
theorem settleBerths_act {T : Tables} {a : Nat} {y : AuthEntry} {q : ActStatus} (hy : (T.auth[a]?).join = some y) (hlamp : y.kind ≠ .lamp)
    (hlock : y.kind ≠ .lock) {s : State} (h : s.tab = T ∧ s.actS a = q) : s.settleBerths.tab = T ∧ s.settleBerths.actS a = q := by
  have hno : ∀ {t : State} {v : ActValue} {d : Nat}, t.tab = T → v.kind ≠ y.kind → ¬ (a = d ∧ t.handTaken d v = true) :=
    fun {t v d} ht hv ⟨hd, htaken⟩ => by
      obtain ⟨z, hz, hk, -⟩ := (handTaken_iff t d v).mp htaken
      rw [← hd] at hz
      unfold State.authE at hz
      rw [ht, hy] at hz
      cases hz
      exact hv hk
  refine settleBerths_keeps (P := fun t => t.tab = T ∧ t.actS a = q) (fun {t b e} ht _ _ => ⟨?_, ?_⟩) (fun {t b e} ht _ _ => ⟨?_, ?_⟩) h
  · exact (tab_of_view (holdView_handLamp t b e)).trans ht.1
  · rw [actS_handLamp, if_neg (hno ht.1 (by rw [Lamp.value_kind]; exact hlamp.symm))]
    exact ht.2
  · exact (tab_of_view (holdView_handLock t b e)).trans ht.1
  · rw [actS_handLock, if_neg (hno ht.1 (by rw [LockV.value_kind]; exact hlock.symm))]
    exact ht.2

theorem actS_ended (s : State) (a : Nat) : s.driveLines.clearEv.actS a = s.actS a := rfl

/-- The only entry, of a berth, is granted by the scan that ends an event: the berth is RELEASED and its gate opens (R47, R48, R72). -/
theorem grant_berth_ended {w : State} {q : QEntry} {f : ZoneEntry} {a b : Nat} {e : BerthEntry} {y : AuthEntry} {x : Boat}
    (hz : w.zoneE q.origin = some f) (hk : f.kind = .berth) (hof : w.berthOfZone q.origin = some (b, e))
    (hst : (w.berthS b).state = .requested) (hg : f.gate = some a) (hy : w.authE a = some y) (hyk : y.kind = .gate)
    (hx : w.boatR q.boat = some x) (hqueue : w.queue = [q]) (hpath : ∀ z ∈ q.path, z < 64) (g : Ev → Ev) {u : State}
    (hu : u = ((w.grant q).modEv g).settleBerths.driveLines.clearEv) :
    u.queue = [] ∧ (u.berthS b).state = .released ∧ (u.berthS b).lamp = .on ∧ u.actS a = ⟨some .gateOpen, false⟩ ∧
      u.boatR q.boat = some { x with path := q.path, state := .granted } ∧ ∀ z ∈ q.path, (u.zst z).reserved = some q.boat := by
  have hne : f.kind ≠ .launch := by rw [hk]; decide
  have hberth := berthS_grant hz hne hof hst
  have hact := actS_grant_gate hz (.inl hk) hg hy hyk
  have hboat := boatR_grant hz hne hx
  have hzst := zst_grant hz hne
  have hrest : (w.grant q).queue = [] := by
    rw [queue_grant, hqueue]
    simp
  have htab : (w.grant q).tab = w.tab := tab_of_view (holdView_grant w q)
  generalize w.grant q = d at *
  obtain ⟨hbook, hzs, -⟩ := ended_leaves d g
  obtain ⟨hstate, hlamp⟩ := settleBerths_status (s := d.modEv g) (b := b) (R := fun p => p.state = .released ∧ p.lamp = .on)
    (fun _ hp => hp) (fun _ hp => hp) (show (d.berthS b).state = .released ∧ (d.berthS b).lamp = .on by rw [hberth]; exact ⟨rfl, rfl⟩)
  obtain ⟨-, hopen⟩ := settleBerths_act (T := w.tab) hy (by rw [hyk]; decide) (by rw [hyk]; decide) (s := d.modEv g) ⟨htab, hact⟩
  rw [hu, berthS_ended, actS_ended]
  refine ⟨(queue_of_book hbook).trans hrest, hstate, hlamp, hopen, (boatR_of_boats (boats_of_book hbook) _).trans hboat, fun z hzp => ?_⟩
  unfold State.zst at hzst ⊢
  rw [hzs, hzst, if_pos ⟨hzp, hpath z hzp⟩]

section
variable {s : State} {t src b n : Nat} {e : BerthEntry} {x : Boat} {path : List Nat} (hq : s.quiet) (hb : s.berthOfSource src = some (b, e))
  (hst : (s.berthS b).state = .secured) (hconf : s.lockConfirmed e = true) (hm : s.mode = .run) (hr : e.role ≠ .pad)
  (ho : s.occupant e.zone = some n) (hx : s.boatR n = some x) (hxst : x.state = .waiting) (hz : s.stoppable x.zone = true)
  (hw : s.walk x.zone x.route = .ok path) (hno : ∀ c, s.chanE c ≠ some (.berthButton b)) (hqueue : s.queue = [])

/-- A quiet state in RUN with the request of a press at the head of its queue, as the scan finds it. -/
structure State.Asked (s : State) (b n : Nat) (x : Boat) (path : List Nat) (v : State) : Prop where
  view : v.holdView = s.holdView
  orders : v.orders = s.orders
  zs : v.zs = s.zs
  berth : v.berthS b = { s.berthS b with state := .requested, lamp := .blink }
  queue : v.queue = [⟨n, x.zone, path, s.reqSeq⟩]
  boat : v.boatR n = some { x with state := .requested }
  due : v.ev.scanDue = true

include hq hb hst hconf hm hr ho hx hxst hz hw hno hqueue

omit hq in
/-- A press in RUN asks, and the event goes on to its scan (R45, R69). -/
theorem completes_press_run {Q : State → Prop} (hQ : ∀ v, s.Asked b n x path v → Q (State.event (fun _ => v) (s.at_ t))) :
    Completes (.berth t src (s.berthS b).presence (s.berthS b).latch true) s Q := by
  have hat : s.pressAt t b = (s.at_ t).touch b := pulse_unheard hno
  have hx' : ((s.at_ t).touch b).boatR n = some x := hx
  have hw' : ((s.at_ t).touch b).walk x.zone x.route = .ok path := (walk_of_tab (u := (s.at_ t).touch b) (s := s) rfl _ _).trans hw
  have hpress := takePress_request (s := (s.at_ t).touch b) (b := b) ho hr
  have heq := pressRequest_walk_ok (b := b) hx' (.inl hm) hxst hz hw'
  obtain ⟨hberth, hasked⟩ := pressRequest_accepted (b := b) (berthE_range (berthOfSource_defined hb)) hx' (.inl hm) hxst hz hw'
  refine completes_press hb hst (by rw [hat]; exact hconf) ?_
  rw [hat]
  refine hQ _ ⟨?_, ?_, ?_, ?_, ?_, ?_, ?_⟩
  · rw [holdView_takePress]
    rfl
  · exact orders_takePress _ b e
  · rw [hpress, heq, setBerth_zs, zs_enqueue]
    rfl
  · rw [hpress, hberth]
    rfl
  · rw [hpress, hasked, show ((s.at_ t).touch b).queue = [] from hqueue]
    rfl
  · rw [hpress]
    exact boatR_pressRequest hx' (.inl hm) hxst hz hw'
  · rw [hpress, heq]
    exact (enqueue_effect hx' x.zone path).2.2

/-- A request that is blocked waits: the berth is REQUESTED (R45, R69). -/
theorem completes_press_blocked {z : Nat} (hzp : z ∈ path) (hfree : s.zoneFree z = false) :
    Completes (.berth t src (s.berthS b).presence (s.berthS b).latch true) s fun u =>
      u.queue = [⟨n, x.zone, path, s.reqSeq⟩] ∧ (u.berthS b).state = .requested ∧ (u.berthS b).lamp = .blink ∧
      u.boatR n = some { x with state := .requested } := by
  refine completes_press_run hb hst hconf hm hr ho hx hxst hz hw hno hqueue fun v hv => ?_
  have hblocked : v.grantable ⟨n, x.zone, path, s.reqSeq⟩ = false := by
    rw [← Bool.not_eq_true, grantable_iff]
    rintro ⟨-, hall, -⟩
    have h := hall z hzp
    unfold State.zoneFree State.zst at h hfree
    rw [hv.zs, hfree] at h
    cases h
  rw [event_blocked hq hv.view (idle_of_orders hv.orders hq.2.2) hv.due hv.queue hblocked]
  obtain ⟨hbook, -⟩ := ended_leaves v fun e => { e with scanDue := false }
  obtain ⟨hstate, hlamp⟩ := settleBerths_status (s := v.modEv fun e => { e with scanDue := false }) (b := b)
    (R := fun p => p.state = .requested ∧ p.lamp = .blink) (fun _ hp => hp) (fun _ hp => hp)
    (show (v.berthS b).state = .requested ∧ (v.berthS b).lamp = .blink by rw [hv.berth]; exact ⟨rfl, rfl⟩)
  rw [berthS_ended]
  exact ⟨(queue_of_book hbook).trans hv.queue, hstate, hlamp, (boatR_of_boats (boats_of_book hbook) n).trans hv.boat⟩

omit hb hst hconf hr ho hx hxst hz hw hno hqueue hq in
/-- The entry of a press in a zone that is no launch zone can be granted where its path is free (R46). -/
theorem asked_grantable {v : State} {f : ZoneEntry} (hv : s.Asked b n x path v) (hf : s.zoneE x.zone = some f) (hk : f.kind ≠ .launch)
    (hfree : ∀ z ∈ path, s.zoneFree z = true) : v.grantable ⟨n, x.zone, path, s.reqSeq⟩ = true := by
  refine (grantable_iff _ _).mpr ⟨(mode_of_orders hv.orders).trans hm, fun z hzp => ?_, (launchReady_iff _ _).mpr fun g k hgz hgk _ => ?_⟩
  · have h := hfree z hzp
    unfold State.zoneFree State.zst at *
    rw [hv.zs]
    exact h
  · rw [zoneE_of_view hv.view, hf] at hgz
    cases hgz
    exact (hk hgk).elim

/-- A request whose path is free is granted at once: the berth is RELEASED and its gate opens (R45, R47, R48, R72). -/
theorem completes_press_granted {f : ZoneEntry} {a : Nat} {y : AuthEntry} (hxz : x.zone = e.zone) (hfree : ∀ z ∈ path, s.zoneFree z = true)
    (hf : s.zoneE e.zone = some f) (hk : f.kind = .berth) (hfb : f.berth = some b) (hg : f.gate = some a) (hy : s.authE a = some y)
    (hyk : y.kind = .gate) :
    Completes (.berth t src (s.berthS b).presence (s.berthS b).latch true) s fun u =>
      u.queue = [] ∧ (u.berthS b).state = .released ∧ (u.berthS b).lamp = .on ∧ u.actS a = ⟨some .gateOpen, false⟩ ∧
      u.boatR n = some { x with state := .granted, path := path } ∧ ∀ z ∈ path, (u.zst z).reserved = some n := by
  refine completes_press_run hb hst hconf hm hr ho hx hxst hz hw hno hqueue fun v hv => ?_
  obtain ⟨-, -, -, hdefined, -⟩ := walk_ok_path hw
  have htab := tab_of_orders hv.orders
  have hf' : s.zoneE x.zone = some f := by rw [hxz]; exact hf
  have hof : s.berthOfZone x.zone = some (b, e) := by
    unfold State.berthOfZone
    rw [hf']
    dsimp only
    rw [hfb]
    dsimp only
    rw [berthOfSource_defined hb]
    rfl
  have hgrantable := asked_grantable hm hv hf' (by rw [hk]; decide) hfree
  obtain ⟨g, hev⟩ := event_grants hq hv.view (idle_of_orders hv.orders hq.2.2) hv.due hv.queue hgrantable t
  exact grant_berth_ended (w := v.modEv fun e => { e with scanDue := false }) (q := ⟨n, x.zone, path, s.reqSeq⟩)
    ((zoneE_of_view hv.view _).trans hf') hk ((berthOfZone_of_tab htab _).trans hof)
    (show (v.berthS b).state = .requested by rw [hv.berth]) hg ((authE_of_tab htab a).trans hy) hyk hv.boat hv.queue
    (fun z hzp => zoneE_range (hdefined z hzp)) g hev

end

/-! ### A berth that is neither asked for nor released (R68) -/

/-- What holds of a berth that no grant and no return concerns, its completed flags aside. -/
structure Unasked (R : BerthStatus → Prop) : Prop where
  requested : ∀ p, R p → p.state ≠ .requested
  released : ∀ p, R p → p.state ≠ .released
  lampDone : ∀ p, R p → R { p with lampDone := false }
  lockDone : ∀ p, R p → R { p with lockDone := false }

theorem unasked_state {x : BerthState} (hreq : x ≠ .requested) (hrel : x ≠ .released) : Unasked fun p => p.state = x where
  requested _ hp := hp ▸ hreq
  released _ hp := hp ▸ hrel
  lampDone _ hp := hp
  lockDone _ hp := hp

theorem unasked_pending {x : BerthState} (hreq : x ≠ .requested) (hrel : x ≠ .released) : Unasked fun p => p.pending = true ∧ p.state = x where
  requested _ hp := hp.2 ▸ hreq
  released _ hp := hp.2 ▸ hrel
  lampDone _ hp := hp
  lockDone _ hp := hp

/-- The berth is in such a status. -/
def State.Aside (R : BerthStatus → Prop) (b : Nat) (s : State) : Prop := R (s.berthS b)

namespace State.Aside

variable {R : BerthStatus → Prop} {b : Nat} {s : State}

theorem ofBerths {u : State} (hs : s.Aside R b) (h : u.berths = s.berths) : u.Aside R b := by
  unfold State.Aside State.berthS at *
  rw [h]
  exact hs

theorem setOther {c : Nat} {f : BerthStatus → BerthStatus} (hs : s.Aside R b) (hc : c ≠ b) : (s.setBerth c f).Aside R b := by
  unfold State.Aside
  rw [berthS_setBerth, if_neg fun h => hc h.1.symm]
  exact hs

variable (hR : Unasked R)
include hR

theorem berthReturned (c : Nat) (hs : s.Aside R b) : (s.berthReturned c).Aside R b := by
  unfold State.berthReturned
  split
  · exact hs
  · next e he =>
    dsimp only
    split
    · exact hs
    · next hrel =>
      have hc : c ≠ b := fun h => hrel (by rw [h]; exact hR.released _ hs)
      split
      · exact hs.setOther hc
      · rw [berthDerive_eq he]
        exact hs.setOther hc

theorem berthGranted (c : Nat) (hs : s.Aside R b) : (s.berthGranted c).Aside R b := by
  unfold State.berthGranted
  by_cases hc : c = b
  · unfold State.Aside
    rw [berthS_setBerth]
    split
    · rw [hc, if_neg (hR.requested _ hs)]
      exact hs
    · exact hs
  · exact hs.setOther hc

omit hR in
theorem toBerth {f : State → Nat → State} (hf : ∀ {t : State} c, t.Aside R b → (f t c).Aside R b) (z : Nat) (hs : s.Aside R b) :
    (s.toBerth z f).Aside R b := by
  unfold State.toBerth
  split
  · exact hs
  · exact hf _ hs

theorem launchAbort (k : Nat) (r : AbortReason) (hs : s.Aside R b) : (s.launchAbort k r).Aside R b := by
  unfold State.launchAbort
  split
  · next e c _ _ =>
    dsimp only
    have h1 : ((s.putSeq k .idle).hand e.booster .boosterSafe).Aside R b := hs.ofBerths (berths_hand _ _ _)
    refine State.Aside.ofBerths ?_ (berths_of_bench (bench_notice _ _))
    split
    · exact toBerth (berthReturned hR) _ (h1.ofBerths ((modBoat_berths _ _ _).trans (berths_returnReservations _ _)))
    · exact h1
  · exact hs

theorem abortCharge (k : Nat) (r : AbortReason) (hs : s.Aside R b) : (s.abortCharge k r).Aside R b := by
  unfold State.abortCharge
  split
  · exact hs.launchAbort hR k r
  · exact hs

omit hR in
theorem deliverPulse (c : Nat) (src : Source) (hs : s.Aside R b) : (s.deliverPulse c src).Aside R b := by
  refine hs.ofBerths (foldl_view State.berths (fun t u => ?_) _ _)
  split
  · exact berths_of_bench (bench_arrive t u c _ src)
  · rfl

theorem inhibitPulse (c : Nat) (hs : s.Aside R b) : (s.inhibitPulse c).Aside R b := by
  unfold State.inhibitPulse
  refine foldl_keeps (P := State.Aside R b) (fun t u ht => ?_) _ hs
  split
  · exact ht.abortCharge hR _ _
  · exact ht

theorem pulse (g : Gen) (hs : s.Aside R b) : (s.pulse g).Aside R b := by
  unfold State.pulse
  refine foldl_keeps (P := State.Aside R b) (fun t c ht => ?_) _ hs
  split
  · exact (ht.deliverPulse c .generated).inhibitPulse hR c
  · exact ht

theorem abortInhibited (hs : s.Aside R b) : s.abortInhibited.Aside R b := by
  refine foldl_keeps (P := State.Aside R b) (fun t k ht => ?_) [0, 1] hs
  split
  · exact ht.abortCharge hR k _
  · exact ht

theorem chargeStart (k c : Nat) (hs : s.Aside R b) : (s.chargeStart k c).Aside R b := by
  unfold State.chargeStart
  split
  · exact hs
  · have h1 : ∀ q, (s.putSeq k q).Aside R b := fun q => hs.ofBerths rfl
    dsimp only
    split
    · exact (h1 _).launchAbort hR k _
    · split
      · exact (h1 _).launchAbort hR k _
      · exact hs.ofBerths (berths_hand _ _ _)

theorem beginRelease (q : QEntry) (e : ZoneEntry) (hs : s.Aside R b) : (s.beginRelease q e).Aside R b := by
  by_cases he : e.kind = .launch
  · have h1 : ∀ r, (s.putRel q.boat r).Aside R b := fun r => hs.ofBerths (putRel_berths _ _ _)
    unfold State.beginRelease
    rw [he]
    dsimp only
    split
    · exact h1 _
    · exact (h1 _).chargeStart hR _ _
  · exact hs.ofBerths (beginRelease_view State.berths putRel_berths berths_hand he s)

theorem grant (q : QEntry) (hs : s.Aside R b) : (s.grant q).Aside R b := by
  have htaken : (s.taken q).Aside R b := hs.ofBerths ((modBoat_berths _ _ _).trans
    (foldl_view (f := fun s z => s.modZs z fun x => { x with reserved := some q.boat }) State.berths (fun _ _ => rfl) q.path s))
  have htold := toBerth (berthGranted hR) q.origin htaken
  rw [grant_taken]
  split
  · exact htold
  · exact htold.beginRelease hR q _

theorem scans (n : Nat) {s : State} (hs : s.Aside R b) : (State.scans n s).Aside R b := by
  induction n generalizing s with
  | zero => exact hs
  | succ n ih =>
    unfold State.scans
    split
    · refine ih (foldl_keeps (P := State.Aside R b) (fun t q ht => ?_) _ hs)
      split
      · exact ht.grant hR q
      · exact ht
    · exact hs

/-- The end of an event leaves the berth alone but for its completed flags. -/
theorem event {f : State → State} {s : State} (hs : (f s).Aside R b) : (State.event f s).Aside R b := by
  have h1 : ((State.edges s (f s)).evalUserHolds).Aside R b :=
    hs.ofBerths ((berths_of_bench (bench_evalUserHolds _)).trans (berths_of_bench (bench_edges _ s)))
  unfold State.event State.settle State.Aside
  dsimp only
  rw [berthS_ended]
  exact settleBerths_status hR.lampDone hR.lockDone ((h1.abortInhibited hR).scans hR _)

end State.Aside

/-- An unconfirmed lock stays so: a command only unconfirms (R67, R128). -/
theorem quiet_unconfirmed (e : BerthEntry) : Quiet fun s => s.lockConfirmed e = false := by
  have same : ∀ {s t : State}, s.lockConfirmed e = false → t.acts = s.acts → t.lockConfirmed e = false := fun {s t} hs h =>
    (lockConfirmed_of_act (by unfold State.actS; rw [h])).trans hs
  have raw : ∀ {s : State} a v, s.lockConfirmed e = false → (s.handRaw a v).lockConfirmed e = false := fun {s} a v hs => by
    unfold State.lockConfirmed at *
    rw [actS_handRaw]
    split
    · exact Bool.and_false _
    · exact hs
  exact {
    startUp := fun hs => hs
    placeHeld := fun {s} hs => same hs (acts_of_bench (bench_placeHeld s))
    buildNotice := fun {s} hs => same hs (acts_of_bench (bench_buildNotice s))
    startDn := fun hs => hs
    placeLimit := fun _ _ _ hs => hs
    placeCommands := fun _ _ hs => hs
    queueNotice := fun _ _ hs => hs
    dropNotice := fun hs => hs
    handRaw := fun a v _ hs => raw a v hs
    handAny := fun a v _ hs => raw a v hs
    modEv := fun _ hs => hs
    putZs := fun _ _ _ hs => hs
    putBerth := fun _ _ _ hs => hs
    putNode := fun _ _ _ hs => hs
    modBoat := fun _ _ _ hs => same hs (by simp)
    putRel := fun _ _ hs => same hs (by simp)
    filterQueue := fun _ hs => hs
    putSeq := fun _ _ _ _ hs => hs }

/-! ### Presses that wait, and presses that are discarded (R68) -/

section
variable {s : State} {b : Nat} {e : BerthEntry}

theorem pressEdge_waits (h : ((s.berthS b).state = .secured ∧ (s.pulse (.berthButton b)).lockConfirmed e = false) ∨
    ((s.berthS b).state = .occupied ∧ (s.berthS b).latch = true)) :
    s.pressEdge b e = (s.pulse (.berthButton b)).setBerth b fun q => { q with pending := true } := by
  unfold State.pressEdge
  dsimp only
  rcases h with ⟨hst, hc⟩ | ⟨hst, hl⟩ <;> rw [hst] <;> dsimp only
  · exact if_neg (by rw [hc]; decide)
  · exact if_pos hl

theorem pressEdge_discarded (h : (s.berthS b).state = .empty ∨ (s.berthS b).state = .requested ∨ (s.berthS b).state = .released ∨
    (s.berthS b).state = .fault ∨ ((s.berthS b).state = .occupied ∧ (s.berthS b).latch = false)) :
    s.pressEdge b e = s.pulse (.berthButton b) := by
  unfold State.pressEdge
  dsimp only
  rcases h with hst | hst | hst | hst | ⟨hst, hl⟩ <;> rw [hst]
  exact if_neg (by rw [hl]; decide)

/-- A berth keeps its state through a press's pulse, and an unconfirmed lock stays so: the press is set aside (R68). -/
theorem pressEdge_set_aside {t : Nat} (h : ((s.berthS b).state = .secured ∧ s.lockConfirmed e = false) ∨
    ((s.berthS b).state = .occupied ∧ (s.berthS b).latch = true)) :
    ((s.at_ t).touch b).pressEdge b e = (s.pressAt t b).setBerth b fun q => { q with pending := true } := by
  refine pressEdge_waits (s := (s.at_ t).touch b) (h.imp (fun ⟨hsec, hc⟩ => ⟨hsec, ?_⟩) id)
  exact (quiet_unconfirmed e).pulse (fun _ h => h) _ hc

theorem aside_pressAt {R : BerthStatus → Prop} (hR : Unasked R) (h : R (s.berthS b)) (t : Nat) : (s.pressAt t b).Aside R b :=
  State.Aside.pulse hR _ (s := (s.at_ t).touch b) h

theorem mc_pressAt (t : Nat) : (s.pressAt t b).mc = s.mc := (mc_pulse ((s.at_ t).touch b) (.berthButton b)).trans rfl

/-- A press that cannot be taken yet is pending after its event (R68). -/
theorem completes_press_pending {t src : Nat} (hb : s.berthOfSource src = some (b, e))
    (h : ((s.berthS b).state = .secured ∧ s.lockConfirmed e = false) ∨ ((s.berthS b).state = .occupied ∧ (s.berthS b).latch = true)) :
    Completes (.berth t src (s.berthS b).presence (s.berthS b).latch true) s fun u =>
      (u.berthS b).pending = true ∧ (u.berthS b).state = (s.berthS b).state ∧ u.mc = s.mc := by
  have hst : (s.berthS b).state = .secured ∨ (s.berthS b).state = .occupied := h.imp And.left And.left
  have hreq : (s.berthS b).state ≠ .requested := by rcases hst with hst | hst <;> rw [hst] <;> decide
  have hrel : (s.berthS b).state ≠ .released := by rcases hst with hst | hst <;> rw [hst] <;> decide
  have hkept : ((s.pressAt t b).berthS b).state = (s.berthS b).state := aside_pressAt (unasked_state hreq hrel) rfl t
  have hmc := mc_pressAt (s := s) (b := b) t
  refine completes_command rfl _ ((takeBerth_press (s := s.at_ t) hb).trans (pressEdge_set_aside h)) ?_
  generalize s.pressAt t b = v at hkept hmc
  have hpending : (v.setBerth b fun q => { q with pending := true }).Aside (fun p => p.pending = true ∧ p.state = (s.berthS b).state) b := by
    unfold State.Aside
    rw [berthS_setBerth, if_pos ⟨rfl, berthE_range (berthOfSource_defined hb)⟩]
    exact ⟨rfl, hkept⟩
  obtain ⟨hp, hs⟩ := State.Aside.event (unasked_pending hreq hrel) (f := fun _ => v.setBerth b fun q => { q with pending := true })
    (s := s.at_ t) hpending
  exact ⟨hp, hs, (mc_event _ _).trans hmc⟩

/-- A press in another state is discarded (R68). -/
theorem completes_press_discarded {t src : Nat} (hb : s.berthOfSource src = some (b, e))
    (h : (s.berthS b).state = .empty ∨ (s.berthS b).state = .requested ∨ (s.berthS b).state = .released ∨
      (s.berthS b).state = .fault ∨ ((s.berthS b).state = .occupied ∧ (s.berthS b).latch = false))
    (hm : s.mode = .hold) (hc : ∀ k, k < 2 → (s.seqS k).state ≠ .charging) :
    Completes (.berth t src (s.berthS b).presence (s.berthS b).latch true) s fun u =>
      (u.berthS b).pending = (s.berthS b).pending ∧ (u.berthS b).state = (s.berthS b).state ∧ u.queue = s.queue := by
  have hp := atPress_pressAt hc t b
  refine completes_command rfl (s.pressAt t b) ((takeBerth_press (s := s.at_ t) hb).trans (pressEdge_discarded (s := (s.at_ t).touch b) h)) ?_
  obtain ⟨hbook, hpending, hstate⟩ := press_settles (w := s.pressAt t b) (s0 := s.at_ t) (b := b) (by rw [hp.mode, hm]; decide)
    (idle_of_orders hp.orders hc) (R := fun p => p.pending = (s.berthS b).pending ∧ p.state = (s.berthS b).state) (fun _ hp => hp)
    (fun _ hp => hp) (by rw [hp.berthS]; exact ⟨rfl, rfl⟩)
  exact ⟨hpending, hstate, (queue_of_book hbook).trans hp.queue⟩

end

/-- Settles O38: a press is taken, waits or is discarded by the berth's state, and its request is followed to the end of the event. -/
theorem berthPressMakesRequest : Obligations.BerthPressMakesRequest := by
  refine ⟨fun _ _ _ _ _ _ _ _ hb hst hconf hm hc hr ho hx hxst hz hw =>
      completes_press_accepted hb hst hconf hc hm hr ho hx hxst hz hw,
    fun t src b e n x reason s hb hst hconf hm hc hr ho hx hxst hz hw => ?_,
    fun t src b e n x k reason s hb hst hconf hm hc hr ho hx hk hl hp => ?_,
    fun _ _ _ _ _ _ _ _ _ _ hb hst hconf hm hc hr ho hx hk hl hp hno hxst hz hw =>
      completes_press_pad hb hst hconf hc hm hr ho hx hk hl hp hno hxst hz hw,
    fun _ _ _ _ _ _ _ _ _ hq hb hst hconf hm hr ho hx hxst hz hw hno hqueue hzp hfree =>
      completes_press_blocked hq hb hst hconf hm hr ho hx hxst hz hw hno hqueue hzp hfree,
    fun _ _ _ _ _ _ _ f _ _ s hq hb hst hconf hm hr ho hx hxst hxz hw hno hqueue hfree hf hk hfb hg hy hyk =>
      completes_press_granted hq hb hst hconf hm hr ho hx hxst ?_ hw hno hqueue hxz hfree hf hk hfb hg hy hyk,
    fun t src b e n x s hb hst hconf hm hsound _ _ => completes_press_refused hb hst hconf (fun k hk => ?_) hm,
    fun _ _ _ _ _ hb h => completes_press_pending hb h,
    fun _ _ _ _ _ hb h hm hc => completes_press_discarded hb h hm hc⟩
  · have h := atPress_pressAt hc t b
    refine completes_press_noticed hb hst hconf hc hm ?_
    rw [takePress_request ((h.occupant _).trans ho) hr]
    exact pressRequest_walk_error ((h.boatR n).trans hx) (.inr (h.mode.trans hm)) hxst ((stoppable_of_tab h.tab _).trans hz)
      ((walk_of_tab h.tab _ _).trans hw)
  · have h := atPress_pressAt hc t b
    refine completes_press_noticed hb hst hconf hc hm ?_
    rw [takePress_pad ((h.occupant _).trans ho) hr]
    exact padPress_error ((h.sectionOfZone _).trans hk) (by rw [launchE_of_tab h.tab]; exact hl) ((h.boatR n).trans hx) (h.preCheck_error hp)
  · unfold State.stoppable
    rw [hxz, hf]
    show f.kind.stoppable = true
    rw [hk]
    rfl
  · obtain ⟨h0, h1⟩ := hsound hm
    interval_cases k
    · rw [h0]
      decide
    · rw [h1]
      decide

end Sys2Proof.Machine
end
